-- ==== Sys2Proof/Word.lean ====
section
/-! DEFINITION. The word types of the machine and their plainest operations (00 R7 R9). -/

namespace Sys2Proof

/-- A byte of any memory. -/
abbrev Byte := BitVec 8
/-- A 32-bit register value. -/
abbrev Word := BitVec 32
/-- A 64-bit value: a register pair, a slot of a bundle, a Keyway word. -/
abbrev DWord := BitVec 64
/-- A bundle address of a path: 52 bits (01 R27). -/
abbrev Pc := BitVec 52
/-- A lane mask: bit l stands for lane l. -/
abbrev Mask := BitVec 32

/-- One bit of a Boolean. -/
abbrev bit (b : Bool) : BitVec 1 := BitVec.ofBool b

end Sys2Proof
end

