-- ==== Sys2Proof/Syntax.lean ====
section
/-! DEFINITION. The instruction language: operands, operand shapes and the one inductive Instr, with one constructor
for each row of spec/opcode_table.json. A shape lists the fields an entry uses; the fields it does not use are RZ and
have no place in it. -/

namespace Sys2Proof

/-! ### Operands (07 R209 R210) -/

/-- The predicate field PR of 07 R208 R209: absent (PE = 0), or PN with its inversion. -/
inductive Pred
  | always
  | on (neg : Bool) (p : BitVec 3)
deriving DecidableEq, Repr

/-- A vector operand of class V or VP: I and the base (07 R210). -/
structure VReg where
  ix   : Bool
  base : BitVec 8
deriving DecidableEq, Repr

/-- A scalar register s0 to s63 (classes S and SP). -/
abbrev SReg := BitVec 6
/-- A predicate register p0 to p7. -/
abbrev PReg := BitVec 3
/-- An accumulator tile ac0 to ac31. -/
abbrev Tile := BitVec 5
/-- A named barrier nb0 to nb31. -/
abbrev Bar := BitVec 5

/-- An operand that is a vector register, or a scalar register where BS (or AS) is 1. -/
inductive VB
  | vec (r : VReg)
  | scl (r : SReg)
deriving DecidableEq, Repr

/-- The RM field of 04 R133. -/
inductive Rm
  | none | rn | rz | ru | rd
deriving DecidableEq, Repr

/-- The modifier bits of one operand: N and A bits (08 R221). -/
structure Mod where
  neg : Bool
  abs : Bool
deriving DecidableEq, Repr

/-- The type codes 0x0 to 0xD of 04 R126. -/
inductive NumType
  | fp16 | bf16 | e4m3 | e5m2 | e2m1 | int8 | int4 | uint8 | fp32 | int32 | uint32 | int64 | uint64 | e8m0
deriving DecidableEq, Repr

/-- The ORD field of 07 R208. -/
inductive Ord
  | plain | relaxed | acquire | release | acqRel | sc
deriving DecidableEq, Repr

/-- The SCOPE field of 07 R208. -/
inductive Scope
  | wave | team | core | dev | sys
deriving DecidableEq, Repr

/-- The SIZE field of 07 R208: bytes of one lane's access. -/
inductive Size
  | b1 | b2 | b4 | b8 | b16
deriving DecidableEq, Repr

/-- The HINT field of 07 R208. -/
inductive Hint
  | none | evictFirst | evictLast
deriving DecidableEq, Repr

/-- The class of a counter wait (09 R276). -/
inductive CntClass
  | copy | matrix | net | test
deriving DecidableEq, Repr

/-- The saturation of IADD and ISUB (08 R229). -/
inductive IntSat
  | wrap | signed | unsigned
deriving DecidableEq, Repr

/-- The mode of SHFL (08 R223 R241). -/
inductive ShflMode
  | lane | rotl | rotr | xor
deriving DecidableEq, Repr

/-- The condition of VOTE, with the predicate it writes (08 R242). -/
inductive VoteCond
  | none
  | all (pd : PReg)
  | any (pd : PReg)
  | same (pd : PReg)
deriving DecidableEq, Repr

/-- The operation of REDUX (08 R243). -/
inductive ReduxOp
  | add | min | max | minu | maxu | and | or | xor
deriving DecidableEq, Repr

/-- The form of REDUX: the total into a scalar register, or the exclusive scan into a vector register (08 R243). -/
inductive ReduxDst
  | total (sd : SReg)
  | scan (vd : VReg)
deriving DecidableEq, Repr

/-- The form of PSET (08 R247). -/
inductive PsetMode
  | zero
  | one
  | bits (sb : SReg)
  | nonzero (sb : SReg)
deriving DecidableEq, Repr

/-- The operation of ATOM (09 R263). -/
inductive AtomOp
  | add | min | max | minu | maxu | and | or | xor | exch | cas | inc | dec
deriving DecidableEq, Repr

/-- The operation of FATOM (09 R265). -/
inductive FatomOp
  | addF32 | addF16x2 | addBf16x2 | minF32 | maxF32
deriving DecidableEq, Repr

/-- The word RECINFO reads (10 R296). -/
inductive RecSel
  | lo | hi | len
deriving DecidableEq, Repr

/-- The record a RECLD or RECINFO names: the lane's own, or by a register (10 R294 R296). -/
inductive RecIx
  | self
  | by (b : VB)
deriving DecidableEq, Repr

/-- The element type of MLOAD and MSTORE (11 R309). -/
inductive TileTy
  | f32 | f16 | bf16 | i32
deriving DecidableEq, Repr

/-- The mode of MITER with the operands only that mode uses (11 R309 R318). -/
inductive MiterMode
  | affine (sa : SReg) (bt : Tile)
  | ns
  | poly (deg : BitVec 3)
deriving DecidableEq, Repr

/-! ### Shapes of slots 0 and 1 (08) -/

/-- FADD and its like: D A B RM, modifiers of A and B (08 R230). -/
structure F2 where
  pr : Pred
  d : VReg
  a : VReg
  b : VB
  rm : Rm
  ma : Mod
  mb : Mod
deriving DecidableEq, Repr

/-- FFMA and HFMA2 (08 R230). -/
structure F3 where
  pr : Pred
  d : VReg
  a : VReg
  b : VB
  c : VReg
  rm : Rm
  ma : Mod
  mb : Mod
  mc : Mod
deriving DecidableEq, Repr

/-- FMIN and its like (08 R230). -/
structure FMinMax where
  pr : Pred
  d : VReg
  a : VReg
  b : VB
  ma : Mod
  mb : Mod
deriving DecidableEq, Repr

/-- FCMP (08 R224 R230). -/
structure FCmp where
  pr : Pred
  d : PReg
  a : VReg
  b : VB
  cc : BitVec 4
  ma : Mod
  mb : Mod
deriving DecidableEq, Repr

/-- FRND, DDX and DDY without its modifiers, and the special functions: one source, a rounding field (08 R230 R233). -/
structure F1 where
  pr : Pred
  d : VReg
  a : VReg
  rm : Rm
  ma : Mod
deriving DecidableEq, Repr

/-- CVT (08 R234). -/
structure Cvt where
  pr : Pred
  d : VReg
  a : VReg
  rm : Rm
  sat : Bool
  ma : Mod
  dt : NumType
  st : NumType
deriving DecidableEq, Repr

/-- SCVT (08 R234). -/
structure SCvt where
  d : SReg
  a : SReg
  rm : Rm
  sat : Bool
  ma : Mod
  dt : NumType
  st : NumType
deriving DecidableEq, Repr

/-- PACK and UNPACK (08 R236); the scale operand is there when SC = 1. -/
structure PackOps where
  pr : Pred
  d : VReg
  a : VReg
  scale : Option VB
  rm : Rm
  sat : Bool
  dt : NumType
  st : NumType
deriving DecidableEq, Repr

/-- DOT4.I8 and DOT8.I4 (08 R238). -/
structure DotI where
  pr : Pred
  d : VReg
  a : VReg
  b : VB
  c : VReg
  au : Bool
  bu : Bool
  sat : Bool
deriving DecidableEq, Repr

/-- DOT4.F8, DOT8.F4 and DOT2.H (08 R238); fa and fb are SUB[0] and SUB[1]. -/
structure DotF where
  pr : Pred
  d : VReg
  a : VReg
  b : VB
  c : VReg
  fa : Bool
  fb : Bool
  rm : Rm
  mc : Mod
deriving DecidableEq, Repr

/-- One half of a paired slot (07 R211). -/
structure Half where
  d : VReg
  b : VB
  pr : Pred
  nb : Bool
deriving DecidableEq, Repr

/-- Scalar D A B (08 R225). -/
structure S2 where
  d : SReg
  a : SReg
  b : SReg
deriving DecidableEq, Repr

/-- Vector integer D A B (08 R227). -/
structure I2 where
  pr : Pred
  d : VReg
  a : VReg
  b : VB
deriving DecidableEq, Repr

/-- Vector integer D A B C (08 R227). -/
structure I3 where
  pr : Pred
  d : VReg
  a : VReg
  b : VB
  c : VReg
deriving DecidableEq, Repr

/-- Vector integer D A (08 R227). -/
structure I1 where
  pr : Pred
  d : VReg
  a : VReg
deriving DecidableEq, Repr

/-- ICMP (08 R227). -/
structure ICmp where
  pr : Pred
  d : PReg
  a : VReg
  b : VB
  cc : BitVec 4
deriving DecidableEq, Repr

/-- PLOP (08 R246). -/
structure Plop where
  pr : Pred
  d : PReg
  a : PReg
  b : PReg
  c : PReg
  f1 : BitVec 4
  f2 : BitVec 4
deriving DecidableEq, Repr

/-! ### Shapes of slot 2 (09, 10, 11) -/

/-- BRA (10 R281): JOFS is 0 without a predicate. -/
structure Bra where
  pr : Pred
  tofs : BitVec 24
  jofs : BitVec 24
deriving DecidableEq, Repr

/-- BRX (10 R281). -/
structure Brx where
  pr : Pred
  a : SReg
  jofs : BitVec 24
deriving DecidableEq, Repr

/-- A vector load or store: format M of kind L (09 R257). sx is bit 24, a load's SX (09 R255). -/
structure MemV where
  pr : Pred
  d : VReg
  a : VB
  sx : Bool
  ord : Ord
  scope : Scope
  size : Size
  hint : Hint
  ofs : BitVec 12
deriving DecidableEq, Repr

/-- SLD.c and SLD.g (09 R260). -/
structure MemS where
  d : SReg
  a : SReg
  ord : Ord
  scope : Scope
  size : Size
  hint : Hint
  ofs : BitVec 12
deriving DecidableEq, Repr

/-- ATOM.g and ATOM.l (09 R263). -/
structure Atom where
  op : AtomOp
  pr : Pred
  d : VReg
  a : VB
  c : VReg
  ord : Ord
  scope : Scope
  size : Size
  hint : Hint
  ofs : BitVec 8
deriving DecidableEq, Repr

/-- FATOM (09 R265). -/
structure Fatom where
  op : FatomOp
  pr : Pred
  d : VReg
  a : VB
  c : VReg
  ord : Ord
  scope : Scope
  hint : Hint
  ofs : BitVec 8
deriving DecidableEq, Repr

/-- LR (09 R266). -/
structure LoadRes where
  pr : Pred
  d : VReg
  a : VB
  ord : Ord
  scope : Scope
  size : Size
  ofs : BitVec 12
deriving DecidableEq, Repr

/-- SC (09 R266). -/
structure StoreCond where
  pr : Pred
  d : VReg
  a : VB
  c : VReg
  ord : Ord
  scope : Scope
  size : Size
  ofs : BitVec 12
deriving DecidableEq, Repr

/-- PREFETCH (09 R269). -/
structure Prefetch where
  pr : Pred
  a : VB
  hint : Hint
  ofs : BitVec 12
deriving DecidableEq, Repr

/-- WAITADDR (09 R270); local is SPC. -/
structure WaitAddr where
  d : SReg
  a : SReg
  c : SReg
  scope : Scope
  size : Size
  isLocal : Bool
  ofs : BitVec 11
deriving DecidableEq, Repr

/-- RECLD (10 R294); ofsReg is A where AV = 1. -/
structure RecLd where
  pr : Pred
  d : VReg
  ri : RecIx
  ofsReg : Option VB
  size : Size
  ofs : BitVec 8
deriving DecidableEq, Repr

/-- RECINFO (10 R281). -/
structure RecInfo where
  pr : Pred
  d : VReg
  ri : RecIx
  sel : RecSel
deriving DecidableEq, Repr

/-- QAPPEND (10 R281). -/
structure QAppend where
  pr : Pred
  d : PReg
  a : VReg
  port : BitVec 3
deriving DecidableEq, Repr

/-- MMA and MMA.SP (11 R309). -/
structure Mma where
  pr : Pred
  d : Tile
  a : SReg
  b : VReg
  c : Tile
  nc1 : BitVec 3
  vs : VReg
deriving DecidableEq, Repr

/-- MLOAD and MSTORE (11 R309). -/
structure MMove where
  pr : Pred
  d : Tile
  a : SReg
  ty : TileTy
deriving DecidableEq, Repr

/-- MITER (11 R309). -/
structure Miter where
  pr : Pred
  d : SReg
  pd : PReg
  x : Tile
  b : SReg
  mode : MiterMode
deriving DecidableEq, Repr

/-- NEVAL (11 R309). -/
structure Neval where
  pr : Pred
  d : VReg
  a : VReg
  b : VB
  ni1 : BitVec 5
  no1 : BitVec 6
deriving DecidableEq, Repr

/-- TRV.BOX and TRV.TRI (11 R325). -/
structure Trv where
  pr : Pred
  d : VReg
  pd : PReg
  a : VReg
  b : VReg
deriving DecidableEq, Repr

/-- TEX.G and TEX.L (11 R330). -/
structure Tex where
  pr : Pred
  d : VReg
  a : VReg
  b : VReg
  c : SReg
deriving DecidableEq, Repr

/-- DDX and DDY (11 R329). -/
structure Deriv where
  pr : Pred
  d : VReg
  a : VReg
  rm : Rm
deriving DecidableEq, Repr

/-! ### Agents named by device events -/

/-- Device-wide core number, 64 x stack + core (00 R3). -/
abbrev CoreNum := BitVec 7
/-- Partition of a core, 0 to 7. -/
abbrev PartNum := BitVec 3
/-- Device-wide cluster and engine number, 16 x stack + cluster (00 R3). -/
abbrev ClusterNum := BitVec 5
/-- Stack number. -/
abbrev StackNum := BitVec 1
/-- Hardware queue number (16 R385). -/
abbrev QueueNum := BitVec 5
/-- Context number (15 R355). -/
abbrev CtxNum := BitVec 6

/-- The two PC slots of a wave (01 R27). -/
inductive PcSlot
  | a | b
deriving DecidableEq, Repr

/-- The agent a device event concerns: each event reads the fields its rule speaks of. -/
structure Agent where
  wave : Nat
  seq : Nat
  slot : PcSlot
  core : CoreNum
  part : PartNum
  cl : ClusterNum
  idx : BitVec 5
  stk : StackNum
  ctx : CtxNum
  run : Nat
  node : BitVec 8
  team : Nat
  count : Nat
deriving DecidableEq, Repr

/-! ### Keyway (16 R388 R389) -/

/-- A Keyway register q0 to q15. -/
abbrev QReg := BitVec 4

/-- The condition CC of 16 R388. -/
inductive QCond
  | always | eq | ne | lo | hs | lt | ge
deriving DecidableEq, Repr

/-- The operation of SIGNAL (16 R389). -/
inductive SigOp
  | set | add
deriving DecidableEq, Repr

/-! ### Management packets (16 R395) -/

/-- One field of a packet: FTYPE and its value. -/
structure PktField where
  ftype : BitVec 16
  value : List Byte
deriving DecidableEq, Repr

/-- A management packet after its TYPE has been read: SEQ, CTX, whether its form breaks 16 R395 or R396, and its
fields in order. -/
structure Packet where
  seq : BitVec 16
  ctx : CtxNum
  malformed : Bool
  fields : List PktField
deriving DecidableEq, Repr

/-- The unit a service request names: STK, UNIT (18 R425). -/
structure SvcUnit where
  stk : StackNum
  kind : BitVec 4
  unit : BitVec 8
deriving DecidableEq, Repr

/-- The place of a soft error (18 R428). -/
inductive ErrPlace
  | gddr (addr : Nat)
  | l2 (addr : Nat)
  | queueStore (stk : StackNum)
  | localStore (core : CoreNum)
  | weight (stk : StackNum) (addr : Nat)
  | accumulator (engine : ClusterNum)
deriving DecidableEq, Repr

/-- How a start ended: READY, or the step of 18 R416 that failed. -/
inductive StartResult
  | ready
  | failed (step : BitVec 4)
deriving DecidableEq, Repr

/-- A BAR2 access: a read, or a write of bytes (16 R382). -/
inductive Bar2
  | read (addr : Nat) (len : Nat)
  | write (addr : Nat) (bytes : List Byte)
deriving DecidableEq, Repr

/-! ### The instruction language -/

/-- One constructor for each row of spec/opcode_table.json. -/
inductive Instr
  -- slot 0 (08)
  | fadd (o : F2) | fsub (o : F2) | fmul (o : F2) | ffma (o : F3)
  | fmin (o : FMinMax) | fmax (o : FMinMax) | fcmp (o : FCmp) | frnd (o : F1)
  | hadd2 (o : F2) | hmul2 (o : F2) | hfma2 (o : F3) | hmin2 (o : FMinMax) | hmax2 (o : FMinMax)
  | cvt (o : Cvt) | pack (o : PackOps) | unpack (o : PackOps)
  | dot4I8 (o : DotI) | dot8I4 (o : DotI) | dot4F8 (o : DotF) | dot8F4 (o : DotF) | dot2H (o : DotF)
  -- paired halves (07 R211)
  | pairedFadd (o : Half) | pairedFsub (o : Half) | pairedFmul (o : Half) | pairedFmin (o : Half)
  | pairedFmax (o : Half) | pairedHadd2 (o : Half) | pairedHmul2 (o : Half) | pairedMov (o : Half)
  | pairedIadd (o : Half) | pairedIsub (o : Half) | pairedIand (o : Half) | pairedIor (o : Half)
  | pairedIxor (o : Half) | pairedIshl (o : Half) | pairedIshr (o : Half) | pairedIsar (o : Half)
  | pairedImin (o : Half) | pairedImax (o : Half)
  -- slot 1 (08)
  | sadd (o : S2) (wide : Bool) | ssub (o : S2) (wide : Bool) | smul (o : S2) | smulhi (o : S2) (un : Bool)
  | sand (o : S2) | sor (o : S2) | sxor (o : S2) | sshl (o : S2) | sshr (o : S2) | ssar (o : S2)
  | smin (o : S2) (un : Bool) | smax (o : S2) (un : Bool) | scmp (o : S2) (cc : BitVec 4)
  | ssel (o : S2) (c : SReg) | smov (d a : SReg) | smovi (d : SReg) (imm : Word)
  | iadd (o : I2) (sat : IntSat) | iaddc (o : I2) (c e : PReg) | isub (o : I2) (sat : IntSat)
  | imul (o : I2) | imulhi (o : I2) (un : Bool) | imad (o : I3)
  | iand (o : I2) | ior (o : I2) | ixor (o : I2) | ishl (o : I2) | ishr (o : I2) | isar (o : I2)
  | imin (o : I2) (un : Bool) | imax (o : I2) (un : Bool) | icmp (o : ICmp) | isel (o : I2) (c : PReg)
  | bfx (o : I2) (sx : Bool) | bfd (o : I3) | popc (o : I1) | clz (o : I1) | brev (o : I1) | bytsel (o : I3)
  | shfl (o : I2) (mode : ShflMode) | vote (pr : Pred) (d : SReg) (a : PReg) (inv : Bool) (cond : VoteCond)
  | redux (pr : Pred) (dst : ReduxDst) (a : VReg) (op : ReduxOp)
  | bcast (pr : Pred) (d a : VReg) (lane : Option SReg) | matchLanes (o : I1) (wide : Bool)
  | rdlane (d : SReg) (a : VReg) (b : SReg) | wrlane (d : VReg) (a b : SReg)
  | plop (o : Plop) | pset (pr : Pred) (d : PReg) (mode : PsetMode) | pget (d : SReg) (a : PReg)
  | pcnt (d : SReg) (a : PReg) | mov (pr : Pred) (d : VReg) (b : VB) | movi (pr : Pred) (d : VReg) (imm : Word)
  | ixset (a : SReg) | ixadd (a : SReg) | ixget (d : SReg) | scvt (o : SCvt)
  -- slot 2: control (10)
  | bra (o : Bra) | brx (o : Brx) | call (tofs : BitVec 24) (d : VReg) | ret (a : VReg)
  | trap (code : BitVec 12) | bpt (code : BitVec 12)
  | rgrowImm (g : BitVec 6) | rgrowReg (a : SReg) | rshrinkImm (g : BitVec 6) | rshrinkReg (a : SReg)
  | setfmtImm (fmt : BitVec 14) | setfmtReg (a : SReg) | getfmt (d : SReg)
  -- special functions (08 R233)
  | rcp (o : F1) | rsq (o : F1) | sqrt (o : F1) | ex2 (o : F1) | lg2 (o : F1) | sin (o : F1) | cos (o : F1)
  | tanh (o : F1)
  -- memory (09)
  | ldG (o : MemV) | ldL (o : MemV) | ldP (o : MemV) | stG (o : MemV) | stL (o : MemV) | stP (o : MemV)
  | sldC (o : MemS) | sldG (o : MemS) | ldw (o : MemV) | atomG (o : Atom) | atomL (o : Atom) | fatom (o : Fatom)
  | lr (o : LoadRes) | sc (o : StoreCond) | fence (ord : Ord) (scope : Scope) | cclean (scope : Scope)
  | cinv (scope : Scope) | prefetch (o : Prefetch) | waitaddr (o : WaitAddr)
  | acopy (a : SReg) | acopy2d (a : SReg) | waitc (cls : CntClass) (cnt : BitVec 8)
  | yieldCopy (a : SReg) (cnt : BitVec 8)
  | barInit (b : Bar) (a : SReg) | barArrive (b : Bar) | barSync (b : Bar) | barWait (b : Bar)
  | barExpect (b : Bar) (a : SReg)
  -- records (10)
  | qappend (o : QAppend) | recld (o : RecLd) | recinfo (o : RecInfo)
  | taskemit (port : BitVec 3) (a b : SReg)
  -- matrix, networks, ordered sections, traversal, sampling (11)
  | mma (o : Mma) | mmaSp (o : Mma) | mload (o : MMove) | mstore (o : MMove) | mzero (pr : Pred) (d : Tile)
  | mspload (pr : Pred) (a : SReg) (nc1 : BitVec 3) | miter (o : Miter)
  | mpoly (pr : Pred) (d c : Tile) (deg : BitVec 4) | mnorm (pr : Pred) (d : SReg) (c : Tile) | neval (o : Neval)
  | latchB (pr : Pred) | latchE (pr : Pred) | trvBox (o : Trv) | trvTri (o : Trv)
  | trvPush (pr : Pred) (a : VReg) | trvPop (pr : Pred) (d : VReg) (pd : PReg)
  | ddx (o : Deriv) | ddy (o : Deriv) | texG (o : Tex) | texL (o : Tex)
  -- special registers and handler instructions (08 R250, 10 R302)
  | rdsr (d : BitVec 9) (sr : BitVec 9) | wrsr (sr : BitVec 9) (a : SReg)
  | rplay (a : SReg) | clock (cl : Bool) (d : SReg) | savew (a : SReg) | restw (a : SReg)
  | hint (op : BitVec 3) (rest : BitVec 56)
  -- Keyway (16 R389)
  | qli (d : QReg) (imm : Word) | qlih (d : QReg) (imm : Word) | qadd (d a b : QReg)
  | qaddi (d a : QReg) (imm : Word) | qsub (d a b : QReg) | qand (d a b : QReg) | qor (d a b : QReg)
  | qshl (d a : QReg) (n : BitVec 6) | qshr (d a : QReg) (n : BitVec 6) | qld (d a : QReg) (imm : Word)
  | qst (a b : QReg) (imm : Word) | br (cc : QCond) (a b : QReg) (imm : Word) | loop (d : QReg) (imm : Word)
  | keywayCall (imm : Word) | launch (d a : QReg)
  | signal (op : SigOp) (sys int : Bool) (a b : QReg) | wait (cc : QCond) (sys : Bool) (d a b : QReg) (us : Word)
  | waitWake (q : QueueNum) | copy (a : QReg) | endq (int : Bool) | queueFetch (q : QueueNum)
  -- host register writes and management packets (16 R385 R396 R398)
  | qwr (q : QueueNum) (v : DWord) | halt (q : QueueNum) | en (q : QueueNum) | irqstat (v : DWord) | mbstat (v : DWord)
  | registerWrite (offset : BitVec 20) (v : DWord)
  | ctxbind (p : Packet) | ctxfree (p : Packet) | ctxwrite (p : Packet) | ctxread (p : Packet) | map (p : Packet)
  | unmap (p : Packet) | protect (p : Packet) | qbind (p : Packet) | preempt (p : Packet) | restore (p : Packet)
  | resetCtx (p : Packet) | weightload (p : Packet) | telemetry (p : Packet) | fwstage (p : Packet)
  | fwcommit (p : Packet) | fwrollback (p : Packet) | powercfg (p : Packet) | unknownType (type : BitVec 16) (p : Packet)
  | liveSwitchQueue (q : QueueNum) | attreq (v : DWord)
  -- service, power and starting (17, 18)
  | testAndReturn (u : SvcUnit) | retire (u : SvcUnit) | retrain (u : SvcUnit) | recalibrate (u : SvcUnit)
  | testAndRepairLanes (u : SvcUnit) | serviceComplete (passed : Bool)
  | channelMigration (lines : Nat) | l2SliceMove (stk : StackNum) (slice : BitVec 6)
  | laneRepair (u : SvcUnit) | repairRetry (u : SvcUnit) | softError (place : ErrPlace) (correctable : Bool)
  | parityError (wave : Nat) (recurs : Bool)
  | sensorCompare (stk : StackNum) (readings : List (BitVec 16)) | coldStart (r : StartResult)
  | warmStart (retained : Bool) (r : StartResult)
  | bar2Access (b : Bar2) | copyCompletion (q : QueueNum)
  | laneSwitchEnd (u : SvcUnit) | repairAbandoned (u : SvcUnit)
  -- rows without an operand (a row's place in this list follows the compiler's limit on constructors with fields)
  | nop | join | exit | regroup | slotsw | teamdone | nodeexit | trapret | haltw | keywayRet | startTimeout
  | powerRemoved
  -- device events: the agent of an event is named by State.who (95_what_each_step_holds.md and the rule of each row)
  | heldBundleComplete | rgrowGrant | rshrinkComplete | parkedWake | waitaddrWake | regroupComplete | flagComplete
  | storeDrain | boundaryFault | fetchFault | slotSwitch | yieldHintExpiry | stallExpiry | starving
  | starvationCapture | engineStarving | spinning | residencyRotation | trapEntry | frameWaitEnd | engineGrant
  | enginePassTokens | matrixRetire | miterIteration | gatherClose | layerPass | nevalRetire | copyChunk
  | copyRetire | testRetire | refreshWindowEnd | placeTeam | gatherTimeout | graphDrain | stealRequest | stealServe
  | recordArrival | meshPlace | teamEnd | runQuiescence | binPrimitive | finalFlush | rasterPrimitiveTile
  | rasterStop | matrixJob | quotaInterval | issueQuotaReached
  | clusterDrainTimeout | canaryWarning | canaryDecay | patternSwitch | targetChange | chargeLatch
  | chargeWindowEnd | saveComplete | resetComplete
deriving DecidableEq, Repr

end Sys2Proof
end

