-- ==== Sys2Proof/WellFormed.lean ====
section
/-! DEFINITION. Which terms of the instruction language an encoding may hold: the values each entry accepts, as far as
they do not depend on the state. A term outside it raises the illegal-instruction trap (07 R208 R213). -/

namespace Sys2Proof

/-- An even scalar register: class SP (07 R210). -/
def evenS (r : SReg) : Bool := !r.getLsbD 0
/-- A scalar register that is a multiple of 4 or 8. -/
def mult4S (r : SReg) : Bool := decide (r.toNat % 4 = 0)
def mult8S (r : SReg) : Bool := decide (r.toNat % 8 = 0)
/-- Class SP where the operand is scalar. -/
def evenVb : VB → Bool
  | .vec _ => true
  | .scl r => evenS r

/-- ORD, SCOPE, SIZE and HINT of 09 R257: the orders an entry accepts; SCOPE is RZ when ORD is plain; an ordered access
has at most 8 bytes; .sc needs .dev or .sys (03 R120). -/
def ordOk (allowed : List Ord) (ord : Ord) (scope : Scope) : Bool :=
  allowed.contains ord && (decide (ord ≠ .plain) || decide (scope = .wave)) &&
    (decide (ord ≠ .sc) || decide (scope = .dev) || decide (scope = .sys))
def sizeOk (ord : Ord) (size : Size) : Bool := decide (ord = .plain) || decide (size ≠ .b16)
/-- SX only with SIZE 0 or 1 (09 R255). -/
def sxOk (sx : Bool) (size : Size) : Bool := !sx || decide (size = .b1) || decide (size = .b2)

/-- The data register of a scalar load, or of WAITADDR, by SIZE (09 R255). -/
def sDataOk (d : SReg) : Size → Bool
  | .b4 => true
  | .b8 => evenS d
  | .b16 => mult4S d
  | _ => false

def isFloat : NumType → Bool
  | .fp16 | .bf16 | .e4m3 | .e5m2 | .e2m1 | .fp32 => true
  | _ => false
def is64 : NumType → Bool
  | .int64 | .uint64 => true
  | _ => false
def noMod (m : Mod) : Bool := !m.neg && !m.abs

/-- NA and AA with a floating-point source only (08 R234). -/
def cvtOk (ma : Mod) (st : NumType) : Bool := isFloat st || noMod ma

/-- The legal pairs of PACK and UNPACK with their scale (08 R236). -/
def packOk (narrow wide : NumType) (scaled : Bool) : Bool :=
  match narrow with
  | .fp16 | .bf16 | .e4m3 | .e5m2 | .e2m1 => decide (wide = .fp32)
  | .e8m0 => decide (wide = .fp32) && !scaled
  | .int8 | .int4 | .uint8 => (decide (wide = .int32) || decide (wide = .uint32)) && !scaled
  | _ => false

/-- FMT codes AFMT, BFMT and SCALE that SETFMT accepts (01 R36, 04 R126). -/
def fmtOk (f : BitVec 14) : Bool :=
  decide ((f.extractLsb' 0 4).toNat ≤ 5) && decide ((f.extractLsb' 4 4).toNat ≤ 5) &&
    decide ((f.extractLsb' 8 3).toNat ≤ 1)

/-- A special-register number and the class of its D (08 R250 R251, 15 R372): the field a class of RDSR may hold.
Numbers without a register are left to the issue check. -/
def rdsrDstOk (d sr : BitVec 9) : Bool :=
  if sr.toNat ≤ 1 then true
  else if sr = 0x100 then decide (d.toNat < 64) && !d.getLsbD 0
  else if sr.toNat < 0x25 ∨ sr = 0x101 then decide (d.toNat < 64)
  else true

def wellFormed : Instr → Bool
  | .fcmp o => decide (o.cc.toNat ≤ 13)
  | .cvt o => cvtOk o.ma o.st
  | .pack o => packOk o.dt o.st o.scale.isSome
  | .unpack o => packOk o.st o.dt o.scale.isSome && (isFloat o.dt || decide (o.rm = .none))
  | .dot8F4 o => !o.fa && !o.fb
  | .pairedMov o => !o.nb | .pairedIadd o => !o.nb | .pairedIsub o => !o.nb | .pairedIand o => !o.nb
  | .pairedIor o => !o.nb | .pairedIxor o => !o.nb | .pairedIshl o => !o.nb | .pairedIshr o => !o.nb
  | .pairedIsar o => !o.nb | .pairedImin o => !o.nb | .pairedImax o => !o.nb
  | .sadd o w => !w || (evenS o.d && evenS o.a && evenS o.b)
  | .ssub o w => !w || (evenS o.d && evenS o.a && evenS o.b)
  | .scmp _ cc => decide (cc.toNat ≤ 9)
  | .icmp o => decide (o.cc.toNat ≤ 9)
  | .scvt o => cvtOk o.ma o.st && (!is64 o.dt || evenS o.d) && (!is64 o.st || evenS o.a)
  | .bra o => decide (o.pr ≠ .always) || decide (o.jofs = 0)
  | .brx o => evenS o.a && (decide (o.pr ≠ .always) || decide (o.jofs = 0))
  | .rgrowImm g => decide (1 ≤ g.toNat ∧ g.toNat ≤ 32)
  | .rshrinkImm g => decide (1 ≤ g.toNat ∧ g.toNat ≤ 32)
  | .setfmtImm f => fmtOk f
  | .rcp o => decide (o.rm = .none) | .rsq o => decide (o.rm = .none) | .ex2 o => decide (o.rm = .none)
  | .lg2 o => decide (o.rm = .none) | .sin o => decide (o.rm = .none) | .cos o => decide (o.rm = .none)
  | .tanh o => decide (o.rm = .none)
  | .ldG o => evenVb o.a && ordOk [.plain, .relaxed, .acquire, .sc] o.ord o.scope && sizeOk o.ord o.size && sxOk o.sx o.size
  | .ldL o => ordOk [.plain, .relaxed, .acquire] o.ord o.scope && sizeOk o.ord o.size && sxOk o.sx o.size &&
      decide (o.hint = .none)
  | .ldP o => ordOk [.plain] o.ord o.scope && sxOk o.sx o.size
  | .stG o => evenVb o.a && ordOk [.plain, .relaxed, .release, .sc] o.ord o.scope && sizeOk o.ord o.size && !o.sx
  | .stL o => ordOk [.plain, .relaxed, .release] o.ord o.scope && sizeOk o.ord o.size && !o.sx && decide (o.hint = .none)
  | .stP o => ordOk [.plain] o.ord o.scope && !o.sx
  | .sldC o => evenS o.a && ordOk [.plain] o.ord o.scope && sDataOk o.d o.size && decide (o.hint = .none)
  | .sldG o => evenS o.a && ordOk [.plain, .relaxed, .acquire, .sc] o.ord o.scope && sizeOk o.ord o.size && sDataOk o.d o.size
  | .ldw o => ordOk [.plain] o.ord o.scope && sxOk o.sx o.size && decide (o.hint = .none)
  | .atomG o => evenVb o.a && ordOk [.relaxed, .acquire, .release, .acqRel, .sc] o.ord o.scope &&
      (decide (o.size = .b4) || decide (o.size = .b8))
  | .atomL o => ordOk [.relaxed, .acquire, .release, .acqRel] o.ord o.scope &&
      (decide (o.size = .b4) || decide (o.size = .b8)) && decide (o.hint = .none)
  | .fatom o => evenVb o.a && ordOk [.relaxed, .acquire, .release, .acqRel, .sc] o.ord o.scope
  | .lr o => evenVb o.a && ordOk [.relaxed, .acquire] o.ord o.scope && (decide (o.scope = .dev) || decide (o.scope = .sys)) &&
      (decide (o.size = .b4) || decide (o.size = .b8))
  | .sc o => evenVb o.a && ordOk [.relaxed, .release] o.ord o.scope && (decide (o.scope = .dev) || decide (o.scope = .sys)) &&
      (decide (o.size = .b4) || decide (o.size = .b8))
  | .fence ord _ => [Ord.acquire, .release, .acqRel].contains ord
  | .prefetch o => evenVb o.a
  | .waitaddr o => (o.isLocal || evenS o.a) && (decide (o.size = .b4) || (decide (o.size = .b8) && evenS o.c)) &&
      sDataOk o.d o.size
  | .acopy a => mult8S a | .acopy2d a => mult8S a
  | .yieldCopy a _ => evenS a
  | .recld o => decide (o.size = .b4) || decide (o.size = .b8) || decide (o.size = .b16)
  | .mma o => mult4S o.a | .mmaSp o => mult4S o.a
  | .mload o => evenS o.a | .mstore o => evenS o.a | .mspload _ a _ => evenS a
  | .miter o => evenS o.b && (match o.mode with
      | .affine sa _ => evenS sa | .ns => true | .poly d => decide (d ≠ 0))
  | .mpoly _ d c g => decide (d ≠ c) && decide (g ≠ 0)
  | .texG o => mult8S o.c | .texL o => mult8S o.c
  | .rdsr d sr => rdsrDstOk d sr
  | .clock _ d => evenS d
  | .savew a => evenS a | .restw a => evenS a
  | .wait cc _ _ _ _ _ => decide (cc ≠ .always)
  | _ => true

end Sys2Proof
end

