-- ==== Sys2Proof/Decode.lean ====
section
/-! DEFINITION. The encodings: what a slot, a paired half, a control word, a Keyway word and a management packet read as
(07, 08 to 11, 16), and after it the encoder, from the same tables. A decoder reads the fields of the opcode's entry,
then accepts the word only where the entry's encoding of those fields is the word itself: every field the entry does not
use is RZ, so any other word holds a non-zero reserved bit (00 R11, 07 R208). -/

namespace Sys2Proof

/-- Why a word is no instruction. -/
inductive DecErr
  /-- The opcode is unassigned, or assigned to another slot (07 R214 R215). -/
  | opcode
  /-- A field holds a reserved value (07 R208 and the entries). -/
  | reservedValue
  /-- A reserved or unused bit is not 0 (00 R11). -/
  | reservedBit
  /-- A value the entry does not accept (WellFormed). -/
  | notAccepted
deriving DecidableEq, Repr

/-! ### Codes of the small enumerations -/

def predBits : Pred → BitVec 5
  | .always => 0
  | .on n p => (1 : BitVec 1) ++ bit n ++ p

def predOf (x : BitVec 5) : Pred :=
  if x.getLsbD 4 then .on (x.getLsbD 3) (x.extractLsb' 0 3) else .always

def vregBits (r : VReg) : BitVec 9 := bit r.ix ++ r.base
def vregOf (x : BitVec 9) : VReg := { ix := x.getLsbD 8, base := x.extractLsb' 0 8 }
def sregBits (r : SReg) : BitVec 9 := (0 : BitVec 3) ++ r
def sregOf (x : BitVec 9) : SReg := x.extractLsb' 0 6
def pregBits (r : PReg) : BitVec 9 := (0 : BitVec 6) ++ r
def pregOf (x : BitVec 9) : PReg := x.extractLsb' 0 3
def tileBits (r : Tile) : BitVec 9 := (0 : BitVec 4) ++ r
def tileOf (x : BitVec 9) : Tile := x.extractLsb' 0 5

/-- The 9-bit field of an operand that may be scalar. -/
def vbBits : VB → BitVec 9
  | .vec r => vregBits r
  | .scl r => sregBits r
/-- Its BS (or AS) bit. -/
def vbScalar : VB → Bool
  | .vec _ => false
  | .scl _ => true
def vbOf (scalar : Bool) (x : BitVec 9) : VB := if scalar then .scl (sregOf x) else .vec (vregOf x)

def rmBits : Rm → BitVec 3
  | .none => 0 | .rn => 4 | .rz => 5 | .ru => 6 | .rd => 7
/-- RM values 1 to 3 are reserved (04 R133). -/
def rmOf (x : BitVec 3) : Option Rm :=
  match x.toNat with
  | 0 => some .none | 4 => some .rn | 5 => some .rz | 6 => some .ru | 7 => some .rd | _ => none

def modBits (m : Mod) : BitVec 2 := bit m.neg ++ bit m.abs
def modOf (x : BitVec 2) : Mod := { neg := x.getLsbD 1, abs := x.getLsbD 0 }

def typeBits : NumType → BitVec 4
  | .fp16 => 0 | .bf16 => 1 | .e4m3 => 2 | .e5m2 => 3 | .e2m1 => 4 | .int8 => 5 | .int4 => 6 | .uint8 => 7
  | .fp32 => 8 | .int32 => 9 | .uint32 => 10 | .int64 => 11 | .uint64 => 12 | .e8m0 => 13
def typeOf (x : BitVec 4) : Option NumType :=
  match x.toNat with
  | 0 => some .fp16 | 1 => some .bf16 | 2 => some .e4m3 | 3 => some .e5m2 | 4 => some .e2m1 | 5 => some .int8
  | 6 => some .int4 | 7 => some .uint8 | 8 => some .fp32 | 9 => some .int32 | 10 => some .uint32 | 11 => some .int64
  | 12 => some .uint64 | 13 => some .e8m0 | _ => none

def ordBits : Ord → BitVec 3
  | .plain => 0 | .relaxed => 1 | .acquire => 2 | .release => 3 | .acqRel => 4 | .sc => 5
def ordOf (x : BitVec 3) : Option Ord :=
  match x.toNat with
  | 0 => some .plain | 1 => some .relaxed | 2 => some .acquire | 3 => some .release | 4 => some .acqRel
  | 5 => some .sc | _ => none

def scopeBits : Scope → BitVec 3
  | .wave => 0 | .team => 1 | .core => 2 | .dev => 3 | .sys => 4
def scopeOf (x : BitVec 3) : Option Scope :=
  match x.toNat with
  | 0 => some .wave | 1 => some .team | 2 => some .core | 3 => some .dev | 4 => some .sys | _ => none

def sizeBits : Size → BitVec 3
  | .b1 => 0 | .b2 => 1 | .b4 => 2 | .b8 => 3 | .b16 => 4
def sizeOf (x : BitVec 3) : Option Size :=
  match x.toNat with
  | 0 => some .b1 | 1 => some .b2 | 2 => some .b4 | 3 => some .b8 | 4 => some .b16 | _ => none

def hintBits : Hint → BitVec 2
  | .none => 0 | .evictFirst => 1 | .evictLast => 2
def hintOf (x : BitVec 2) : Option Hint :=
  match x.toNat with
  | 0 => some .none | 1 => some .evictFirst | 2 => some .evictLast | _ => none

def clsBits : CntClass → BitVec 2
  | .copy => 0 | .matrix => 1 | .net => 2 | .test => 3
def clsOf (x : BitVec 2) : CntClass :=
  match x.toNat with
  | 0 => .copy | 1 => .matrix | 2 => .net | _ => .test

def shflBits : ShflMode → BitVec 4
  | .lane => 0 | .rotl => 1 | .rotr => 2 | .xor => 3
def shflOf (x : BitVec 4) : ShflMode :=
  match (x.extractLsb' 0 2).toNat with
  | 0 => .lane | 1 => .rotl | 2 => .rotr | _ => .xor

def reduxBits : ReduxOp → BitVec 3
  | .add => 0 | .min => 1 | .max => 2 | .minu => 3 | .maxu => 4 | .and => 5 | .or => 6 | .xor => 7
def reduxOf (x : BitVec 3) : ReduxOp :=
  match x.toNat with
  | 0 => .add | 1 => .min | 2 => .max | 3 => .minu | 4 => .maxu | 5 => .and | 6 => .or | _ => .xor

def atomBits : AtomOp → BitVec 4
  | .add => 0 | .min => 1 | .max => 2 | .minu => 3 | .maxu => 4 | .and => 5 | .or => 6 | .xor => 7 | .exch => 8
  | .cas => 9 | .inc => 10 | .dec => 11
def atomOf (x : BitVec 4) : Option AtomOp :=
  match x.toNat with
  | 0 => some .add | 1 => some .min | 2 => some .max | 3 => some .minu | 4 => some .maxu | 5 => some .and
  | 6 => some .or | 7 => some .xor | 8 => some .exch | 9 => some .cas | 10 => some .inc | 11 => some .dec | _ => none

def fatomBits : FatomOp → BitVec 4
  | .addF32 => 0 | .addF16x2 => 1 | .addBf16x2 => 2 | .minF32 => 3 | .maxF32 => 4
def fatomOf (x : BitVec 4) : Option FatomOp :=
  match x.toNat with
  | 0 => some .addF32 | 1 => some .addF16x2 | 2 => some .addBf16x2 | 3 => some .minF32 | 4 => some .maxF32 | _ => none

def selBits : RecSel → BitVec 2
  | .lo => 0 | .hi => 1 | .len => 2
def selOf (x : BitVec 2) : Option RecSel :=
  match x.toNat with
  | 0 => some .lo | 1 => some .hi | 2 => some .len | _ => none

def tyBits : TileTy → BitVec 2
  | .f32 => 0 | .f16 => 1 | .bf16 => 2 | .i32 => 3
def tyOf (x : BitVec 2) : TileTy :=
  match x.toNat with
  | 0 => .f32 | 1 => .f16 | 2 => .bf16 | _ => .i32

/-! ### Formats F, I, M and B (07 R208) -/

/-- Format F with [14:0] as one field. -/
def fmtF (op : BitVec 8) (pr : BitVec 5) (d a b c : BitVec 9) (lo : BitVec 15) : DWord :=
  op ++ pr ++ d ++ a ++ b ++ c ++ lo
/-- [14:0] of format F. -/
def lowF (rm : BitVec 3) (sat bs : Bool) (ma mb mc : BitVec 2) (sub : BitVec 4) : BitVec 15 :=
  rm ++ bit sat ++ bit bs ++ ma ++ mb ++ mc ++ sub
/-- Format I; bit 32 is RZ. -/
def fmtI (op : BitVec 8) (pr : BitVec 5) (d a : BitVec 9) (imm : Word) : DWord :=
  op ++ pr ++ d ++ a ++ (0 : BitVec 1) ++ imm
/-- Format M. -/
def fmtM (op : BitVec 8) (pr : BitVec 5) (d a c : BitVec 9) (ord scope size : BitVec 3) (hint : BitVec 2) (as : Bool)
    (ofs : BitVec 12) : DWord :=
  op ++ pr ++ d ++ a ++ c ++ ord ++ scope ++ size ++ hint ++ bit as ++ ofs
/-- Format B; [2:0] are RZ. -/
def fmtB (op : BitVec 8) (pr : BitVec 5) (tofs jofs : BitVec 24) : DWord :=
  op ++ pr ++ tofs ++ jofs ++ (0 : BitVec 3)

def wOp (w : DWord) : BitVec 8 := w.extractLsb' 56 8
def wPr (w : DWord) : Pred := predOf (w.extractLsb' 51 5)
def wD (w : DWord) : BitVec 9 := w.extractLsb' 42 9
def wA (w : DWord) : BitVec 9 := w.extractLsb' 33 9
def wB (w : DWord) : BitVec 9 := w.extractLsb' 24 9
def wC (w : DWord) : BitVec 9 := w.extractLsb' 15 9
def wRm (w : DWord) : BitVec 3 := w.extractLsb' 12 3
def wSat (w : DWord) : Bool := w.getLsbD 11
def wBs (w : DWord) : Bool := w.getLsbD 10
def wMa (w : DWord) : Mod := modOf (w.extractLsb' 8 2)
def wMb (w : DWord) : Mod := modOf (w.extractLsb' 6 2)
def wMc (w : DWord) : Mod := modOf (w.extractLsb' 4 2)
def wSub (w : DWord) : BitVec 4 := w.extractLsb' 0 4
def wVb (w : DWord) : VB := vbOf (wBs w) (wB w)
def mC (w : DWord) : BitVec 9 := w.extractLsb' 24 9
def mOrd (w : DWord) : Option Ord := ordOf (w.extractLsb' 21 3)
def mScope (w : DWord) : Option Scope := scopeOf (w.extractLsb' 18 3)
def mSize (w : DWord) : Option Size := sizeOf (w.extractLsb' 15 3)
def mHint (w : DWord) : Option Hint := hintOf (w.extractLsb' 13 2)
def mAddr (w : DWord) : VB := vbOf (w.getLsbD 12) (wA w)
def mOfs (w : DWord) : BitVec 12 := w.extractLsb' 0 12

/-! ### Shapes of slot 0 -/

def encF2 (op : BitVec 8) (o : F2) : DWord :=
  fmtF op (predBits o.pr) (vregBits o.d) (vregBits o.a) (vbBits o.b) 0
    (lowF (rmBits o.rm) false (vbScalar o.b) (modBits o.ma) (modBits o.mb) 0 0)
def decF2 (w : DWord) : Option F2 := do
  let rm ← rmOf (wRm w)
  return { pr := wPr w, d := vregOf (wD w), a := vregOf (wA w), b := wVb w, rm := rm, ma := wMa w, mb := wMb w }

def encF3 (op : BitVec 8) (o : F3) : DWord :=
  fmtF op (predBits o.pr) (vregBits o.d) (vregBits o.a) (vbBits o.b) (vregBits o.c)
    (lowF (rmBits o.rm) false (vbScalar o.b) (modBits o.ma) (modBits o.mb) (modBits o.mc) 0)
def decF3 (w : DWord) : Option F3 := do
  let rm ← rmOf (wRm w)
  return { pr := wPr w, d := vregOf (wD w), a := vregOf (wA w), b := wVb w, c := vregOf (wC w), rm := rm, ma := wMa w,
           mb := wMb w, mc := wMc w }

def encFMinMax (op : BitVec 8) (o : FMinMax) : DWord :=
  fmtF op (predBits o.pr) (vregBits o.d) (vregBits o.a) (vbBits o.b) 0
    (lowF 0 false (vbScalar o.b) (modBits o.ma) (modBits o.mb) 0 0)
def decFMinMax (w : DWord) : FMinMax :=
  { pr := wPr w, d := vregOf (wD w), a := vregOf (wA w), b := wVb w, ma := wMa w, mb := wMb w }

def encFCmp (op : BitVec 8) (o : FCmp) : DWord :=
  fmtF op (predBits o.pr) (pregBits o.d) (vregBits o.a) (vbBits o.b) 0
    (lowF 0 false (vbScalar o.b) (modBits o.ma) (modBits o.mb) 0 o.cc)
def decFCmp (w : DWord) : FCmp :=
  { pr := wPr w, d := pregOf (wD w), a := vregOf (wA w), b := wVb w, cc := wSub w, ma := wMa w, mb := wMb w }

def encF1 (op : BitVec 8) (o : F1) : DWord :=
  fmtF op (predBits o.pr) (vregBits o.d) (vregBits o.a) 0 0 (lowF (rmBits o.rm) false false (modBits o.ma) 0 0 0)
def decF1 (w : DWord) : Option F1 := do
  let rm ← rmOf (wRm w)
  return { pr := wPr w, d := vregOf (wD w), a := vregOf (wA w), rm := rm, ma := wMa w }

/-- [14:0] of CVT and SCVT (08 R234). -/
def lowCvt (rm : Rm) (sat : Bool) (ma : Mod) (dt st : NumType) : BitVec 15 :=
  rmBits rm ++ bit sat ++ (0 : BitVec 1) ++ modBits ma ++ typeBits dt ++ typeBits st
def wDt (w : DWord) : Option NumType := typeOf (w.extractLsb' 4 4)
def wSt (w : DWord) : Option NumType := typeOf (w.extractLsb' 0 4)

def encCvt (op : BitVec 8) (o : Cvt) : DWord :=
  fmtF op (predBits o.pr) (vregBits o.d) (vregBits o.a) 0 0 (lowCvt o.rm o.sat o.ma o.dt o.st)
def decCvt (w : DWord) : Option Cvt := do
  let rm ← rmOf (wRm w)
  let dt ← wDt w
  let st ← wSt w
  return { pr := wPr w, d := vregOf (wD w), a := vregOf (wA w), rm := rm, sat := wSat w, ma := wMa w, dt := dt, st := st }

def encSCvt (op : BitVec 8) (o : SCvt) : DWord :=
  fmtF op 0 (sregBits o.d) (sregBits o.a) 0 0 (lowCvt o.rm o.sat o.ma o.dt o.st)
def decSCvt (w : DWord) : Option SCvt := do
  let rm ← rmOf (wRm w)
  let dt ← wDt w
  let st ← wSt w
  return { d := sregOf (wD w), a := sregOf (wA w), rm := rm, sat := wSat w, ma := wMa w, dt := dt, st := st }

/-- The B field of PACK and UNPACK; 0 without a scale. -/
def scaleBits : Option VB → BitVec 9
  | none => 0
  | some b => vbBits b
def scaleScalar : Option VB → Bool
  | none => false
  | some b => vbScalar b
/-- [14:0] of PACK and UNPACK (08 R236). -/
def encPack (op : BitVec 8) (o : PackOps) : DWord :=
  fmtF op (predBits o.pr) (vregBits o.d) (vregBits o.a) (scaleBits o.scale) 0
    (rmBits o.rm ++ bit o.sat ++ bit (scaleScalar o.scale) ++ bit o.scale.isSome ++ (0 : BitVec 1) ++ typeBits o.dt ++
      typeBits o.st)
def decPack (w : DWord) : Option PackOps := do
  let rm ← rmOf (wRm w)
  let dt ← wDt w
  let st ← wSt w
  return { pr := wPr w, d := vregOf (wD w), a := vregOf (wA w), scale := if w.getLsbD 9 then some (wVb w) else none,
           rm := rm, sat := wSat w, dt := dt, st := st }

def encDotI (op : BitVec 8) (o : DotI) : DWord :=
  fmtF op (predBits o.pr) (vregBits o.d) (vregBits o.a) (vbBits o.b) (vregBits o.c)
    (lowF 0 o.sat (vbScalar o.b) 0 0 0 ((0 : BitVec 2) ++ bit o.bu ++ bit o.au))
def decDotI (w : DWord) : DotI :=
  { pr := wPr w, d := vregOf (wD w), a := vregOf (wA w), b := wVb w, c := vregOf (wC w), au := w.getLsbD 0,
    bu := w.getLsbD 1, sat := wSat w }

def encDotF (op : BitVec 8) (o : DotF) : DWord :=
  fmtF op (predBits o.pr) (vregBits o.d) (vregBits o.a) (vbBits o.b) (vregBits o.c)
    (lowF (rmBits o.rm) false (vbScalar o.b) 0 0 (modBits o.mc) ((0 : BitVec 2) ++ bit o.fb ++ bit o.fa))
def decDotF (w : DWord) : Option DotF := do
  let rm ← rmOf (wRm w)
  return { pr := wPr w, d := vregOf (wD w), a := vregOf (wA w), b := wVb w, c := vregOf (wC w), fa := w.getLsbD 0,
           fb := w.getLsbD 1, rm := rm, mc := wMc w }

/-! ### Shapes of slot 1 -/

def encS2 (op : BitVec 8) (o : S2) (sub : BitVec 4) : DWord :=
  fmtF op 0 (sregBits o.d) (sregBits o.a) (sregBits o.b) 0 ((0 : BitVec 11) ++ sub)
def decS2 (w : DWord) : S2 := { d := sregOf (wD w), a := sregOf (wA w), b := sregOf (wB w) }

def encI2 (op : BitVec 8) (o : I2) (c : BitVec 9) (sat : Bool) (sub : BitVec 4) : DWord :=
  fmtF op (predBits o.pr) (vregBits o.d) (vregBits o.a) (vbBits o.b) c (lowF 0 sat (vbScalar o.b) 0 0 0 sub)
def decI2 (w : DWord) : I2 := { pr := wPr w, d := vregOf (wD w), a := vregOf (wA w), b := wVb w }

def encI3 (op : BitVec 8) (o : I3) : DWord :=
  fmtF op (predBits o.pr) (vregBits o.d) (vregBits o.a) (vbBits o.b) (vregBits o.c) (lowF 0 false (vbScalar o.b) 0 0 0 0)
def decI3 (w : DWord) : I3 :=
  { pr := wPr w, d := vregOf (wD w), a := vregOf (wA w), b := wVb w, c := vregOf (wC w) }

def encI1 (op : BitVec 8) (o : I1) (sub : BitVec 4) : DWord :=
  fmtF op (predBits o.pr) (vregBits o.d) (vregBits o.a) 0 0 ((0 : BitVec 11) ++ sub)
def decI1 (w : DWord) : I1 := { pr := wPr w, d := vregOf (wD w), a := vregOf (wA w) }

def encICmp (op : BitVec 8) (o : ICmp) : DWord :=
  fmtF op (predBits o.pr) (pregBits o.d) (vregBits o.a) (vbBits o.b) 0 (lowF 0 false (vbScalar o.b) 0 0 0 o.cc)
def decICmp (w : DWord) : ICmp :=
  { pr := wPr w, d := pregOf (wD w), a := vregOf (wA w), b := wVb w, cc := wSub w }

def satOn : IntSat → Bool
  | .wrap => false | _ => true
def satUn : IntSat → Bool
  | .unsigned => true | _ => false
def satOf (sat un : Bool) : IntSat := if sat then (if un then .unsigned else .signed) else .wrap

def condBits : VoteCond → BitVec 2
  | .none => 0 | .all _ => 1 | .any _ => 2 | .same _ => 3
def condPd : VoteCond → BitVec 9
  | .none => 0 | .all p => pregBits p | .any p => pregBits p | .same p => pregBits p
def condOf (x : BitVec 2) (c : BitVec 9) : VoteCond :=
  match x.toNat with
  | 0 => .none | 1 => .all (pregOf c) | 2 => .any (pregOf c) | _ => .same (pregOf c)

def encVote (pr : Pred) (d : SReg) (a : PReg) (inv : Bool) (cond : VoteCond) : DWord :=
  fmtF 0x47 (predBits pr) (sregBits d) (pregBits a) 0 (condPd cond)
    ((0 : BitVec 12) ++ bit inv ++ condBits cond)

def encRedux (pr : Pred) (dst : ReduxDst) (a : VReg) (op : ReduxOp) : DWord :=
  match dst with
  | .total sd => fmtF 0x48 (predBits pr) (sregBits sd) (vregBits a) 0 0 ((0 : BitVec 12) ++ reduxBits op)
  | .scan vd => fmtF 0x48 (predBits pr) (vregBits vd) (vregBits a) 0 0 ((0 : BitVec 11) ++ (1 : BitVec 1) ++ reduxBits op)

def encBcast (pr : Pred) (d a : VReg) (lane : Option SReg) : DWord :=
  match lane with
  | some b => fmtF 0x49 (predBits pr) (vregBits d) (vregBits a) (sregBits b) 0 0
  | none => fmtF 0x49 (predBits pr) (vregBits d) (vregBits a) 0 0 1

def encPlop (o : Plop) : DWord :=
  fmtF 0x4D (predBits o.pr) (pregBits o.d) (pregBits o.a) (pregBits o.b) (pregBits o.c) (o.f1 ++ o.f2 ++ (0 : BitVec 7))

def psetSub : PsetMode → BitVec 4
  | .zero => 0 | .one => 1 | .bits _ => 2 | .nonzero _ => 3
def psetB : PsetMode → BitVec 9
  | .zero => 0 | .one => 0 | .bits b => sregBits b | .nonzero b => sregBits b
def psetOf (x : BitVec 4) (b : BitVec 9) : PsetMode :=
  match (x.extractLsb' 0 2).toNat with
  | 0 => .zero | 1 => .one | 2 => .bits (sregOf b) | _ => .nonzero (sregOf b)

/-! ### Shapes of slot 2 -/

def encBra (o : Bra) : DWord := fmtB 0x61 (predBits o.pr) o.tofs o.jofs
def decBra (w : DWord) : Bra := { pr := wPr w, tofs := w.extractLsb' 27 24, jofs := w.extractLsb' 3 24 }
/-- BRX: [50:42] and [32:24] are RZ (10 R281). -/
def encBrx (o : Brx) : DWord :=
  (0x62 : BitVec 8) ++ predBits o.pr ++ (0 : BitVec 9) ++ sregBits o.a ++ (0 : BitVec 9) ++ o.jofs
def decBrx (w : DWord) : Brx := { pr := wPr w, a := sregOf (wA w), jofs := w.extractLsb' 0 24 }
/-- CALL: TOFS at [50:27], D at [26:18] (10 R281). -/
def encCall (tofs : BitVec 24) (d : VReg) : DWord :=
  (0x64 : BitVec 8) ++ (0 : BitVec 5) ++ tofs ++ vregBits d ++ (0 : BitVec 18)

/-- An instruction that uses no field. -/
def encBare (op : BitVec 8) : DWord := fmtF op 0 0 0 0 0 0
/-- TRAP and BPT. -/
def encCode (op : BitVec 8) (c : BitVec 12) : DWord := fmtF op 0 0 0 0 0 ((0 : BitVec 3) ++ c)
/-- RGROW and RSHRINK, immediate and register form. -/
def encGrowImm (op : BitVec 8) (g : BitVec 6) : DWord := fmtF op 0 0 0 0 0 ((1 : BitVec 1) ++ (0 : BitVec 8) ++ g)
def encGrowReg (op : BitVec 8) (a : SReg) : DWord := fmtF op 0 0 (sregBits a) 0 0 0

def encMemV (op : BitVec 8) (o : MemV) : DWord :=
  fmtM op (predBits o.pr) (vregBits o.d) (vbBits o.a) ((0 : BitVec 8) ++ bit o.sx) (ordBits o.ord) (scopeBits o.scope)
    (sizeBits o.size) (hintBits o.hint) (vbScalar o.a) o.ofs
def decMemV (w : DWord) : Option MemV := do
  let ord ← mOrd w
  let scope ← mScope w
  let size ← mSize w
  let hint ← mHint w
  return { pr := wPr w, d := vregOf (wD w), a := mAddr w, sx := w.getLsbD 24, ord := ord, scope := scope, size := size,
           hint := hint, ofs := mOfs w }

def encMemS (op : BitVec 8) (o : MemS) : DWord :=
  fmtM op 0 (sregBits o.d) (sregBits o.a) 0 (ordBits o.ord) (scopeBits o.scope) (sizeBits o.size) (hintBits o.hint)
    true o.ofs
def decMemS (w : DWord) : Option MemS := do
  let ord ← mOrd w
  let scope ← mScope w
  let size ← mSize w
  let hint ← mHint w
  return { d := sregOf (wD w), a := sregOf (wA w), ord := ord, scope := scope, size := size, hint := hint, ofs := mOfs w }

def encAtom (op : BitVec 8) (o : Atom) : DWord :=
  fmtM op (predBits o.pr) (vregBits o.d) (vbBits o.a) (vregBits o.c) (ordBits o.ord) (scopeBits o.scope)
    (sizeBits o.size) (hintBits o.hint) (vbScalar o.a) (atomBits o.op ++ o.ofs)
def decAtom (w : DWord) : Option Atom := do
  let ord ← mOrd w
  let scope ← mScope w
  let size ← mSize w
  let hint ← mHint w
  let op ← atomOf (w.extractLsb' 8 4)
  return { op := op, pr := wPr w, d := vregOf (wD w), a := mAddr w, c := vregOf (mC w), ord := ord, scope := scope,
           size := size, hint := hint, ofs := w.extractLsb' 0 8 }

def encFatom (o : Fatom) : DWord :=
  fmtM 0x8B (predBits o.pr) (vregBits o.d) (vbBits o.a) (vregBits o.c) (ordBits o.ord) (scopeBits o.scope) 2
    (hintBits o.hint) (vbScalar o.a) (fatomBits o.op ++ o.ofs)
def decFatom (w : DWord) : Option Fatom := do
  let ord ← mOrd w
  let scope ← mScope w
  let hint ← mHint w
  let op ← fatomOf (w.extractLsb' 8 4)
  return { op := op, pr := wPr w, d := vregOf (wD w), a := mAddr w, c := vregOf (mC w), ord := ord, scope := scope,
           hint := hint, ofs := w.extractLsb' 0 8 }

def encLr (o : LoadRes) : DWord :=
  fmtM 0x8C (predBits o.pr) (vregBits o.d) (vbBits o.a) 0 (ordBits o.ord) (scopeBits o.scope) (sizeBits o.size) 0
    (vbScalar o.a) o.ofs
def decLr (w : DWord) : Option LoadRes := do
  let ord ← mOrd w
  let scope ← mScope w
  let size ← mSize w
  return { pr := wPr w, d := vregOf (wD w), a := mAddr w, ord := ord, scope := scope, size := size, ofs := mOfs w }

def encSc (o : StoreCond) : DWord :=
  fmtM 0x8D (predBits o.pr) (vregBits o.d) (vbBits o.a) (vregBits o.c) (ordBits o.ord) (scopeBits o.scope)
    (sizeBits o.size) 0 (vbScalar o.a) o.ofs
def decSc (w : DWord) : Option StoreCond := do
  let ord ← mOrd w
  let scope ← mScope w
  let size ← mSize w
  return { pr := wPr w, d := vregOf (wD w), a := mAddr w, c := vregOf (mC w), ord := ord, scope := scope, size := size,
           ofs := mOfs w }

/-- FENCE, CCLEAN and CINV: only ORD and SCOPE (09 R268). -/
def encFence (op : BitVec 8) (ord : Ord) (scope : Scope) : DWord :=
  fmtM op 0 0 0 0 (ordBits ord) (scopeBits scope) 0 0 false 0

def encPrefetch (o : Prefetch) : DWord :=
  fmtM 0x91 (predBits o.pr) 0 (vbBits o.a) 0 0 0 0 (hintBits o.hint) (vbScalar o.a) o.ofs
def decPrefetch (w : DWord) : Option Prefetch := do
  let hint ← mHint w
  return { pr := wPr w, a := mAddr w, hint := hint, ofs := mOfs w }

def encWaitAddr (o : WaitAddr) : DWord :=
  fmtM 0x92 0 (sregBits o.d) (sregBits o.a) (sregBits o.c) (ordBits .acquire) (scopeBits o.scope) (sizeBits o.size) 0
    true (bit o.isLocal ++ o.ofs)
def decWaitAddr (w : DWord) : Option WaitAddr := do
  let scope ← mScope w
  let size ← mSize w
  return { d := sregOf (wD w), a := sregOf (wA w), c := sregOf (mC w), scope := scope, size := size,
           isLocal := w.getLsbD 11, ofs := w.extractLsb' 0 11 }

/-- WAITC and YIELD: [14:13] CLS, [12:5] CNT (09 R276). -/
def encWait (op : BitVec 8) (a : BitVec 9) (cls : CntClass) (cnt : BitVec 8) : DWord :=
  fmtF op 0 0 a 0 0 (clsBits cls ++ cnt ++ (0 : BitVec 5))
/-- The barrier instructions: D of class N, A of class S (09 R277). -/
def encBar (op : BitVec 8) (b : Bar) (a : BitVec 9) : DWord := fmtF op 0 (tileBits b) a 0 0 0

def encQAppend (o : QAppend) : DWord :=
  fmtF 0xA8 (predBits o.pr) (pregBits o.d) (vregBits o.a) 0 0 ((0 : BitVec 12) ++ o.port)

def recBits : RecIx → BitVec 9
  | .self => 0 | .by b => vbBits b
def recScalar : RecIx → Bool
  | .self => false | .by b => vbScalar b
def recSelf : RecIx → Bool
  | .self => true | .by _ => false
def recOf (self : Bool) (b : VB) : RecIx := if self then .self else .by b

/-- RECLD (10 R294). -/
def encRecLd (o : RecLd) : DWord :=
  fmtF 0xA9 (predBits o.pr) (vregBits o.d) (scaleBits o.ofsReg) (recBits o.ri) 0
    (sizeBits o.size ++ o.ofs ++ bit (recSelf o.ri) ++ bit (recScalar o.ri) ++ bit (scaleScalar o.ofsReg) ++
      bit o.ofsReg.isSome)
def decRecLd (w : DWord) : Option RecLd := do
  let size ← sizeOf (wRm w)
  return { pr := wPr w, d := vregOf (wD w), ri := recOf (w.getLsbD 3) (vbOf (w.getLsbD 2) (wB w)),
           ofsReg := if w.getLsbD 0 then some (vbOf (w.getLsbD 1) (wA w)) else none, size := size,
           ofs := w.extractLsb' 4 8 }

def encRecInfo (o : RecInfo) : DWord :=
  fmtF 0xAA (predBits o.pr) (vregBits o.d) 0 (recBits o.ri) 0
    (lowF 0 false (recScalar o.ri) 0 0 0 ((0 : BitVec 1) ++ bit (recSelf o.ri) ++ selBits o.sel))
def decRecInfo (w : DWord) : Option RecInfo := do
  let sel ← selOf (w.extractLsb' 0 2)
  return { pr := wPr w, d := vregOf (wD w), ri := recOf (w.getLsbD 2) (wVb w), sel := sel }

def encMma (op : BitVec 8) (o : Mma) : DWord :=
  fmtF op (predBits o.pr) (tileBits o.d) (sregBits o.a) (vregBits o.b) (tileBits o.c)
    (o.nc1 ++ vregBits o.vs ++ (0 : BitVec 3))
def decMma (w : DWord) : Mma :=
  { pr := wPr w, d := tileOf (wD w), a := sregOf (wA w), b := vregOf (wB w), c := tileOf (wC w), nc1 := wRm w,
    vs := vregOf (w.extractLsb' 3 9) }

def encMMove (op : BitVec 8) (o : MMove) : DWord :=
  fmtF op (predBits o.pr) (tileBits o.d) (sregBits o.a) 0 0 (tyBits o.ty ++ (0 : BitVec 13))
def decMMove (w : DWord) : MMove :=
  { pr := wPr w, d := tileOf (wD w), a := sregOf (wA w), ty := tyOf (w.extractLsb' 13 2) }

def miterA : MiterMode → BitVec 9
  | .affine sa _ => sregBits sa | _ => 0
def miterCode : MiterMode → BitVec 2
  | .affine _ _ => 0 | .ns => 1 | .poly _ => 2
def miterDeg : MiterMode → BitVec 3
  | .poly d => d | _ => 0
def miterBt : MiterMode → BitVec 5
  | .affine _ bt => bt | _ => 0
def encMiter (o : Miter) : DWord :=
  fmtF 0xB6 (predBits o.pr) (sregBits o.d) (miterA o.mode) (sregBits o.b) (tileBits o.x)
    (miterCode o.mode ++ miterDeg o.mode ++ miterBt o.mode ++ o.pd ++ (0 : BitVec 2))
def decMiter (w : DWord) : Option Miter := do
  let mode ← match (w.extractLsb' 13 2).toNat with
    | 0 => some (MiterMode.affine (sregOf (wA w)) (w.extractLsb' 5 5))
    | 1 => some MiterMode.ns
    | 2 => some (MiterMode.poly (w.extractLsb' 10 3))
    | _ => none
  return { pr := wPr w, d := sregOf (wD w), pd := w.extractLsb' 2 3, x := tileOf (wC w), b := sregOf (wB w), mode := mode }

def encNeval (o : Neval) : DWord :=
  fmtF 0xB9 (predBits o.pr) (vregBits o.d) (vregBits o.a) (vbBits o.b) 0
    (o.ni1 ++ o.no1 ++ bit (vbScalar o.b) ++ (0 : BitVec 3))
def decNeval (w : DWord) : Neval :=
  { pr := wPr w, d := vregOf (wD w), a := vregOf (wA w), b := vbOf (w.getLsbD 3) (wB w), ni1 := w.extractLsb' 10 5,
    no1 := w.extractLsb' 4 6 }

def encTrv (op : BitVec 8) (o : Trv) : DWord :=
  fmtF op (predBits o.pr) (vregBits o.d) (vregBits o.a) (vregBits o.b) 0 (o.pd ++ (0 : BitVec 12))
def decTrv (w : DWord) : Trv :=
  { pr := wPr w, d := vregOf (wD w), pd := wRm w, a := vregOf (wA w), b := vregOf (wB w) }

def encTex (op : BitVec 8) (o : Tex) : DWord :=
  fmtF op (predBits o.pr) (vregBits o.d) (vregBits o.a) (vregBits o.b) (sregBits o.c) 0
def decTex (w : DWord) : Tex :=
  { pr := wPr w, d := vregOf (wD w), a := vregOf (wA w), b := vregOf (wB w), c := sregOf (wC w) }

def encDeriv (op : BitVec 8) (o : Deriv) : DWord :=
  fmtF op (predBits o.pr) (vregBits o.d) (vregBits o.a) 0 0 (rmBits o.rm ++ (0 : BitVec 12))
def decDeriv (w : DWord) : Option Deriv := do
  let rm ← rmOf (wRm w)
  return { pr := wPr w, d := vregOf (wD w), a := vregOf (wA w), rm := rm }

/-! ### The encoder of full slots (07 R214) -/

/-- The word of a slot 0 instruction. -/
def encodeSlot0 : Instr → Option DWord
  | .fadd o => some (encF2 0x01 o) | .fsub o => some (encF2 0x02 o) | .fmul o => some (encF2 0x03 o)
  | .ffma o => some (encF3 0x04 o) | .fmin o => some (encFMinMax 0x05 o) | .fmax o => some (encFMinMax 0x06 o)
  | .fcmp o => some (encFCmp 0x07 o) | .frnd o => some (encF1 0x08 o)
  | .hadd2 o => some (encF2 0x09 o) | .hmul2 o => some (encF2 0x0A o) | .hfma2 o => some (encF3 0x0B o)
  | .hmin2 o => some (encFMinMax 0x0C o) | .hmax2 o => some (encFMinMax 0x0D o)
  | .cvt o => some (encCvt 0x0E o) | .pack o => some (encPack 0x0F o) | .unpack o => some (encPack 0x10 o)
  | .dot4I8 o => some (encDotI 0x11 o) | .dot8I4 o => some (encDotI 0x12 o)
  | .dot4F8 o => some (encDotF 0x13 o) | .dot8F4 o => some (encDotF 0x14 o) | .dot2H o => some (encDotF 0x15 o)
  | _ => none

/-- The word of a slot 1 instruction. -/
def encodeSlot1 : Instr → Option DWord
  | .sadd o w => some (encS2 0x20 o ((0 : BitVec 3) ++ bit w)) | .ssub o w => some (encS2 0x21 o ((0 : BitVec 3) ++ bit w))
  | .smul o => some (encS2 0x22 o 0) | .smulhi o u => some (encS2 0x23 o ((0 : BitVec 3) ++ bit u))
  | .sand o => some (encS2 0x24 o 0) | .sor o => some (encS2 0x25 o 0) | .sxor o => some (encS2 0x26 o 0)
  | .sshl o => some (encS2 0x27 o 0) | .sshr o => some (encS2 0x28 o 0) | .ssar o => some (encS2 0x29 o 0)
  | .smin o u => some (encS2 0x2A o ((0 : BitVec 3) ++ bit u)) | .smax o u => some (encS2 0x2B o ((0 : BitVec 3) ++ bit u))
  | .scmp o cc => some (encS2 0x2C o cc)
  | .ssel o c => some (fmtF 0x2D 0 (sregBits o.d) (sregBits o.a) (sregBits o.b) (sregBits c) 0)
  | .smov d a => some (fmtF 0x2E 0 (sregBits d) (sregBits a) 0 0 0)
  | .smovi d imm => some (fmtI 0x2F 0 (sregBits d) 0 imm)
  | .iadd o s => some (encI2 0x30 o 0 (satOn s) ((0 : BitVec 3) ++ bit (satUn s)))
  | .iaddc o c e => some (encI2 0x31 o (pregBits c) false ((0 : BitVec 1) ++ e))
  | .isub o s => some (encI2 0x32 o 0 (satOn s) ((0 : BitVec 3) ++ bit (satUn s)))
  | .imul o => some (encI2 0x33 o 0 false 0) | .imulhi o u => some (encI2 0x34 o 0 false ((0 : BitVec 3) ++ bit u))
  | .imad o => some (encI3 0x35 o)
  | .iand o => some (encI2 0x36 o 0 false 0) | .ior o => some (encI2 0x37 o 0 false 0)
  | .ixor o => some (encI2 0x38 o 0 false 0) | .ishl o => some (encI2 0x39 o 0 false 0)
  | .ishr o => some (encI2 0x3A o 0 false 0) | .isar o => some (encI2 0x3B o 0 false 0)
  | .imin o u => some (encI2 0x3C o 0 false ((0 : BitVec 3) ++ bit u))
  | .imax o u => some (encI2 0x3D o 0 false ((0 : BitVec 3) ++ bit u))
  | .icmp o => some (encICmp 0x3E o) | .isel o c => some (encI2 0x3F o (pregBits c) false 0)
  | .bfx o s => some (encI2 0x40 o 0 false ((0 : BitVec 3) ++ bit s)) | .bfd o => some (encI3 0x41 o)
  | .popc o => some (encI1 0x42 o 0) | .clz o => some (encI1 0x43 o 0) | .brev o => some (encI1 0x44 o 0)
  | .bytsel o => some (encI3 0x45 o)
  | .shfl o m => some (encI2 0x46 o 0 false (shflBits m))
  | .vote pr d a inv cond => some (encVote pr d a inv cond)
  | .redux pr dst a op => some (encRedux pr dst a op)
  | .bcast pr d a lane => some (encBcast pr d a lane)
  | .matchLanes o w => some (encI1 0x4A o ((0 : BitVec 3) ++ bit w))
  | .rdlane d a b => some (fmtF 0x4B 0 (sregBits d) (vregBits a) (sregBits b) 0 0)
  | .wrlane d a b => some (fmtF 0x4C 0 (vregBits d) (sregBits a) (sregBits b) 0 0)
  | .plop o => some (encPlop o)
  | .pset pr d m => some (fmtF 0x4E (predBits pr) (pregBits d) 0 (psetB m) 0 ((0 : BitVec 11) ++ psetSub m))
  | .pget d a => some (fmtF 0x4F 0 (sregBits d) (pregBits a) 0 0 0)
  | .pcnt d a => some (fmtF 0x50 0 (sregBits d) (pregBits a) 0 0 0)
  | .mov pr d b => some (fmtF 0x51 (predBits pr) (vregBits d) 0 (vbBits b) 0 (lowF 0 false (vbScalar b) 0 0 0 0))
  | .movi pr d imm => some (fmtI 0x52 (predBits pr) (vregBits d) 0 imm)
  | .ixset a => some (fmtF 0x53 0 0 (sregBits a) 0 0 0) | .ixadd a => some (fmtF 0x54 0 0 (sregBits a) 0 0 0)
  | .ixget d => some (fmtF 0x55 0 (sregBits d) 0 0 0 0)
  | .scvt o => some (encSCvt 0x56 o)
  | _ => none

/-- The word of a slot 2 instruction. -/
def encodeSlot2 : Instr → Option DWord
  | .nop => some (encBare 0x60) | .bra o => some (encBra o) | .brx o => some (encBrx o) | .join => some (encBare 0x63)
  | .call t d => some (encCall t d) | .ret a => some (fmtF 0x65 0 0 (vregBits a) 0 0 0)
  | .exit => some (encBare 0x66) | .regroup => some (encBare 0x67)
  | .trap c => some (encCode 0x68 c) | .bpt c => some (encCode 0x69 c) | .slotsw => some (encBare 0x6A)
  | .rgrowImm g => some (encGrowImm 0x6B g) | .rgrowReg a => some (encGrowReg 0x6B a)
  | .rshrinkImm g => some (encGrowImm 0x6C g) | .rshrinkReg a => some (encGrowReg 0x6C a)
  | .setfmtImm f => some (fmtF 0x6D 0 0 0 0 0 ((1 : BitVec 1) ++ f)) | .setfmtReg a => some (encGrowReg 0x6D a)
  | .getfmt d => some (fmtF 0x6E 0 (sregBits d) 0 0 0 0)
  | .rcp o => some (encF1 0x70 o) | .rsq o => some (encF1 0x71 o) | .sqrt o => some (encF1 0x72 o)
  | .ex2 o => some (encF1 0x73 o) | .lg2 o => some (encF1 0x74 o) | .sin o => some (encF1 0x75 o)
  | .cos o => some (encF1 0x76 o) | .tanh o => some (encF1 0x77 o)
  | .ldG o => some (encMemV 0x80 o) | .ldL o => some (encMemV 0x81 o) | .ldP o => some (encMemV 0x82 o)
  | .stG o => some (encMemV 0x83 o) | .stL o => some (encMemV 0x84 o) | .stP o => some (encMemV 0x85 o)
  | .sldC o => some (encMemS 0x86 o) | .sldG o => some (encMemS 0x87 o) | .ldw o => some (encMemV 0x88 o)
  | .atomG o => some (encAtom 0x89 o) | .atomL o => some (encAtom 0x8A o) | .fatom o => some (encFatom o)
  | .lr o => some (encLr o) | .sc o => some (encSc o)
  | .fence ord sc => some (encFence 0x8E ord sc) | .cclean sc => some (encFence 0x8F .release sc)
  | .cinv sc => some (encFence 0x90 .acquire sc)
  | .prefetch o => some (encPrefetch o) | .waitaddr o => some (encWaitAddr o)
  | .acopy a => some (encGrowReg 0x98 a) | .acopy2d a => some (encGrowReg 0x99 a)
  | .waitc cls n => some (encWait 0x9A 0 cls n) | .yieldCopy a n => some (encWait 0x9B (sregBits a) .copy n)
  | .barInit b a => some (encBar 0x9C b (sregBits a)) | .barArrive b => some (encBar 0x9D b 0)
  | .barSync b => some (encBar 0x9E b 0) | .barWait b => some (encBar 0x9F b 0)
  | .barExpect b a => some (encBar 0xA0 b (sregBits a))
  | .qappend o => some (encQAppend o) | .recld o => some (encRecLd o) | .recinfo o => some (encRecInfo o)
  | .taskemit p a b => some (fmtF 0xAB 0 0 (sregBits a) (sregBits b) 0 ((0 : BitVec 12) ++ p))
  | .teamdone => some (encBare 0xAC) | .nodeexit => some (encBare 0xAD)
  | .mma o => some (encMma 0xB0 o) | .mmaSp o => some (encMma 0xB1 o)
  | .mload o => some (encMMove 0xB2 o) | .mstore o => some (encMMove 0xB3 o)
  | .mzero pr d => some (fmtF 0xB4 (predBits pr) (tileBits d) 0 0 0 0)
  | .mspload pr a n => some (fmtF 0xB5 (predBits pr) 0 (sregBits a) 0 0 (n ++ (0 : BitVec 12)))
  | .miter o => some (encMiter o)
  | .mpoly pr d c g => some (fmtF 0xB7 (predBits pr) (tileBits d) 0 0 (tileBits c) (g ++ (0 : BitVec 11)))
  | .mnorm pr d c => some (fmtF 0xB8 (predBits pr) (sregBits d) 0 0 (tileBits c) 0)
  | .neval o => some (encNeval o)
  | .latchB pr => some (fmtF 0xC0 (predBits pr) 0 0 0 0 0) | .latchE pr => some (fmtF 0xC1 (predBits pr) 0 0 0 0 0)
  | .trvBox o => some (encTrv 0xC2 o) | .trvTri o => some (encTrv 0xC3 o)
  | .trvPush pr a => some (fmtF 0xC4 (predBits pr) 0 (vregBits a) 0 0 0)
  | .trvPop pr d pd => some (fmtF 0xC5 (predBits pr) (vregBits d) 0 0 0 (pd ++ (0 : BitVec 12)))
  | .ddx o => some (encDeriv 0xC6 o) | .ddy o => some (encDeriv 0xC7 o)
  | .texG o => some (encTex 0xC8 o) | .texL o => some (encTex 0xC9 o)
  | .rdsr d sr => some (fmtF 0xD0 0 d 0 sr 0 0) | .wrsr sr a => some (fmtF 0xD1 0 0 (sregBits a) sr 0 0)
  | .rplay a => some (encGrowReg 0xD2 a) | .trapret => some (encBare 0xD3)
  | .clock cl d => some (fmtF 0xD4 0 (sregBits d) 0 0 0 ((0 : BitVec 14) ++ bit cl))
  | .savew a => some (encGrowReg 0xD5 a) | .restw a => some (encGrowReg 0xD6 a) | .haltw => some (encBare 0xD7)
  | .hint op rest => some ((0x1B : BitVec 5) ++ op ++ rest)
  | _ => none

/-! ### The decoder of full slots -/

/-- The fields of a slot 0 word. -/
def parseSlot0 (w : DWord) : Option Instr :=
  match (wOp w).toNat with
  | 0x01 => (decF2 w).map .fadd | 0x02 => (decF2 w).map .fsub | 0x03 => (decF2 w).map .fmul
  | 0x04 => (decF3 w).map .ffma | 0x05 => some (.fmin (decFMinMax w)) | 0x06 => some (.fmax (decFMinMax w))
  | 0x07 => some (.fcmp (decFCmp w)) | 0x08 => (decF1 w).map .frnd
  | 0x09 => (decF2 w).map .hadd2 | 0x0A => (decF2 w).map .hmul2 | 0x0B => (decF3 w).map .hfma2
  | 0x0C => some (.hmin2 (decFMinMax w)) | 0x0D => some (.hmax2 (decFMinMax w))
  | 0x0E => (decCvt w).map .cvt | 0x0F => (decPack w).map .pack | 0x10 => (decPack w).map .unpack
  | 0x11 => some (.dot4I8 (decDotI w)) | 0x12 => some (.dot8I4 (decDotI w))
  | 0x13 => (decDotF w).map .dot4F8 | 0x14 => (decDotF w).map .dot8F4 | 0x15 => (decDotF w).map .dot2H
  | _ => none

/-- The fields of a slot 1 word. -/
def parseSlot1 (w : DWord) : Option Instr :=
  match (wOp w).toNat with
  | 0x20 => some (.sadd (decS2 w) (w.getLsbD 0)) | 0x21 => some (.ssub (decS2 w) (w.getLsbD 0))
  | 0x22 => some (.smul (decS2 w)) | 0x23 => some (.smulhi (decS2 w) (w.getLsbD 0))
  | 0x24 => some (.sand (decS2 w)) | 0x25 => some (.sor (decS2 w)) | 0x26 => some (.sxor (decS2 w))
  | 0x27 => some (.sshl (decS2 w)) | 0x28 => some (.sshr (decS2 w)) | 0x29 => some (.ssar (decS2 w))
  | 0x2A => some (.smin (decS2 w) (w.getLsbD 0)) | 0x2B => some (.smax (decS2 w) (w.getLsbD 0))
  | 0x2C => some (.scmp (decS2 w) (wSub w))
  | 0x2D => some (.ssel (decS2 w) (sregOf (wC w))) | 0x2E => some (.smov (sregOf (wD w)) (sregOf (wA w)))
  | 0x2F => some (.smovi (sregOf (wD w)) (w.extractLsb' 0 32))
  | 0x30 => some (.iadd (decI2 w) (satOf (wSat w) (w.getLsbD 0)))
  | 0x31 => some (.iaddc (decI2 w) (pregOf (wC w)) (w.extractLsb' 0 3))
  | 0x32 => some (.isub (decI2 w) (satOf (wSat w) (w.getLsbD 0)))
  | 0x33 => some (.imul (decI2 w)) | 0x34 => some (.imulhi (decI2 w) (w.getLsbD 0)) | 0x35 => some (.imad (decI3 w))
  | 0x36 => some (.iand (decI2 w)) | 0x37 => some (.ior (decI2 w)) | 0x38 => some (.ixor (decI2 w))
  | 0x39 => some (.ishl (decI2 w)) | 0x3A => some (.ishr (decI2 w)) | 0x3B => some (.isar (decI2 w))
  | 0x3C => some (.imin (decI2 w) (w.getLsbD 0)) | 0x3D => some (.imax (decI2 w) (w.getLsbD 0))
  | 0x3E => some (.icmp (decICmp w)) | 0x3F => some (.isel (decI2 w) (pregOf (wC w)))
  | 0x40 => some (.bfx (decI2 w) (w.getLsbD 0)) | 0x41 => some (.bfd (decI3 w))
  | 0x42 => some (.popc (decI1 w)) | 0x43 => some (.clz (decI1 w)) | 0x44 => some (.brev (decI1 w))
  | 0x45 => some (.bytsel (decI3 w)) | 0x46 => some (.shfl (decI2 w) (shflOf (wSub w)))
  | 0x47 => some (.vote (wPr w) (sregOf (wD w)) (pregOf (wA w)) (w.getLsbD 2) (condOf (w.extractLsb' 0 2) (wC w)))
  | 0x48 => some (.redux (wPr w) (if w.getLsbD 3 then .scan (vregOf (wD w)) else .total (sregOf (wD w))) (vregOf (wA w))
      (reduxOf (w.extractLsb' 0 3)))
  | 0x49 => some (.bcast (wPr w) (vregOf (wD w)) (vregOf (wA w)) (if w.getLsbD 0 then none else some (sregOf (wB w))))
  | 0x4A => some (.matchLanes (decI1 w) (w.getLsbD 0))
  | 0x4B => some (.rdlane (sregOf (wD w)) (vregOf (wA w)) (sregOf (wB w)))
  | 0x4C => some (.wrlane (vregOf (wD w)) (sregOf (wA w)) (sregOf (wB w)))
  | 0x4D => some (.plop { pr := wPr w, d := pregOf (wD w), a := pregOf (wA w), b := pregOf (wB w), c := pregOf (wC w),
                          f1 := w.extractLsb' 11 4, f2 := w.extractLsb' 7 4 })
  | 0x4E => some (.pset (wPr w) (pregOf (wD w)) (psetOf (wSub w) (wB w)))
  | 0x4F => some (.pget (sregOf (wD w)) (pregOf (wA w))) | 0x50 => some (.pcnt (sregOf (wD w)) (pregOf (wA w)))
  | 0x51 => some (.mov (wPr w) (vregOf (wD w)) (wVb w))
  | 0x52 => some (.movi (wPr w) (vregOf (wD w)) (w.extractLsb' 0 32))
  | 0x53 => some (.ixset (sregOf (wA w))) | 0x54 => some (.ixadd (sregOf (wA w)))
  | 0x55 => some (.ixget (sregOf (wD w))) | 0x56 => (decSCvt w).map .scvt
  | _ => none

/-- The fields of a slot 2 word. -/
def parseSlot2 (w : DWord) : Option Instr :=
  match (wOp w).toNat with
  | 0x60 => some .nop | 0x61 => some (.bra (decBra w)) | 0x62 => some (.brx (decBrx w)) | 0x63 => some .join
  | 0x64 => some (.call (w.extractLsb' 27 24) (vregOf (w.extractLsb' 18 9))) | 0x65 => some (.ret (vregOf (wA w)))
  | 0x66 => some .exit | 0x67 => some .regroup
  | 0x68 => some (.trap (w.extractLsb' 0 12)) | 0x69 => some (.bpt (w.extractLsb' 0 12)) | 0x6A => some .slotsw
  | 0x6B => if w.getLsbD 14 then some (.rgrowImm (w.extractLsb' 0 6)) else some (.rgrowReg (sregOf (wA w)))
  | 0x6C => if w.getLsbD 14 then some (.rshrinkImm (w.extractLsb' 0 6)) else some (.rshrinkReg (sregOf (wA w)))
  | 0x6D => if w.getLsbD 14 then some (.setfmtImm (w.extractLsb' 0 14)) else some (.setfmtReg (sregOf (wA w)))
  | 0x6E => some (.getfmt (sregOf (wD w)))
  | 0x70 => (decF1 w).map .rcp | 0x71 => (decF1 w).map .rsq | 0x72 => (decF1 w).map .sqrt | 0x73 => (decF1 w).map .ex2
  | 0x74 => (decF1 w).map .lg2 | 0x75 => (decF1 w).map .sin | 0x76 => (decF1 w).map .cos | 0x77 => (decF1 w).map .tanh
  | 0x80 => (decMemV w).map .ldG | 0x81 => (decMemV w).map .ldL | 0x82 => (decMemV w).map .ldP
  | 0x83 => (decMemV w).map .stG | 0x84 => (decMemV w).map .stL | 0x85 => (decMemV w).map .stP
  | 0x86 => (decMemS w).map .sldC | 0x87 => (decMemS w).map .sldG | 0x88 => (decMemV w).map .ldw
  | 0x89 => (decAtom w).map .atomG | 0x8A => (decAtom w).map .atomL | 0x8B => (decFatom w).map .fatom
  | 0x8C => (decLr w).map .lr | 0x8D => (decSc w).map .sc
  | 0x8E => do return .fence (← mOrd w) (← mScope w)
  | 0x8F => do return .cclean (← mScope w)
  | 0x90 => do return .cinv (← mScope w)
  | 0x91 => (decPrefetch w).map .prefetch | 0x92 => (decWaitAddr w).map .waitaddr
  | 0x98 => some (.acopy (sregOf (wA w))) | 0x99 => some (.acopy2d (sregOf (wA w)))
  | 0x9A => some (.waitc (clsOf (w.extractLsb' 13 2)) (w.extractLsb' 5 8))
  | 0x9B => some (.yieldCopy (sregOf (wA w)) (w.extractLsb' 5 8))
  | 0x9C => some (.barInit (tileOf (wD w)) (sregOf (wA w))) | 0x9D => some (.barArrive (tileOf (wD w)))
  | 0x9E => some (.barSync (tileOf (wD w))) | 0x9F => some (.barWait (tileOf (wD w)))
  | 0xA0 => some (.barExpect (tileOf (wD w)) (sregOf (wA w)))
  | 0xA8 => some (.qappend { pr := wPr w, d := pregOf (wD w), a := vregOf (wA w), port := w.extractLsb' 0 3 })
  | 0xA9 => (decRecLd w).map .recld | 0xAA => (decRecInfo w).map .recinfo
  | 0xAB => some (.taskemit (w.extractLsb' 0 3) (sregOf (wA w)) (sregOf (wB w)))
  | 0xAC => some .teamdone | 0xAD => some .nodeexit
  | 0xB0 => some (.mma (decMma w)) | 0xB1 => some (.mmaSp (decMma w))
  | 0xB2 => some (.mload (decMMove w)) | 0xB3 => some (.mstore (decMMove w))
  | 0xB4 => some (.mzero (wPr w) (tileOf (wD w))) | 0xB5 => some (.mspload (wPr w) (sregOf (wA w)) (wRm w))
  | 0xB6 => (decMiter w).map .miter
  | 0xB7 => some (.mpoly (wPr w) (tileOf (wD w)) (tileOf (wC w)) (w.extractLsb' 11 4))
  | 0xB8 => some (.mnorm (wPr w) (sregOf (wD w)) (tileOf (wC w))) | 0xB9 => some (.neval (decNeval w))
  | 0xC0 => some (.latchB (wPr w)) | 0xC1 => some (.latchE (wPr w))
  | 0xC2 => some (.trvBox (decTrv w)) | 0xC3 => some (.trvTri (decTrv w))
  | 0xC4 => some (.trvPush (wPr w) (vregOf (wA w))) | 0xC5 => some (.trvPop (wPr w) (vregOf (wD w)) (wRm w))
  | 0xC6 => (decDeriv w).map .ddx | 0xC7 => (decDeriv w).map .ddy
  | 0xC8 => some (.texG (decTex w)) | 0xC9 => some (.texL (decTex w))
  | 0xD0 => some (.rdsr (wD w) (wB w)) | 0xD1 => some (.wrsr (wB w) (sregOf (wA w)))
  | 0xD2 => some (.rplay (sregOf (wA w))) | 0xD3 => some .trapret | 0xD4 => some (.clock (w.getLsbD 0) (sregOf (wD w)))
  | 0xD5 => some (.savew (sregOf (wA w))) | 0xD6 => some (.restw (sregOf (wA w))) | 0xD7 => some .haltw
  | 0xD8 => some (.hint 0 (w.extractLsb' 0 56)) | 0xD9 => some (.hint 1 (w.extractLsb' 0 56))
  | 0xDA => some (.hint 2 (w.extractLsb' 0 56)) | 0xDB => some (.hint 3 (w.extractLsb' 0 56))
  | 0xDC => some (.hint 4 (w.extractLsb' 0 56)) | 0xDD => some (.hint 5 (w.extractLsb' 0 56))
  | 0xDE => some (.hint 6 (w.extractLsb' 0 56)) | 0xDF => some (.hint 7 (w.extractLsb' 0 56))
  | _ => none

/-- The opcodes of a slot (07 R214 R215). -/
def slotHas (slot op : Nat) : Bool :=
  match slot with
  | 0 => decide (1 ≤ op ∧ op ≤ 0x15)
  | 1 => decide (0x20 ≤ op ∧ op ≤ 0x56)
  | _ => decide ((0x60 ≤ op ∧ op ≤ 0x6E) ∨ (0x70 ≤ op ∧ op ≤ 0x77) ∨ (0x80 ≤ op ∧ op ≤ 0x92) ∨
      (0x98 ≤ op ∧ op ≤ 0xA0) ∨ (0xA8 ≤ op ∧ op ≤ 0xAD) ∨ (0xB0 ≤ op ∧ op ≤ 0xB9) ∨ (0xC0 ≤ op ∧ op ≤ 0xC9) ∨
      (0xD0 ≤ op ∧ op ≤ 0xDF))

def parseSlot (slot : Nat) (w : DWord) : Option Instr :=
  match slot with
  | 0 => parseSlot0 w
  | 1 => parseSlot1 w
  | _ => parseSlot2 w

def encodeSlot (slot : Nat) (i : Instr) : Option DWord :=
  match slot with
  | 0 => encodeSlot0 i
  | 1 => encodeSlot1 i
  | _ => encodeSlot2 i

/-- What a full slot holds, or why it is illegal. -/
def decodeSlot (slot : Nat) (w : DWord) : Except DecErr Instr :=
  if slotHas slot (wOp w).toNat = false then .error .opcode
  else match parseSlot slot w with
    | none => .error .reservedValue
    | some i =>
      if encodeSlot slot i ≠ some w then .error .reservedBit
      else if wellFormed i = false then .error .notAccepted
      else .ok i

/-! ### Paired halves (07 R211) -/

/-- A half: HOP D B PE PNEG PN BS NB and a reserved bit. -/
def encHalf (hop : BitVec 6) (o : Half) : BitVec 32 :=
  hop ++ vregBits o.d ++ vbBits o.b ++ predBits o.pr ++ bit (vbScalar o.b) ++ bit o.nb ++ (0 : BitVec 1)
def decHalf (w : BitVec 32) : Half :=
  { d := vregOf (w.extractLsb' 17 9), b := vbOf (w.getLsbD 2) (w.extractLsb' 8 9), pr := predOf (w.extractLsb' 3 5),
    nb := w.getLsbD 1 }

/-- The slot whose list holds a half opcode, with its instruction. -/
def parseHalf (slot : Nat) (w : BitVec 32) : Option Instr :=
  match slot, (w.extractLsb' 26 6).toNat with
  | 0, 0x01 => some (.pairedFadd (decHalf w)) | 0, 0x02 => some (.pairedFsub (decHalf w))
  | 0, 0x03 => some (.pairedFmul (decHalf w)) | 0, 0x05 => some (.pairedFmin (decHalf w))
  | 0, 0x06 => some (.pairedFmax (decHalf w)) | 0, 0x09 => some (.pairedHadd2 (decHalf w))
  | 0, 0x0A => some (.pairedHmul2 (decHalf w))
  | 1, 0x11 => some (.pairedMov (decHalf w)) | 1, 0x30 => some (.pairedIadd (decHalf w))
  | 1, 0x32 => some (.pairedIsub (decHalf w)) | 1, 0x36 => some (.pairedIand (decHalf w))
  | 1, 0x37 => some (.pairedIor (decHalf w)) | 1, 0x38 => some (.pairedIxor (decHalf w))
  | 1, 0x39 => some (.pairedIshl (decHalf w)) | 1, 0x3A => some (.pairedIshr (decHalf w))
  | 1, 0x3B => some (.pairedIsar (decHalf w)) | 1, 0x3C => some (.pairedImin (decHalf w))
  | 1, 0x3D => some (.pairedImax (decHalf w))
  | _, _ => none

def encodeHalf : Instr → Option (BitVec 32)
  | .pairedFadd o => some (encHalf 0x01 o) | .pairedFsub o => some (encHalf 0x02 o)
  | .pairedFmul o => some (encHalf 0x03 o) | .pairedFmin o => some (encHalf 0x05 o)
  | .pairedFmax o => some (encHalf 0x06 o) | .pairedHadd2 o => some (encHalf 0x09 o)
  | .pairedHmul2 o => some (encHalf 0x0A o)
  | .pairedMov o => some (encHalf 0x11 o) | .pairedIadd o => some (encHalf 0x30 o)
  | .pairedIsub o => some (encHalf 0x32 o) | .pairedIand o => some (encHalf 0x36 o)
  | .pairedIor o => some (encHalf 0x37 o) | .pairedIxor o => some (encHalf 0x38 o)
  | .pairedIshl o => some (encHalf 0x39 o) | .pairedIshr o => some (encHalf 0x3A o)
  | .pairedIsar o => some (encHalf 0x3B o) | .pairedImin o => some (encHalf 0x3C o)
  | .pairedImax o => some (encHalf 0x3D o)
  | _ => none

/-- What a half of a paired slot holds, or why it is illegal. -/
def decodeHalf (slot : Nat) (w : BitVec 32) : Except DecErr Instr :=
  match parseHalf slot w with
  | none => .error .opcode
  | some i =>
    if encodeHalf i ≠ some w then .error .reservedBit
    else if wellFormed i = false then .error .notAccepted
    else .ok i

/-! ### Bundles (07 R200 to R202) -/

/-- A set field: the slot whose result its flag follows (07 R201). -/
structure SetField where
  slot : BitVec 2
  flag : BitVec 4
deriving DecidableEq, Repr

/-- What a slot of a bundle holds. -/
inductive SlotBody
  | empty
  | full (i : Instr)
  | paired (h0 h1 : Instr)
deriving DecidableEq, Repr

/-- A bundle. -/
structure Bundle where
  wait : BitVec 12
  set0 : Option SetField
  set1 : Option SetField
  stall : BitVec 4
  reuse : BitVec 9
  yield : Bool
  s0 : SlotBody
  s1 : SlotBody
  s2 : SlotBody
deriving DecidableEq, Repr

/-- A set field: absent with all bits 0, or valid with SLOT below 3 and FLAG below 12 (07 R202). -/
def decodeSet (v : Bool) (slot : BitVec 2) (flag : BitVec 4) : Except DecErr (Option SetField) :=
  if v then (if slot = 3 ∨ 12 ≤ flag.toNat then .error .reservedValue else .ok (some { slot := slot, flag := flag }))
  else (if slot = 0 ∧ flag = 0 then .ok none else .error .reservedBit)

/-- One slot by its KIND (07 R201 R202 R213). -/
def decodeBody (slot : Nat) (kind : BitVec 2) (w : DWord) : Except DecErr SlotBody :=
  match kind.toNat with
  | 0 => do
    let i ← decodeSlot slot w
    return .full i
  | 1 =>
    if slot = 2 then .error .reservedValue
    else do
      let h0 ← decodeHalf slot (w.extractLsb' 0 32)
      let h1 ← decodeHalf slot (w.extractLsb' 32 32)
      return .paired h0 h1
  | 2 => if w = 0 then .ok .empty else .error .reservedBit
  | _ => .error .reservedValue

/-- Whether the opcode map gives an instruction a flagged result (07 R214). -/
def flagged : Instr → Bool
  | .rcp _ | .rsq _ | .sqrt _ | .ex2 _ | .lg2 _ | .sin _ | .cos _ | .tanh _ => true
  | .ldG _ | .ldL _ | .ldP _ | .sldC _ | .sldG _ | .ldw _ | .atomG _ | .atomL _ | .fatom _ | .lr _ | .sc _ => true
  | .recld _ | .trvPop _ _ _ | .texG _ | .texL _ => true
  | _ => false

def bodyFlagged : SlotBody → Bool
  | .full i => flagged i
  | _ => false

/-- The slot a set field names has a flagged result (07 R202). -/
def setNamesFlagged (s0 s1 s2 : SlotBody) : Option SetField → Bool
  | none => true
  | some f => match f.slot.toNat with
    | 0 => bodyFlagged s0 | 1 => bodyFlagged s1 | _ => bodyFlagged s2

/-- Two valid set fields name different flags (07 R202). -/
def setsDiffer : Option SetField → Option SetField → Bool
  | some a, some b => decide (a.flag ≠ b.flag)
  | _, _ => true

/-- A bundle from its control word and three slots. -/
def decodeBundle (c w0 w1 w2 : DWord) : Except DecErr Bundle := do
  if c.extractLsb' 46 18 ≠ 0 then .error .reservedBit
  let set0 ← decodeSet (c.getLsbD 18) (c.extractLsb' 16 2) (c.extractLsb' 12 4)
  let set1 ← decodeSet (c.getLsbD 25) (c.extractLsb' 23 2) (c.extractLsb' 19 4)
  let s0 ← decodeBody 0 (c.extractLsb' 39 2) w0
  let s1 ← decodeBody 1 (c.extractLsb' 41 2) w1
  let s2 ← decodeBody 2 (c.extractLsb' 43 2) w2
  if setNamesFlagged s0 s1 s2 set0 && setNamesFlagged s0 s1 s2 set1 && setsDiffer set0 set1 then
    return { wait := c.extractLsb' 0 12, set0 := set0, set1 := set1, stall := c.extractLsb' 26 4,
             reuse := c.extractLsb' 30 9, yield := c.getLsbD 45, s0 := s0, s1 := s1, s2 := s2 }
  else .error .reservedValue

/-- A bundle from its 256 bits as memory holds them (07 R200). -/
def decodeBundleBits (b : BitVec 256) : Except DecErr Bundle :=
  decodeBundle (b.extractLsb' 0 64) (b.extractLsb' 64 64) (b.extractLsb' 128 64) (b.extractLsb' 192 64)

/-! ### Keyway words (16 R388 R389) -/

def ccBits : QCond → BitVec 4
  | .always => 0 | .eq => 1 | .ne => 2 | .lo => 3 | .hs => 4 | .lt => 5 | .ge => 6
def ccOf (x : BitVec 4) : Option QCond :=
  match x.toNat with
  | 0 => some .always | 1 => some .eq | 2 => some .ne | 3 => some .lo | 4 => some .hs | 5 => some .lt | 6 => some .ge
  | _ => none

def fmtQ (op : BitVec 6) (d a b cc : BitVec 4) (sub : BitVec 10) (imm : Word) : DWord :=
  op ++ d ++ a ++ b ++ cc ++ sub ++ imm

def kD (w : DWord) : QReg := w.extractLsb' 54 4
def kA (w : DWord) : QReg := w.extractLsb' 50 4
def kB (w : DWord) : QReg := w.extractLsb' 46 4
def kCc (w : DWord) : Option QCond := ccOf (w.extractLsb' 42 4)
def kImm (w : DWord) : Word := w.extractLsb' 0 32

def encodeKeyway : Instr → Option DWord
  | .qli d i => some (fmtQ 0x01 d 0 0 0 0 i) | .qlih d i => some (fmtQ 0x02 d 0 0 0 0 i)
  | .qadd d a b => some (fmtQ 0x03 d a b 0 0 0) | .qaddi d a i => some (fmtQ 0x04 d a 0 0 0 i)
  | .qsub d a b => some (fmtQ 0x05 d a b 0 0 0) | .qand d a b => some (fmtQ 0x06 d a b 0 0 0)
  | .qor d a b => some (fmtQ 0x07 d a b 0 0 0)
  | .qshl d a n => some (fmtQ 0x08 d a 0 0 0 ((0 : BitVec 26) ++ n))
  | .qshr d a n => some (fmtQ 0x09 d a 0 0 0 ((0 : BitVec 26) ++ n))
  | .qld d a i => some (fmtQ 0x0A d a 0 0 0 i) | .qst a b i => some (fmtQ 0x0B 0 a b 0 0 i)
  | .br cc a b i => some (fmtQ 0x10 0 a b (ccBits cc) 0 i) | .loop d i => some (fmtQ 0x11 d 0 0 0 0 i)
  | .keywayCall i => some (fmtQ 0x12 0 0 0 0 0 i) | .keywayRet => some (fmtQ 0x13 0 0 0 0 0 0)
  | .launch d a => some (fmtQ 0x18 d a 0 0 0 0)
  | .signal op sys int a b =>
    some (fmtQ 0x19 0 a b 0 ((0 : BitVec 7) ++ bit int ++ bit sys ++ bit (decide (op = .add))) 0)
  | .wait cc sys d a b us => some (fmtQ 0x1A d a b (ccBits cc) ((0 : BitVec 8) ++ bit sys ++ (0 : BitVec 1)) us)
  | .copy a => some (fmtQ 0x1B 0 a 0 0 0 0)
  | .endq int => some (fmtQ 0x3F 0 0 0 0 ((0 : BitVec 7) ++ bit int ++ (0 : BitVec 2)) 0)
  | _ => none

def parseKeyway (w : DWord) : Option Instr :=
  match (w.extractLsb' 58 6).toNat with
  | 0x01 => some (.qli (kD w) (kImm w)) | 0x02 => some (.qlih (kD w) (kImm w))
  | 0x03 => some (.qadd (kD w) (kA w) (kB w)) | 0x04 => some (.qaddi (kD w) (kA w) (kImm w))
  | 0x05 => some (.qsub (kD w) (kA w) (kB w)) | 0x06 => some (.qand (kD w) (kA w) (kB w))
  | 0x07 => some (.qor (kD w) (kA w) (kB w))
  | 0x08 => some (.qshl (kD w) (kA w) (w.extractLsb' 0 6)) | 0x09 => some (.qshr (kD w) (kA w) (w.extractLsb' 0 6))
  | 0x0A => some (.qld (kD w) (kA w) (kImm w)) | 0x0B => some (.qst (kA w) (kB w) (kImm w))
  | 0x10 => (kCc w).map (fun c => .br c (kA w) (kB w) (kImm w)) | 0x11 => some (.loop (kD w) (kImm w))
  | 0x12 => some (.keywayCall (kImm w)) | 0x13 => some .keywayRet
  | 0x18 => some (.launch (kD w) (kA w))
  | 0x19 => some (.signal (if w.getLsbD 32 then .add else .set) (w.getLsbD 33) (w.getLsbD 34) (kA w) (kB w))
  | 0x1A => (kCc w).map (fun c => .wait c (w.getLsbD 33) (kD w) (kA w) (kB w) (kImm w))
  | 0x1B => some (.copy (kA w)) | 0x3F => some (.endq (w.getLsbD 34))
  | _ => none

/-- What a Keyway word is, or why it is illegal (16 R388 R389). -/
def decodeKeyway (w : DWord) : Except DecErr Instr :=
  match parseKeyway w with
  | none => .error .opcode
  | some i =>
    if encodeKeyway i ≠ some w then .error .reservedBit
    else if wellFormed i = false then .error .notAccepted
    else .ok i

/-! ### Management packets (16 R395 R396 R398) -/

/-- A little-endian number of some bytes. -/
def leNat : List Byte → Nat
  | [] => 0
  | b :: r => b.toNat + 256 * leNat r

/-- The bytes of a number, least significant first. -/
def leBytes (x : Nat) : Nat → List Byte
  | 0 => []
  | n + 1 => BitVec.ofNat 8 x :: leBytes (x / 256) n

/-- Bytes that pad a value of n bytes to a multiple of 8. -/
def padLen (n : Nat) : Nat := (8 - n % 8) % 8

/-- The fields after the header; none where a length, padding or RZ bit is wrong (16 R395). -/
def parseFields : Nat → List Byte → Option (List PktField)
  | _, [] => some []
  | 0, _ => none
  | fuel + 1, bs =>
    if bs.length < 8 then none
    else
      let flen := leNat ((bs.drop 2).take 2)
      let rest := bs.drop 8
      if leNat ((bs.drop 4).take 4) ≠ 0 ∨ 4072 < flen ∨ rest.length < flen + padLen flen ∨
          leNat ((rest.drop flen).take (padLen flen)) ≠ 0 then none
      else (parseFields fuel (rest.drop (flen + padLen flen))).map
        (fun fs => { ftype := BitVec.ofNat 16 (leNat (bs.take 2)), value := rest.take flen } :: fs)

/-- No FTYPE stands twice. -/
def noRepeats : List PktField → Bool
  | [] => true
  | f :: r => r.all (fun g => decide (g.ftype ≠ f.ftype)) && noRepeats r

/-- The instruction a packet of a TYPE is (16 R398). -/
def packetInstr (type : BitVec 16) (p : Packet) : Instr :=
  match type.toNat with
  | 0x0001 => .ctxbind p | 0x0002 => .ctxfree p | 0x0003 => .ctxwrite p | 0x0004 => .ctxread p
  | 0x0010 => .map p | 0x0011 => .unmap p | 0x0012 => .protect p | 0x0018 => .qbind p
  | 0x0020 => .preempt p | 0x0021 => .restore p | 0x0022 => .resetCtx p | 0x0030 => .weightload p
  | 0x0050 => .telemetry p | 0x0060 => .fwstage p | 0x0061 => .fwcommit p | 0x0062 => .fwrollback p
  | 0x0070 => .powercfg p
  | _ => .unknownType type p

/-- The packet in a request buffer of 4 KiB under a doorbell LEN (16 R395 R396): malformed where the doorbell's length
is not a multiple of 8 or lies outside 16 to 4,096, differs from the header's LEN, STATUS is not 0, an RZ bit is set,
a field is cut or badly padded, or an FTYPE repeats. -/
def decodePacket (door : Nat) (bs : List Byte) : Instr :=
  let hdr := leNat (bs.take 16)
  let body := (bs.drop 16).take (door - 16)
  let fields := (parseFields 512 body).getD []
  let bad := decide (door % 8 ≠ 0 ∨ door < 16 ∨ 4096 < door ∨ hdr / 65536 % 65536 ≠ door ∨
      hdr / 281474976710656 % 65536 ≠ 0 ∨ hdr / 1180591620717411303424 ≠ 0) ||
    (parseFields 512 body).isNone || !noRepeats fields
  packetInstr (BitVec.ofNat 16 hdr)
    { seq := BitVec.ofNat 16 (hdr / 4294967296), ctx := BitVec.ofNat 6 (hdr / 18446744073709551616), malformed := bad,
      fields := fields }

/-- The bytes of one field with its padding. -/
def fieldBytes (f : PktField) : List Byte :=
  leBytes f.ftype.toNat 2 ++ leBytes f.value.length 2 ++ leBytes 0 4 ++ f.value ++
    List.replicate (padLen f.value.length) 0

/-- The bytes of a packet or response with a STATUS. -/
def packetBytes (type : BitVec 16) (seq status : BitVec 16) (ctx : CtxNum) (fields : List PktField) : List Byte :=
  let body := fields.flatMap fieldBytes
  leBytes type.toNat 2 ++ leBytes (16 + body.length) 2 ++ leBytes seq.toNat 2 ++ leBytes status.toNat 2 ++
    leBytes ctx.toNat 8 ++ body

/-! ### The encoder, and the host's view of a row -/

/-- The word, half or Keyway word of an instruction that has one. -/
inductive Code
  | slot (n : Nat) (w : DWord)
  | half (w : BitVec 32)
  | keyway (w : DWord)
deriving DecidableEq, Repr

def encode (i : Instr) : Option Code :=
  match encodeSlot0 i with
  | some w => some (.slot 0 w)
  | none => match encodeSlot1 i with
    | some w => some (.slot 1 w)
    | none => match encodeSlot2 i with
      | some w => some (.slot 2 w)
      | none => match encodeHalf i with
        | some w => some (.half w)
        | none => (encodeKeyway i).map .keyway

/-- What a code reads as. -/
def decode : Code → Except DecErr Instr
  | .slot n w => decodeSlot n w
  | .half w => match decodeHalf 0 w with
    | .ok i => .ok i
    | .error _ => decodeHalf 1 w
  | .keyway w => decodeKeyway w

/-- The result without its reason. -/
def okOf (r : Except DecErr Instr) : Option Instr :=
  match r with
  | .ok i => some i
  | .error _ => none

/-- The host's view: 32 bits are a paired half, 64 bits a full slot of whichever pipe its opcode names, 72 bits a
Keyway word below a zero byte (notes/assumptions/22.md). -/
def decodeTableWord (nbits w : Nat) : Option Instr :=
  if nbits ≤ 32 then okOf (decode (.half (BitVec.ofNat 32 w)))
  else if nbits ≤ 64 then
    match okOf (decodeSlot 0 (BitVec.ofNat 64 w)) with
    | some i => some i
    | none => match okOf (decodeSlot 1 (BitVec.ofNat 64 w)) with
      | some i => some i
      | none => okOf (decodeSlot 2 (BitVec.ofNat 64 w))
  else okOf (decodeKeyway (BitVec.ofNat 64 w))

end Sys2Proof
end

