-- ==== Sys2Proof/Machine/Digest.lean ====
section
/-! DEFINITION. SHA-256 and ECDSA P-256, which the spec names and does not define: taken from FIPS 180-4 and FIPS 186
(PRESUMED, notes/assumptions/95.md). Used for the configuration record, firmware images and attestation (18 R415 R421 R423). -/

namespace Sys2Proof.Machine

/-! ### Numbers as bytes, the most significant first -/

/-- A number of n bytes, the most significant first. -/
def beBytes (x n : Nat) : List Byte := (leBytes x n).reverse
def beNat (bs : List Byte) : Nat := bs.foldl (fun acc b => 256 * acc + b.toNat) 0

/-! ### SHA-256 -/

/-- The sixty-four round constants. -/
def shaConsts : List Word := [0x428A2F98, 0x71374491, 0xB5C0FBCF, 0xE9B5DBA5, 0x3956C25B, 0x59F111F1, 0x923F82A4, 0xAB1C5ED5,
  0xD807AA98, 0x12835B01, 0x243185BE, 0x550C7DC3, 0x72BE5D74, 0x80DEB1FE, 0x9BDC06A7, 0xC19BF174,
  0xE49B69C1, 0xEFBE4786, 0x0FC19DC6, 0x240CA1CC, 0x2DE92C6F, 0x4A7484AA, 0x5CB0A9DC, 0x76F988DA,
  0x983E5152, 0xA831C66D, 0xB00327C8, 0xBF597FC7, 0xC6E00BF3, 0xD5A79147, 0x06CA6351, 0x14292967,
  0x27B70A85, 0x2E1B2138, 0x4D2C6DFC, 0x53380D13, 0x650A7354, 0x766A0ABB, 0x81C2C92E, 0x92722C85,
  0xA2BFE8A1, 0xA81A664B, 0xC24B8B70, 0xC76C51A3, 0xD192E819, 0xD6990624, 0xF40E3585, 0x106AA070,
  0x19A4C116, 0x1E376C08, 0x2748774C, 0x34B0BCB5, 0x391C0CB3, 0x4ED8AA4A, 0x5B9CCA4F, 0x682E6FF3,
  0x748F82EE, 0x78A5636F, 0x84C87814, 0x8CC70208, 0x90BEFFFA, 0xA4506CEB, 0xBEF9A3F7, 0xC67178F2]
/-- The hash value before the first block. -/
def shaStart : List Word := [0x6A09E667, 0xBB67AE85, 0x3C6EF372, 0xA54FF53A, 0x510E527F, 0x9B05688C, 0x1F83D9AB, 0x5BE0CD19]
/-- The words of a block's schedule, the latest first, and n more. -/
def shaSchedule : Nat → List Word → List Word
  | 0, ws => ws
  | n + 1, ws =>
    let a := ws.getD 1 0
    let b := ws.getD 14 0
    let s1 := a.rotateRight 17 ^^^ a.rotateRight 19 ^^^ (a >>> 10)
    let s0 := b.rotateRight 7 ^^^ b.rotateRight 18 ^^^ (b >>> 3)
    shaSchedule n ((s1 + ws.getD 6 0 + s0 + ws.getD 15 0) :: ws)
/-- One round over the eight working words, with the round's constant and schedule word added. -/
def shaRound (v : List Word) (kw : Word) : List Word :=
  match v with
  | [a, b, c, d, e, f, g, h] =>
    let t1 := h + (e.rotateRight 6 ^^^ e.rotateRight 11 ^^^ e.rotateRight 25) + ((e &&& f) ^^^ (~~~e &&& g)) + kw
    let t2 := (a.rotateRight 2 ^^^ a.rotateRight 13 ^^^ a.rotateRight 22) + ((a &&& b) ^^^ (a &&& c) ^^^ (b &&& c))
    [t1 + t2, a, b, c, d + t1, e, f, g]
  | _ => v
/-- The 32-bit words of a block of bytes. -/
def shaWords (bs : List Byte) : List Word :=
  (List.range 16).map (fun i => BitVec.ofNat 32 (beNat ((bs.drop (4 * i)).take 4)))
def shaBlock (v : List Word) (bs : List Byte) : List Word :=
  let ws := (shaSchedule 48 (shaWords bs).reverse).reverse
  List.zipWith (· + ·) v ((List.zipWith (· + ·) shaConsts ws).foldl shaRound v)
/-- A message with the one bit, the zeros and its length in bits. -/
def shaPad (bs : List Byte) : List Byte :=
  bs ++ [0x80] ++ List.replicate ((119 - bs.length % 64) % 64) 0 ++ beBytes (8 * bs.length) 8
def shaBlocks : Nat → List Byte → List Word → List Word
  | 0, _, v => v
  | n + 1, bs, v => shaBlocks n (bs.drop 64) (shaBlock v (bs.take 64))
/-- SHA-256, 32 bytes. -/
def sha256 (bs : List Byte) : List Byte :=
  let m := shaPad bs
  (shaBlocks (m.length / 64) m shaStart).flatMap (fun w => beBytes w.toNat 4)

/-! ### The curve P-256 -/

/-- The field's prime. -/
def fieldP : Nat := 0xFFFFFFFF00000001000000000000000000000000FFFFFFFFFFFFFFFFFFFFFFFF
/-- The order of the base point. -/
def orderN : Nat := 0xFFFFFFFF00000000FFFFFFFFFFFFFFFFBCE6FAADA7179E84F3B9CAC2FC632551
/-- The constant of the curve's equation. -/
def curveB : Nat := 0x5AC635D8AA3A93E7B3EBBD55769886BC651D06B0CC53B0F63BCE3C3E27D2604B
def powMod (m b e : Nat) : Nat :=
  (List.range 256).foldr (fun i acc => let q := acc * acc % m; if e.testBit i then q * b % m else q) 1
/-- The inverse modulo a prime. -/
def invMod (m a : Nat) : Nat := powMod m (a % m) (m - 2)
def subP (a b : Nat) : Nat := (a + fieldP - b) % fieldP
/-- A point with coordinates x over z squared and y over z cubed; z = 0 is the point at infinity. -/
structure CurvePoint where
  x : Nat
  y : Nat
  z : Nat
deriving DecidableEq, Repr
def curveZero : CurvePoint := { x := 1, y := 1, z := 0 }
def basePoint : CurvePoint :=
  { x := 0x6B17D1F2E12C4247F8BCE6E563A440F277037D812DEB33A0F4A13945D898C296,
    y := 0x4FE342E2FE1A7F9B8EE7EB4A7C0F9E162BCE33576B315ECECBB6406837BF51F5, z := 1 }
def pointDouble (q : CurvePoint) : CurvePoint :=
  let d := q.z * q.z % fieldP
  let g := q.y * q.y % fieldP
  let b := q.x * g % fieldP
  let a := 3 * (subP q.x d * ((q.x + d) % fieldP) % fieldP) % fieldP
  let x := subP (a * a % fieldP) (8 * b % fieldP)
  let yz := (q.y + q.z) % fieldP
  { x := x, y := subP (a * subP (4 * b % fieldP) x % fieldP) (8 * (g * g % fieldP) % fieldP),
    z := subP (subP (yz * yz % fieldP) g) d }
def pointAdd (q r : CurvePoint) : CurvePoint :=
  if q.z = 0 then r else if r.z = 0 then q else
  let zq := q.z * q.z % fieldP
  let zr := r.z * r.z % fieldP
  let u := q.x * zr % fieldP
  let sy := q.y * (zr * r.z % fieldP) % fieldP
  let h := subP (r.x * zq % fieldP) u
  let w := subP (r.y * (zq * q.z % fieldP) % fieldP) sy
  if h = 0 then (if w = 0 then pointDouble q else curveZero) else
  let h2 := h * h % fieldP
  let h3 := h * h2 % fieldP
  let v := u * h2 % fieldP
  let x := subP (subP (w * w % fieldP) h3) (2 * v % fieldP)
  { x := x, y := subP (w * subP v x % fieldP) (sy * h3 % fieldP), z := h * (q.z * r.z % fieldP) % fieldP }
def pointMul (k : Nat) (q : CurvePoint) : CurvePoint :=
  (List.range 256).foldr (fun i acc => let d := pointDouble acc; if k.testBit i then pointAdd d q else d) curveZero
/-- The coordinate x of a point that is not at infinity. -/
def pointX (q : CurvePoint) : Nat := let i := invMod fieldP q.z; q.x * (i * i % fieldP) % fieldP
def pointY (q : CurvePoint) : Nat := let i := invMod fieldP q.z; q.y * (i * (i * i % fieldP) % fieldP) % fieldP

/-! ### ECDSA P-256: a key is x then y, a signature r then s, 32 bytes each, the most significant first -/

/-- The public key of a private key. -/
def publicKey (d : BitVec 256) : BitVec 512 :=
  let q := pointMul (d.toNat % orderN) basePoint
  BitVec.ofNat 256 (pointX q) ++ BitVec.ofNat 256 (pointY q)
def keyPoint (k : BitVec 512) : CurvePoint := { x := (k.extractLsb' 256 256).toNat, y := (k.extractLsb' 0 256).toNat, z := 1 }
/-- A point of the curve. -/
def onCurve (q : CurvePoint) : Bool :=
  decide (q.x < fieldP) && decide (q.y < fieldP) &&
    decide (q.y * q.y % fieldP = (q.x * q.x % fieldP * q.x + (fieldP - 3) * q.x + curveB) % fieldP)
/-- Whether sig is a signature by key over the SHA-256 of a message. -/
def signatureValid (key : BitVec 512) (msg : List Byte) (sig : BitVec 512) : Bool :=
  let r := (sig.extractLsb' 256 256).toNat
  let s := (sig.extractLsb' 0 256).toNat
  let w := invMod orderN s
  let q := pointAdd (pointMul (beNat (sha256 msg) * w % orderN) basePoint) (pointMul (r * w % orderN) (keyPoint key))
  decide (0 < r) && decide (r < orderN) && decide (0 < s) && decide (s < orderN) && onCurve (keyPoint key) &&
    decide (q.z ≠ 0) && decide (pointX q % orderN = r)
/-- A signature by the private key d over the SHA-256 of a message, with the signer's own number k. -/
def signature (d k : BitVec 256) (msg : List Byte) : BitVec 512 :=
  let n := k.toNat % (orderN - 1) + 1
  let r := pointX (pointMul n basePoint) % orderN
  let s := invMod orderN n * (beNat (sha256 msg) + r * d.toNat) % orderN
  BitVec.ofNat 256 r ++ BitVec.ofNat 256 s

end Sys2Proof.Machine
end

