-- ==== Sys2Proof/Config.lean ====
section
/-! DEFINITION. What an implementation fixes and the values the spec leaves open. A constant without a body is a free
value: nothing in Lean can evaluate it (notes/assumptions/7.md and the entry each docstring names). -/

namespace Sys2Proof.Config

/-- Bits of RCP within one ulp where 04 R142 gives no special value: one fixed function of the operand. -/
opaque rcp : Word → Word
/-- Bits of RSQ within two ulp (04 R142). -/
opaque rsq : Word → Word
/-- Bits of EX2 (04 R142). -/
opaque ex2 : Word → Word
/-- Bits of LG2 (04 R142). -/
opaque lg2 : Word → Word
/-- Bits of SIN (04 R142). -/
opaque sin : Word → Word
/-- Bits of COS (04 R142). -/
opaque cos : Word → Word
/-- Bits of TANH (04 R142). -/
opaque tanh : Word → Word

/-- A free 32-bit value of a counter in the state (notes/assumptions/7.md). -/
opaque freeWord : Nat → Word

/-- Bytes of the descriptor of a saved engine entry, by its encoding, state, sequence number, age and priority, and the byte's
place; and of its captured scalars and FMT (15 R377, notes/assumptions/40.md). -/
opaque descriptorByte : DWord → Nat → Nat → Nat → Nat → Nat → BitVec 8
opaque captureByte : List Word → BitVec 14 → Nat → BitVec 8

/-- The place of a field in the header of a firmware image, which 18 R421 does not state: 0 the magic word, 1 the version,
2 the length, 3 the part number, 4 the hash of the signing key (notes/assumptions/46.md). -/
opaque headerPlace : Nat → Nat
/-- The public key whose hash a firmware image's header names: 18 R421 does not say where the key itself is held
(notes/assumptions/46.md). -/
opaque signingKey : BitVec 256 → BitVec 512
/-- The number that the signer of an attestation report draws (18 R423, notes/assumptions/95.md). -/
opaque signNumber : Nat → BitVec 256

/-- Wave slots of a partition (01 R18). -/
def waveSlots : Nat := 12
/-- Register granules of a partition (01 R22). -/
def granules : Nat := 96
/-- Installed GDDR 7 bytes of the full device: 64 GiB (00 R4, 16 R382). -/
def gddrFull : Nat := 68719476736
/-- Bytes of one core pair's local store (03 R99). -/
def pairBytes : Nat := 524288
/-- Weight-store bytes of a stack, 384 MiB (03 R104). -/
def weightBytes : Nat := 402653184
/-- Queue-store bytes of a stack (02 R65). -/
def queueStoreBytes : Nat := 33554432
/-- Master clocks in one microsecond at 1.5 GHz (17). -/
def clocksPerUs : Nat := 1500

end Sys2Proof.Config
end

