-- ==== Sys2Proof/Machine/Float.lean ====
section
/-! DEFINITION. Number formats and exact arithmetic (04): decoding a code to its exact value, the operations on exact
values, and the one rounding of each result. -/

namespace Sys2Proof.Machine

/-- The rounding modes of 04 R133. -/
inductive Round
  | ne | zero | up | down
deriving DecidableEq, Repr

/-- An exact value: NaN, an infinity, or (-1)^neg x num / den x 2^e; a zero keeps its sign. -/
inductive Val
  | nan
  | inf (neg : Bool)
  | fin (neg : Bool) (num den : Nat) (e : Int)
deriving DecidableEq, Repr

/-- What the infinity and NaN codes of a format are (04 R128). -/
inductive Specials
  | ieee | e4m3 | none
deriving DecidableEq, Repr

/-- A floating-point format (04 R128). -/
structure FloatFmt where
  ebits : Nat
  mbits : Nat
  bias : Nat
  spec : Specials
  /-- Magnitude code of the largest finite value. -/
  maxCode : Nat
deriving DecidableEq, Repr

def fmtFP32 : FloatFmt := { ebits := 8, mbits := 23, bias := 127, spec := .ieee, maxCode := 0x7F7FFFFF }
def fmtFP16 : FloatFmt := { ebits := 5, mbits := 10, bias := 15, spec := .ieee, maxCode := 0x7BFF }
def fmtBF16 : FloatFmt := { ebits := 8, mbits := 7, bias := 127, spec := .ieee, maxCode := 0x7F7F }
def fmtE4M3 : FloatFmt := { ebits := 4, mbits := 3, bias := 7, spec := .e4m3, maxCode := 0x7E }
def fmtE5M2 : FloatFmt := { ebits := 5, mbits := 2, bias := 15, spec := .ieee, maxCode := 0x7B }
def fmtE2M1 : FloatFmt := { ebits := 2, mbits := 1, bias := 1, spec := .none, maxCode := 7 }

/-- The floating-point format of a type code; FP32 for the codes that are none. -/
def floatFmt : NumType → FloatFmt
  | .fp16 => fmtFP16 | .bf16 => fmtBF16 | .e4m3 => fmtE4M3 | .e5m2 => fmtE5M2 | .e2m1 => fmtE2M1 | _ => fmtFP32

/-- Bits of a format. -/
def FloatFmt.width (f : FloatFmt) : Nat := 1 + f.ebits + f.mbits

/-- The magnitude code of infinity in an IEEE-like format. -/
def infCode (f : FloatFmt) : Nat := (2 ^ f.ebits - 1) * 2 ^ f.mbits

/-- The canonical NaN of a format (04 R128); E2M1 has none and reads 0 (04 R134). -/
def canonNaN (f : FloatFmt) : Nat :=
  match f.spec with
  | .ieee => infCode f + 2 ^ (f.mbits - 1)
  | .e4m3 => 0x7F
  | .none => 0

/-- A magnitude code with its sign. -/
def withSign (f : FloatFmt) (neg : Bool) (code : Nat) : Nat := if neg then code + 2 ^ (f.ebits + f.mbits) else code

/-- The exact value of a code (04 R128). -/
def decodeFloat (f : FloatFmt) (x : Nat) : Val :=
  let neg := decide (x / 2 ^ (f.ebits + f.mbits) % 2 = 1)
  let code := x % 2 ^ (f.ebits + f.mbits)
  let ex := code / 2 ^ f.mbits
  let fr := code % 2 ^ f.mbits
  let finite :=
    if ex = 0 then Val.fin neg fr 1 (1 - (f.bias : Int) - f.mbits)
    else Val.fin neg (2 ^ f.mbits + fr) 1 ((ex : Int) - f.bias - f.mbits)
  match f.spec with
  | .ieee => if ex = 2 ^ f.ebits - 1 then (if fr = 0 then .inf neg else .nan) else finite
  | .e4m3 => if code = 0x7F then .nan else finite
  | .none => finite

def isNaN : Val → Bool
  | .nan => true | _ => false
def isInf : Val → Bool
  | .inf _ => true | _ => false
def isZero : Val → Bool
  | .fin _ 0 _ _ => true | _ => false
def signOf : Val → Bool
  | .nan => false | .inf n => n | .fin n _ _ _ => n

def negVal : Val → Val
  | .nan => .nan | .inf n => .inf (!n) | .fin n a d e => .fin (!n) a d e
def absVal : Val → Val
  | .nan => .nan | .inf _ => .inf false | .fin _ a d e => .fin false a d e

/-- An exact integer. -/
def intVal (x : Int) : Val := .fin (decide (x < 0)) x.natAbs 1 0

/-- 2 to the power k. -/
def pow2Val (k : Int) : Val := .fin false 1 1 k

/-- A product; the second component is 0 x infinity (04 R129). -/
def mulVal (a b : Val) : Val × Bool :=
  match a, b with
  | .fin n1 a1 d1 e1, .fin n2 a2 d2 e2 => (.fin (n1 != n2) (a1 * a2) (d1 * d2) (e1 + e2), false)
  | .inf n1, .inf n2 => (.inf (n1 != n2), false)
  | .inf n1, .fin n2 a2 _ _ => if a2 = 0 then (.nan, true) else (.inf (n1 != n2), false)
  | .fin n1 a1 _ _, .inf n2 => if a1 = 0 then (.nan, true) else (.inf (n1 != n2), false)
  | _, _ => (.nan, false)

/-- Numerator of a finite value over den at exponent m, for m at most its own exponent. -/
def scaledNum (num : Nat) (e m : Int) (otherDen : Nat) : Nat := num * otherDen * 2 ^ (e - m).toNat

/-- A sum; an exact zero of opposite signs is +0, or -0 when rounding toward minus infinity (08 R231). The second
component is infinity - infinity. -/
def addVal (down : Bool) (a b : Val) : Val × Bool :=
  match a, b with
  | .fin n1 a1 d1 e1, .fin n2 a2 d2 e2 =>
    let m := min e1 e2
    let x := scaledNum a1 e1 m d2
    let y := scaledNum a2 e2 m d1
    if n1 = n2 then (.fin n1 (x + y) (d1 * d2) m, false)
    else if x = y then (.fin down 0 1 0, false)
    else if x < y then (.fin n2 (y - x) (d1 * d2) m, false)
    else (.fin n1 (x - y) (d1 * d2) m, false)
  | .inf n1, .inf n2 => if n1 = n2 then (.inf n1, false) else (.nan, true)
  | .inf n1, .fin _ _ _ _ => (.inf n1, false)
  | .fin _ _ _ _, .inf n2 => (.inf n2, false)
  | _, _ => (.nan, false)

/-- A quotient of finite values; none for a zero divisor or a value that is not finite. -/
def divVal (a b : Val) : Option Val :=
  match a, b with
  | .fin n1 a1 d1 e1, .fin n2 a2 d2 e2 => if a2 = 0 then none else some (.fin (n1 != n2) (a1 * d2) (d1 * a2) (e1 - e2))
  | _, _ => none

/-- Order of two values that are not NaN, zeros of both signs equal: -1, 0 or 1. -/
def cmpVal (a b : Val) : Int :=
  match a, b with
  | .inf n1, .inf n2 => if n1 = n2 then 0 else if n1 then -1 else 1
  | .inf n1, _ => if n1 then -1 else 1
  | _, .inf n2 => if n2 then 1 else -1
  | .fin n1 a1 d1 e1, .fin n2 a2 d2 e2 =>
    let m := min e1 e2
    let x : Int := scaledNum a1 e1 m d2
    let y : Int := scaledNum a2 e2 m d1
    let sx := if n1 then -x else x
    let sy := if n2 then -y else y
    if sx < sy then -1 else if sx = sy then 0 else 1
  | _, _ => 0

/-- Whether two finite magnitudes num / den and 2^k compare num / den >= 2^k. -/
def geMagPow (num den : Nat) (k : Int) : Bool :=
  if 0 ≤ k then decide (den * 2 ^ k.toNat ≤ num) else decide (den ≤ num * 2 ^ (-k).toNat)

/-- floor(log2(num / den)) for num, den > 0. -/
def floorLog2 (num den : Nat) : Int :=
  let l : Int := (Nat.log2 num : Int) - (Nat.log2 den : Int)
  if geMagPow num den l then l else l - 1

/-- Whether a magnitude with remainder is rounded up: the mode, the sign, the quotient's parity, and the remainder. -/
def roundsUp (m : Round) (neg odd : Bool) (rem d : Nat) : Bool :=
  match m with
  | .ne => decide (d < 2 * rem) || (decide (2 * rem = d) && odd)
  | .zero => false
  | .up => decide (rem ≠ 0) && !neg
  | .down => decide (rem ≠ 0) && neg

/-- num / den x 2^e rounded to an integer in units of 2^q: the integer and whether it is inexact. -/
def roundAt (m : Round) (neg : Bool) (num den : Nat) (e q : Int) : Nat × Bool :=
  let n := if q ≤ e then num * 2 ^ (e - q).toNat else num
  let d := if q ≤ e then den else den * 2 ^ (q - e).toNat
  let quo := n / d
  let rem := n % d
  (if roundsUp m neg (decide (quo % 2 = 1)) rem d then quo + 1 else quo, decide (rem ≠ 0))

/-- The magnitude code of a finite value rounded to a format as if its exponent were unbounded above, and whether it is
inexact (04 R134). -/
def roundCode (f : FloatFmt) (m : Round) (neg : Bool) (num den : Nat) (e : Int) : Nat × Bool :=
  if num = 0 then (0, false)
  else
    let ex := max (floorLog2 num den + e) (1 - (f.bias : Int))
    let r := roundAt m neg num den e (ex - f.mbits)
    ((ex + f.bias - 1).toNat * 2 ^ f.mbits + r.1, r.2)

/-! ### Flags of FPX (04 R136) -/

abbrev FpFlags := BitVec 6
def flagIV : FpFlags := 1
def flagDZ : FpFlags := 2
def flagOF : FpFlags := 4
def flagUF : FpFlags := 8
def flagIX : FpFlags := 16
def flagSA : FpFlags := 32

def flagIf (b : Bool) (f : FpFlags) : FpFlags := if b then f else 0

/-- Whether an overflow gives the infinity in a mode (IEEE 754). -/
def overflowInf (m : Round) (neg : Bool) : Bool :=
  match m with
  | .ne => true | .zero => false | .up => !neg | .down => neg

/-- IX and UF of an inexact result (04 R134). -/
def tinyFlags (f : FloatFmt) (code : Nat) (inexact : Bool) : FpFlags :=
  flagIf inexact flagIX ||| flagIf (inexact && decide (code < 2 ^ f.mbits)) flagUF

/-- An arithmetic result: IEEE overflow for the mode, SAT ignored (04 R134, 08 R231). -/
def roundIeee (f : FloatFmt) (m : Round) (v : Val) : Nat × FpFlags :=
  match v with
  | .nan => (canonNaN f, 0)
  | .inf n => (withSign f n (infCode f), 0)
  | .fin n num den e =>
    let r := roundCode f m n num den e
    if f.maxCode < r.1 then (withSign f n (if overflowInf m n then infCode f else f.maxCode), flagOF ||| flagIX)
    else (withSign f n r.1, tinyFlags f r.1 r.2)

/-- A conversion of a real value to a format, with the overflow table of 04 R134. -/
def convertFloat (f : FloatFmt) (m : Round) (sat : Bool) (v : Val) : Nat × FpFlags :=
  match v with
  | .nan => if f.spec = .none then (0, flagIV) else (canonNaN f, 0)
  | .inf n =>
    match f.spec with
    | .ieee => (withSign f n (infCode f), 0)
    | .e4m3 => if sat then (withSign f n f.maxCode, flagSA) else (withSign f n 0x7F, flagOF)
    | .none => (withSign f n f.maxCode, if sat then flagSA else flagOF)
  | .fin n num den e =>
    let r := roundCode f m n num den e
    if f.maxCode < r.1 then
      if sat then (withSign f n f.maxCode, flagSA ||| flagIX)
      else match f.spec with
        | .ieee => (withSign f n (if overflowInf m n then infCode f else f.maxCode), flagOF ||| flagIX)
        | .e4m3 => (withSign f n 0x7F, flagOF ||| flagIX)
        | .none => (withSign f n f.maxCode, flagOF ||| flagIX)
    else (withSign f n r.1, tinyFlags f r.1 r.2)

/-- A real value rounded to an integer under a mode, and whether rounding changed it. -/
def roundInt (m : Round) (neg : Bool) (num den : Nat) (e : Int) : Int × Bool :=
  let r := roundAt m neg num den e 0
  (if neg then -(r.1 : Int) else r.1, r.2)

/-- An integer clamped to bounds, and whether it was. -/
def clampInt (lo hi x : Int) : Int × Bool := if x < lo then (lo, true) else if hi < x then (hi, true) else (x, false)

/-- The bounds of an integer type. -/
def intBounds : NumType → Int × Int
  | .int4 => (-8, 7) | .int8 => (-128, 127) | .uint8 => (0, 255)
  | .int32 => (-2147483648, 2147483647) | .uint32 => (0, 4294967295)
  | .int64 => (-9223372036854775808, 9223372036854775807) | .uint64 => (0, 18446744073709551615)
  | _ => (0, 255)

/-- A floating-point value to an integer type (04 R135). -/
def floatToInt (t : NumType) (m : Round) (v : Val) : Int × FpFlags :=
  match v with
  | .nan => (0, flagIV)
  | .inf n => (if n then (intBounds t).1 else (intBounds t).2, flagSA)
  | .fin n num den e =>
    let r := roundInt m n num den e
    let c := clampInt (intBounds t).1 (intBounds t).2 r.1
    (c.1, flagIf r.2 flagIX ||| flagIf c.2 flagSA)

/-- An FP32 value to an E8M0 code (04 R130). -/
def toE8M0 (v : Val) : Nat × FpFlags :=
  match v with
  | .nan => (0xFF, flagIV)
  | .inf true => (0xFF, flagIV)
  | .inf false => (0xFE, flagSA)
  | .fin true _ _ _ => (0xFF, flagIV)
  | .fin false num den e =>
    if num = 0 then (0, flagSA)
    else
      let k := floorLog2 num den + e
      if k < -127 then (0, flagSA)
      else if 128 ≤ k then (0xFE, flagSA)
      else ((k + 127).toNat,
        flagIf (!(if 0 ≤ k - e then decide (den * 2 ^ (k - e).toNat = num) else decide (den = num * 2 ^ (e - k).toNat))) flagIX)

/-- The value of an E8M0 code (04 R130). -/
def ofE8M0 (x : Nat) : Val := if x = 0xFF then .nan else pow2Val ((x : Int) - 127)

/-! ### FP32 words -/

def f32 (x : Word) : Val := decodeFloat fmtFP32 x.toNat
def f16 (x : BitVec 16) : Val := decodeFloat fmtFP16 x.toNat
def bf16 (x : BitVec 16) : Val := decodeFloat fmtBF16 x.toNat
def toF32 (m : Round) (v : Val) : Word × FpFlags :=
  let r := roundIeee fmtFP32 m v
  (BitVec.ofNat 32 r.1, r.2)
def nan32 : Word := 0x7FC00000
def inf32 : Word := 0x7F800000

/-- A subnormal FP32 word becomes a zero of its sign (04 R138). -/
def flushF32 (x : Word) : Word := if x.extractLsb' 23 8 = 0 then x &&& 0x80000000 else x

/-- round(a + b) with its flags. -/
def addF (f : FloatFmt) (m : Round) (a b : Val) : Nat × FpFlags :=
  let s := addVal (decide (m = .down)) a b
  let r := roundIeee f m s.1
  (r.1, r.2 ||| flagIf s.2 flagIV)

/-- round(a x b) with its flags. -/
def mulF (f : FloatFmt) (m : Round) (a b : Val) : Nat × FpFlags :=
  let p := mulVal a b
  let r := roundIeee f m p.1
  (r.1, r.2 ||| flagIf p.2 flagIV)

/-- round(a x b + c), one rounding; 0 x infinity sets IV even when c is NaN (08 R231). -/
def fmaF (f : FloatFmt) (m : Round) (a b c : Val) : Nat × FpFlags :=
  let p := mulVal a b
  let s := addVal (decide (m = .down)) p.1 c
  let r := roundIeee f m s.1
  (r.1, r.2 ||| flagIf (p.2 || s.2) flagIV)

/-- The lesser or greater of two codes (08 R232): one NaN gives the other operand, two the canonical NaN, and -0 is less
than +0. -/
def minMaxF (f : FloatFmt) (wantMax : Bool) (x y : Nat) : Nat :=
  let a := decodeFloat f x
  let b := decodeFloat f y
  if isNaN a && isNaN b then canonNaN f
  else if isNaN a then y
  else if isNaN b then x
  else
    let c := cmpVal a b
    let xLess := if c = 0 then signOf a && !signOf b else decide (c < 0)
    if c = 0 && (signOf a == signOf b) then x
    else if xLess != wantMax then x else y

/-! ### The group summation rule (04 R139) -/

/-- floor(log2 |p|) of a non-zero finite product. -/
def expVal : Val → Option Int
  | .fin _ num den e => if num = 0 then none else some (floorLog2 num den + e)
  | _ => none

/-- The largest exponent of a group; none where every product is zero. -/
def maxExp : List Val → Option Int
  | [] => none
  | p :: r => match expVal p, maxExp r with
    | some a, some b => some (max a b)
    | some a, none => some a
    | none, o => o

/-- sign(p) x floor(|p| / g) with g = 2^k, in units of g. -/
def truncAt (k : Int) : Val → Int
  | .fin n num den e =>
    let q := if k ≤ e then num * 2 ^ (e - k).toNat / den else num / (den * 2 ^ (k - e).toNat)
    if n then -(q : Int) else q
  | _ => 0

def sumTrunc (k : Int) : List Val → Int
  | [] => 0
  | p :: r => truncAt k p + sumTrunc k r

/-- The exact group sum before its rounding, on FP32: NaN, an infinity, a zero of the mode's sign, or the truncated sum. -/
def groupExact (m : Round) (ps : List Val) : Val :=
  let pos := ps.any (fun p => decide (p = .inf false))
  let neg := ps.any (fun p => decide (p = .inf true))
  if ps.any isNaN || (pos && neg) then .nan
  else if pos then .inf false
  else if neg then .inf true
  else match maxExp ps with
    | none => .fin (decide (m = .down)) 0 1 0
    | some e =>
      let s := sumTrunc (e - 28) ps
      if s = 0 then .fin (decide (m = .down)) 0 1 0
      else .fin (decide (s < 0)) s.natAbs 1 (e - 28)

/-- group_sum of 04 R139 with the flags of its rounding. -/
def groupSum (m : Round) (ps : List Val) : Word × FpFlags := toF32 m (groupExact m ps)

/-- One step of accumulate: round(acc + group_sum); the flush of a tile is the caller's (04 R138 R139). -/
def accumulate1 (m : Round) (acc : Word) (ps : List Val) : Word × FpFlags :=
  let g := groupSum m ps
  let r := addF fmtFP32 m (f32 acc) (f32 g.1)
  -- IV is set by 0 x infinity in a product only, never by this addition (04 R139)
  (BitVec.ofNat 32 r.1, (g.2 ||| r.2) &&& ~~~flagIV)

/-! ### Square root (04 R142) -/

/-- Integer square root, one bit of the root at a time from bit k - 1 down. -/
def isqrtFrom (x : Nat) : Nat → Nat → Nat
  | 0, r => r
  | k + 1, r => let c := r + 2 ^ k
    if c * c ≤ x then isqrtFrom x k c else isqrtFrom x k r

/-- The square root of num x 2^e as a value with a sticky bit below its rounding: 40 bits of root. -/
def sqrtVal (num : Nat) (e : Int) : Val :=
  let shift := 2 * 40 - Nat.log2 num + (if (e - ((2 * 40 - Nat.log2 num : Nat) : Int)) % 2 = 0 then 0 else 1)
  let n := num * 2 ^ shift
  let r := isqrtFrom n 42 0
  .fin false (2 * r + (if r * r = n then 0 else 1)) 1 ((e - (shift : Int)) / 2 - 1)

end Sys2Proof.Machine
end

