-- ==== Sys2Proof/Machine/Cells.lean ====
section
/-! DEFINITION. Sparse storage in one canonical form: keys strictly rising, no entry that holds 0. An unlisted key reads
as 0. Every register file, memory and store of the machine is held so. -/

namespace Sys2Proof.Machine

/-- A sparse store of words of w bits. -/
abbrev Cells (w : Nat) := List (Nat × BitVec w)

/-- The value at a key; 0 where the key is not listed. -/
def cellsRead {w : Nat} : Cells w → Nat → BitVec w
  | [], _ => 0
  | (k, v) :: r, a => if a = k then v else cellsRead r a

/-- Removes the entries of a key. -/
def cellsErase {w : Nat} : Cells w → Nat → Cells w
  | [], _ => []
  | (k, v) :: r, a => if a = k then cellsErase r a else (k, v) :: cellsErase r a

/-- Puts an entry in its place. -/
def cellsInsert {w : Nat} : Cells w → Nat → BitVec w → Cells w
  | [], a, x => [(a, x)]
  | (k, v) :: r, a, x =>
    if a < k then (a, x) :: (k, v) :: r else if a = k then (a, x) :: r else (k, v) :: cellsInsert r a x

/-- One write; writing 0 removes the entry, so that equal contents are equal lists. -/
def cellsWrite {w : Nat} (c : Cells w) (a : Nat) (x : BitVec w) : Cells w :=
  if x = 0 then cellsErase c a else cellsInsert c a x

/-- The canonical form, from a lower bound of the keys. -/
def cellsWfFrom {w : Nat} : Nat → Cells w → Bool
  | _, [] => true
  | lo, (k, v) :: r => decide (lo ≤ k) && decide (v ≠ 0) && cellsWfFrom (k + 1) r

/-- The canonical form: keys strictly rising, no entry that holds 0. -/
def cellsWf {w : Nat} (c : Cells w) : Bool := cellsWfFrom 0 c

/-- Several writes in order. -/
def cellsWriteAll {w : Nat} (c : Cells w) : List (Nat × BitVec w) → Cells w
  | [] => c
  | (a, x) :: r => cellsWriteAll (cellsWrite c a x) r

/-- The entries whose keys lie in [a, a + n). -/
def cellsRange {w : Nat} (c : Cells w) (a n : Nat) : Cells w :=
  c.filter (fun e => decide (a ≤ e.1) && decide (e.1 < a + n))

/-- Clears the keys in [a, a + n): they read 0 afterwards. -/
def cellsClear {w : Nat} (c : Cells w) (a n : Nat) : Cells w :=
  c.filter (fun e => !(decide (a ≤ e.1) && decide (e.1 < a + n)))

/-- The entries of a range with their keys moved by b - a: a copy of [a, a + n) as it would stand at b. -/
def cellsShift {w : Nat} (c : Cells w) (a n b : Nat) : Cells w :=
  (cellsRange c a n).map (fun e => (e.1 - a + b, e.2))

/-- Replaces the keys in [b, b + n) by a copy of [a, a + n) of another store. -/
def cellsCopy {w : Nat} (dst : Cells w) (b : Nat) (src : Cells w) (a n : Nat) : Cells w :=
  cellsWriteAll (cellsClear dst b n) (cellsShift src a n b)

/-- The values at a, a + 1, …, n of them, in one pass over the store. -/
def cellsSpan {w : Nat} : Cells w → Nat → Nat → List (BitVec w)
  | [], _, n => List.replicate n 0
  | (k, v) :: r, a, n =>
    if k < a then cellsSpan r a n
    else if a + n ≤ k then List.replicate n 0
    else List.replicate (k - a) 0 ++ v :: cellsSpan r (k + 1) (a + n - (k + 1))
/-- Values from a on as entries. -/
def cellsList {w : Nat} : Nat → List (BitVec w) → Cells w
  | _, [] => []
  | a, x :: r => if x = 0 then cellsList (a + 1) r else (a, x) :: cellsList (a + 1) r
/-- Puts values at a, a + 1, … in place of what stood there. -/
def cellsFill {w : Nat} (c : Cells w) (a : Nat) (xs : List (BitVec w)) : Cells w :=
  c.filter (fun e => decide (e.1 < a)) ++ cellsList a xs ++ c.filter (fun e => decide (a + xs.length ≤ e.1))

/-- The bytes at a, a + 1, … as one little-endian number (00 R9). -/
def cellsReadLE (c : Cells 8) (a : Nat) : Nat → Nat
  | 0 => 0
  | n + 1 => (cellsRead c a).toNat + 256 * cellsReadLE c (a + 1) n

/-- The n low bytes of x at a, a + 1, …, little-endian (00 R9). -/
def cellsWriteLE (c : Cells 8) (a x : Nat) : Nat → Cells 8
  | 0 => c
  | n + 1 => cellsWriteLE (cellsWrite c a (BitVec.ofNat 8 x)) (a + 1) (x / 256) n

end Sys2Proof.Machine
end

