-- ==== Sys2Proof/Machine/State.lean ====
section
/-! DEFINITION. The state of the machine as plain data, its faults and refusals, and the state right after reset. The
docstrings name the rule of spec/ that gives a field; INVENTORY.md lists them all with their reset values. -/

namespace Sys2Proof.Machine

/-! ### Ways a step can stop -/

/-- The faults of the model. -/
inductive Fault
  /-- Raised where the device itself (a save image, a fault log, a table walk's base, a weight-store copy) is sent by a
  firmware register to a physical address that does not exist (16 R382). Safe: the spec gives such an access no effect. -/
  | noSuchAddress (addr : Nat)
deriving DecidableEq, Repr

/-- The refusals of the model. -/
inductive Refusal
  /-- Raised by Dispatch for an instruction that has no meaning yet. Safe. -/
  | notModelled (mnemonic : String)
deriving DecidableEq, Repr

/-! ### Traps (15 R363) -/

/-- The causes 0x01 to 0x18 of 15 R363, in order. -/
inductive Cause
  | illegal | privilege | regBounds | misTarget | illConvergence | stackOverflow | regAllotment | emissionOverrun
  | recordAccess | engineCounter | barrierState | matrixDivergence | engineError | software | breakpoint
  | translation | misaligned | localBounds | privateBounds | weightBounds | gated | hostAtomic | softError | quota
deriving DecidableEq, Repr

/-- The four deliveries of 15 R363. -/
inductive Deliv
  | issue | flag | boundary | completion
deriving DecidableEq, Repr

/-- A trap as header words 0 to 3 and 15 of the frame show it (15 R367); slot 3 stands for none. -/
structure TrapInfo where
  cause : Cause
  code : BitVec 12
  deliv : Deliv
  slot : BitVec 2
  fkind : BitVec 3
  flane : BitVec 5
  faddr : DWord
  tpc : Pc
  resume : Pc
  iter : BitVec 8
  res : Word
deriving DecidableEq, Repr

/-- The fault of an outstanding operation: cause, FKIND, first faulting lane and address (09 R258). -/
structure OpFault where
  cause : Cause
  fkind : BitVec 3
  lane : BitVec 5
  addr : DWord
deriving DecidableEq, Repr

/-! ### Paths and waves (01) -/

/-- A path (01 R27). -/
structure Path where
  pc : Pc
  mask : Mask
  fmt : BitVec 14
  jpc : Pc
  jv : Bool
deriving DecidableEq, Repr

/-- What a PARKED slot waits for (01 R57). -/
inductive WaitFor
  /-- WAITADDR (09 R270): its address, the clock of its timeout, whether a wake event has come, and the clock of the
  last read in master clocks. -/
  | addr (o : WaitAddr) (a : DWord) (expect : DWord) (deadline : Nat) (woken : Bool) (lastRead : Nat)
  /-- WAITC (09 R276). -/
  | counter (cls : CntClass) (cnt : BitVec 8)
  /-- YIELD, with its continuation (09 R276). -/
  | copyYield (cnt : BitVec 8) (cont : Pc)
  /-- BAR.WAIT or BAR.SYNC (09 R277); done is set when the awaited phase has completed. -/
  | barrier (b : Bar) (done : Bool)
  /-- REGROUP (01 R38). -/
  | regroup
deriving DecidableEq, Repr

/-- A PC slot (01 R43); READY and WAITING are told apart by whether the next bundle can issue. -/
inductive SlotState
  | empty
  | ready (p : Path)
  | held (p : Path)
  | parked (p : Path) (w : WaitFor)
deriving DecidableEq, Repr

/-- An entry of the branch spill stack (01 R34). -/
structure StackEntry where
  isJoin : Bool
  pc : Pc
  mask : Mask
  arrv : Mask
  fmt : BitVec 14
  jpc : Pc
  jv : Bool
deriving DecidableEq, Repr

/-- One register result of an operation: a vector register of one lane, a scalar register, a predicate of one lane, or
flags of FPX. -/
inductive Wr
  | v (n lane : Nat) (x : Word)
  | s (n : Nat) (x : Word)
  | p (n lane : Nat) (b : Bool)
  | fpx (f : BitVec 6)
deriving DecidableEq, Repr

/-- An operation that has issued and not completed: its captured encoding, lane set and source values (15 R370). -/
structure PendOp where
  seq : Nat
  /-- The instruction as its slot encodes it, ix as it issued, and the instruction with ix in its register numbers. -/
  raw : Instr
  ix : BitVec 8
  instr : Instr
  pc : Pc
  slotn : BitVec 2
  /-- The set L of 01 R49. -/
  lanes : Mask
  /-- The issuing path's MASK. -/
  mask : Mask
  fmt : BitVec 14
  /-- The flags that set fields name, 07 R203. -/
  flags : List (BitVec 4)
  /-- SVAL: scalar source values in the order A, B, C. -/
  svals : List Word
  /-- The operand block: per-lane source values in the order A, B, C; 32 lists. -/
  vals : List (List Word)
  /-- TLANE of each lane, and the helper lanes, as it issued (01 R41, 03 R101, 06 R199). -/
  tlane : Cells 10
  helper : Mask
  /-- An atomic whose lanes are being performed, and the lanes still to come, with their places (09 R256 R264). -/
  begun : Bool
  todo : List (Nat × Bool × Nat)
  /-- Performed: its memory effect is made and its results are fixed. -/
  performed : Bool
  results : List Wr
  fault : Option OpFault
  /-- A WRSR FPX issued later has replaced the flags it raises (08 R253). -/
  noFpx : Bool
  /-- Lanes a NEVAL still waits for (05 R171). -/
  left : Mask
  /-- Issued by RPLAY: it writes the trapped path's registers (15 R371). Of an entry of the replay queue: RPLAY has issued it. -/
  replayed : Bool
deriving DecidableEq, Repr

/-- A charge window still open: its tokens and the clock it ends (01 R49). -/
structure Window where
  tokens : Nat
  ends : Nat
deriving DecidableEq, Repr

/-- A lane's place in an ordered section (06 R187). -/
structure LatchLane where
  lane : BitVec 5
  run : Nat
  node : BitVec 8
  pos : Nat
  px : BitVec 17
  py : BitVec 17
  samples : BitVec 4
  perSample : Bool
  entered : Bool
  released : Bool
deriving DecidableEq, Repr

/-- A reserved granule: the memory it lies in and its 64-byte line (09 R266). -/
structure Granule where
  host : Bool
  line : Nat
deriving DecidableEq, Repr

/-- States of a wave (01 R44). -/
inductive WaveStatus
  | running | trapped | swapped | saved | retired | exited
deriving DecidableEq, Repr

/-- A wave (01 R15). -/
structure Wave where
  id : Nat
  team : Nat
  num : BitVec 5
  core : CoreNum
  part : PartNum
  wslot : BitVec 4
  status : WaveStatus
  /-- v0 to v255: register n of lane l at key 32n + l. -/
  vr : Cells 32
  /-- s0 to s63. -/
  sr : Cells 32
  /-- p0 to p7 as 32-bit masks. -/
  pr : Cells 32
  ix : BitVec 8
  slotA : SlotState
  slotB : SlotState
  cur : PcSlot
  fair : BitVec 7
  /-- The branch spill stack, top first (01 R33). -/
  stack : List StackEntry
  /-- f0 to f11 in the coding of 08 R252: 0 CLEAR, 1 PENDING, 2 FAULTED. -/
  flags : Cells 2
  cntCopy : BitVec 8
  cntMatrix : BitVec 8
  cntNet : BitVec 8
  cntTest : BitVec 8
  /-- WALLOT (01 R22). -/
  allot : BitVec 9
  /-- TLANE of each lane (01 R16). -/
  tlane : Cells 10
  /-- Record index plus 1 of each lane; 0: none (10 R293). -/
  recix : Cells 6
  /-- Positions that have held a lane since placement or REGROUP (08 R240). -/
  everLive : Mask
  fpx : BitVec 6
  quad : BitVec 20
  nerr : Mask
  helper : Mask
  tsbase : BitVec 16
  /-- On-chip traversal entries: entry i of lane l at key 32i + l (06 R194). -/
  tstk : Cells 32
  tdepth : Cells 16
  resv : List (BitVec 5 × Granule)
  /-- Parity of the awaited phase, arrived and pending bits of nb0 to nb15 (03 R124). -/
  awaited : BitVec 16
  arrived : BitVec 16
  pendingBit : BitVec 16
  /-- Matrix parts issued since launch or REGROUP (05 R148). -/
  mparts : Word
  spin : Word
  backMark : Bool
  age : Nat
  opSeq : Nat
  pend : List PendOp
  sq : List PendOp
  tests : List PendOp
  nets : List PendOp
  bfaults : List TrapInfo
  /-- Boundary faults of the trapped path's counter-class operations: they wait until the handler is left (15 R363 R366). -/
  laterFaults : List TrapInfo
  latch : List LatchLane
  lastIssue : Nat
  yieldUntil : Nat
  /-- The cluster clock since which the wave has been a candidate, and since which its current slot has been READY at a
  priced bundle whose price the stop cannot grant (01 R50). -/
  candSince : Option Nat
  dearSince : Option Nat
  starving : Bool
  /-- Tokens that a HELD bundle of slot A, and of slot B, holds until it issues (02 R95). -/
  heldA : Nat
  heldB : Nat
  /-- The sizes that an RGROW in slot A, and in slot B, waits for (01 R24); 0: none. The larger request stands. -/
  growA : BitVec 9
  growB : BitVec 9
  frame : Option (BitVec 12)
  frameWait : Option TrapInfo
  /-- The operations taken into the frame's replay queue, for the faults of entries left FAULTED (15 R371). -/
  replayOps : List PendOp
  /-- The number of the first operation issued in the handler. -/
  trapSeq : Nat
  /-- What the parked paths of a frame wait for (15 R368). -/
  saveA : Option WaitFor
  saveB : Option WaitFor
  /-- A parity error has already made the wave's next bundle issue again (18 R428). -/
  parityRetry : Bool
deriving DecidableEq, Repr

/-! ### Matrix engines (05) -/

/-- A row of a gather: the wave, its NEVAL and the lane, and the current activations (05 R168 R170). -/
structure GatherRow where
  wave : Nat
  op : Nat
  lane : BitVec 5
  x : List (BitVec 16)
deriving DecidableEq, Repr

/-- A gather in its slot (05 R168). -/
structure Gather where
  idx : BitVec 5
  ctx : CtxNum
  handle : BitVec 16
  rows : List GatherRow
  opened : Nat
  closed : Bool
deriving DecidableEq, Repr

/-- Whose work an entry holds: a team's operation with its sequence number, a network tile, which is a gather that has left
its slot (05 R169), or the job of a MATRIX node's team (05 R431). -/
inductive EntryKind
  | quad (team seq : Nat)
  | net (tile : Gather)
  | job (team : Nat)
deriving DecidableEq, Repr

/-- States of a reservation entry (05 R152); an entry that is DONE retires in the step that makes it so, and is gone. -/
inductive EntryState
  | gathering | ready | running
deriving DecidableEq, Repr

/-- One part of a quad operation: its wave, and the B operand and B scales copied at issue (05 R149). -/
structure QuadPart where
  wave : Nat
  seq : Nat
  pc : Pc
  b : List (List Word)
  scales : List (List Word)
deriving DecidableEq, Repr

/-- What of the loop record of 05 R160 changes while a loop runs; its other fields are the entry's instruction and scalar
values, GROW and PHASE follow from these. -/
structure LoopRec where
  iter : Nat
  res : Word
  rprev : Word
  /-- Product passes started of the iteration under way (MPOLY: of the whole polynomial; a network tile: layers done). -/
  product : Nat
deriving DecidableEq, Repr

/-- An entry of the reservation table (05 R152). -/
structure Entry where
  idx : BitVec 4
  kind : EntryKind
  state : EntryState
  instr : Instr
  svals : List Word
  fmt : BitVec 14
  coeffs : List Word
  parts : List QuadPart
  quad : BitVec 20
  /-- Cluster clock at which the first part arrived, or the gather window opened. -/
  age : Nat
  order : Nat
  /-- Waits for the arbiter since this clock. -/
  eligibleSince : Option Nat
  starving : Bool
  /-- Granted, and waits for its 64 tokens since this clock (05 R155). -/
  waitTokens : Option Nat
  tokenStarving : Bool
  tokens : Nat
  loop : LoopRec
  softError : Bool
deriving DecidableEq, Repr

/-- A matrix engine: reservation table and gather slots. -/
structure Engine where
  entries : List Entry
  gathers : List Gather
  nextOrder : Nat
deriving DecidableEq, Repr

/-! ### Teams, copies and records (01, 02, 09) -/

/-- A record in a queue, in transit, or in the batch of a team: its hidden tag and its bytes (02 R70). -/
structure Rec where
  run : Nat
  node : BitVec 8
  stk : StackNum
  /-- The stack whose queue store or spill slot it holds; stk is the part of the queue it stands in. -/
  slot : StackNum
  tag : DWord
  bytes : List Byte
  /-- The edge it was appended along, none where the command core injected it. -/
  edge : Option Nat
  /-- In a spill slot; otherwise in a queue-store slot (02 R80). -/
  spilled : Bool
  /-- Master clock at which it entered this queue. -/
  since : Nat
  /-- On the hinge link towards the other stack (02 R91). -/
  transit : Bool
  /-- Place in latch order of a quad record (06 R181). -/
  latch : Nat
deriving DecidableEq, Repr

/-- Reserved output slots of one port (02 R79 R80). -/
structure PortRsv where
  store : Nat
  spill : Nat
  cycle : Nat
  app : Nat
deriving DecidableEq, Repr

/-- An entry of the copy ring with its progress (09 R271 R273). -/
structure CopyOp where
  seq : Nat
  wave : Nat
  pc : Pc
  entry : BitVec 256
  /-- 16-byte units passed, in transfer order. -/
  units : Nat
  /-- Arrivals made or passed over. -/
  arrivals : Nat
  /-- The phase of the last arrival must complete before the next chunk. -/
  waitPhase : Bool
  code : BitVec 4
  /-- A unit has failed: it and every later unit are not written (09 R274). -/
  stopped : Bool
  /-- Units written before the first failing one, and its FKIND and address. -/
  errUnits : Nat
  errFkind : BitVec 3
  errAddr : DWord
  /-- Every arrival has been made, and the status word is written. -/
  finished : Bool
  statusDone : Bool
deriving DecidableEq, Repr

/-- A payload in a ring slot (02 R95). -/
structure Payload where
  slot : BitVec 2
  bytes : List Byte
  tag : DWord
  /-- Master clock of its emit. -/
  since : Nat
  team : Option Nat
deriving DecidableEq, Repr

/-- The hit a walk keeps: its exact distance (-1)^neg x num / den x 2^e, T, U, V and TRI, its side, and the triangle's
address (06 R190 R193). -/
structure RayHit where
  neg : Bool
  num : Nat
  den : Nat
  e : Int
  out : List Word
  front : Bool
  addr : Nat
deriving DecidableEq, Repr

/-- One ray of the vendor traversal shader under way (06 R190): the child words still to visit, top first, and KIND once
the walk has ended. -/
structure RayState where
  recIx : Nat
  todo : List Word
  best : Option RayHit
  kind : Option (BitVec 2)
deriving DecidableEq, Repr

/-- Resources set aside for the one mesh team of a ring: window and copy ring, and the places of its waves with their
granules (02 R95). -/
structure MeshRoom where
  winBase : Nat
  winSize : Nat
  copyBase : Nat
  granules : Nat
  bars : Nat
  places : List (CoreNum × PartNum × BitVec 4)
deriving DecidableEq, Repr

/-- A task-to-mesh ring of a task team (02 R95): its port, its base in the pair's local store, its slot bytes, the room set
aside for one mesh team (none when a mesh team has it), and the payloads in emit order. -/
structure Ring where
  port : BitVec 3
  base : Nat
  slotBytes : Nat
  room : Option MeshRoom
  pays : List Payload
deriving DecidableEq, Repr

/-- A saved or rotated team: the place and the size of its record in the save image or the rotation area, and what its engine
entries hold beside the bytes of the record, in table order (05 R161, 15 R377). -/
structure TeamSave where
  place : Nat
  size : Nat
  entries : List Entry
deriving DecidableEq, Repr

/-- The job of a MATRIX node's team under way (05 R433): the tiles of D still to write, row by row, the first of them at work;
the passes it has made; its accumulators (i, j) at key 64i + j; and the bytes of A, B and C that lie in D, as they were when the
job began. -/
structure JobState where
  left : List Nat
  pass : Nat
  acc : Cells 32
  old : List (Bool × Nat × Byte)
deriving DecidableEq, Repr

/-- The writes of a coefficient register in one cluster clock: the lowest wave number that wrote it, and its value before the
clock (08 R253). -/
structure CoefWrite where
  ix : Nat
  clk : Nat
  num : BitVec 5
  old : Word
deriving DecidableEq, Repr

/-- States of a team (01 R45). -/
inductive TeamStatus
  | queued | running | swapped | saved | done | faulted
deriving DecidableEq, Repr

/-- A team (01 R15 R18). -/
structure Team where
  id : Nat
  run : Nat
  node : BitVec 8
  ctx : CtxNum
  stk : StackNum
  status : TeamStatus
  pair : Bool
  /-- A wave of a vendor node program (15 R365). -/
  vendor : Bool
  nwaves : Nat
  /-- The core of a CORE team, the even core of a PAIR team. -/
  core : CoreNum
  /-- Window base and size in the pair's local store, and the copy ring's base. -/
  winBase : Nat
  winSize : Nat
  copyBase : Nat
  /-- PBASE (03 R101). -/
  pbase : Nat
  /-- Lanes of the team at launch, NL of 03 R101. -/
  nl : Nat
  tiles : Nat
  /-- The engine's blocks of 8 tiles and 8 KiB of side memory that the team holds, in the order of its own names (05 R145). -/
  tblocks : List Nat
  launch : Word
  teamIdx : Word
  batch : List Rec
  recsHeld : Bool
  /-- Depth of records the team emits (02 R72): the largest of its batch. -/
  depth : BitVec 8
  nbars : Nat
  barExpect : Cells 8
  barCount : Cells 8
  barPhase : BitVec 16
  /-- k0 to k15 (05 R156). -/
  kregs : Cells 32
  /-- The latest writes of the coefficients. -/
  kwrites : List CoefWrite
  copies : List CopyOp
  /-- Head of the copy ring: its entries stand from here on, in order (09 R273, 15 R377). -/
  copyHead : BitVec 6
  rsv : List PortRsv
  tdone : Bool
  rings : List Ring
  /-- The task team of a mesh team, and the port of its ring. -/
  task : Option (Nat × BitVec 3)
  faultedMark : Bool
  placedAt : Nat
  rays : List RayState
  job : Option JobState
  /-- Pre-emption or rotation has stopped the team, and its record is not yet written (01 R44, 15 R376). -/
  stopping : Bool
  saved : Option TeamSave
deriving DecidableEq, Repr

/-! ### Contexts and graph runs (02, 15) -/

/-- States of a context slot (15 R355). -/
inductive CtxState
  | free | idle | live | saved | resetting
deriving DecidableEq, Repr

/-- Counts a context keeps on one stack: sequence counter, used counts, quotas in force (02 R71, 15 R358). -/
structure CtxStack where
  seq : BitVec 48
  usedIssue : Nat
  usedNet : Nat
  issueQ : Word
  netQ : Word
  lastRotation : Nat
  quotaFaulted : Bool
deriving DecidableEq, Repr

/-- A context slot and its register block (15 R355 R356). -/
structure Ctx where
  state : CtxState
  iqmode : Bool
  bpten : Bool
  ptroot : DWord
  psize : BitVec 17
  wbase : DWord
  wsize : BitVec 29
  spillbase : DWord
  spillq : Word
  recq : Word
  memq : Word
  /-- Bytes that MAP packets have mapped and UNMAP packets have not removed; MEMUSED counts them in units of 64 KiB
  (15 R356 R357, notes/assumptions/44.md). -/
  membytes : Nat
  issueq : Word
  netq : Word
  handler : Pc
  tfbase : DWord
  tfcount : BitVec 12
  savebase : DWord
  rotbase : DWord
  flbase : DWord
  fltail : BitVec 16
  flhead : BitVec 16
  flcount : BitVec 16
  errrec : Word
  droprec : Word
  copyerr : Word
  loglost : Word
  flSeq : Nat
  frames : List (BitVec 12)
  savedFrom : CtxState
  /-- A pre-emption has stopped the context and its image is not complete (15 R376). -/
  saving : Bool
  /-- A restore is under way and not every team has been placed (15 R379). -/
  restoring : Bool
  s0 : CtxStack
  s1 : CtxStack
deriving DecidableEq, Repr

/-- A node-table entry (02 R62). -/
structure Node where
  kind : BitVec 3
  prio : BitVec 5
  pair : Bool
  outs : Nat
  rsize : Nat
  twaves : Nat
  trec : Nat
  regs : Nat
  lstore : Nat
  bars : Nat
  quad : BitVec 20
  fmt : BitVec 14
  gtime : Nat
  qcap : Nat
  const : DWord
  emitmax : List Nat
  sig : DWord
  entry : Pc
deriving DecidableEq, Repr

/-- An edge-table entry (02 R64). -/
structure Edge where
  src : Nat
  port : Nat
  dst : Nat
  depth : Nat
  cyc : Bool
  back : Bool
  ring : Bool
  slotKb : Nat
deriving DecidableEq, Repr

/-- The rasteriser at work on a flush: tile, primitives left of it, and whether it is the final one (06 R181). -/
structure Flush where
  final : Bool
  tile : Nat
  prims : List Nat
deriving DecidableEq, Repr

/-- The binner and rasteriser of one RASTER node (06 R175 to R181, R435). -/
structure Raster where
  node : BitVec 8
  block : BitVec 512
  flushSeq : Nat
  emitted : Nat
  flush : Option Flush
  stopped : Bool
  finalDone : Bool
  /-- The hidden tag of the primitive that called the flush under way, and is decided once more after it (06 R179). -/
  called : Option DWord
deriving DecidableEq, Repr

/-- A steal in flight: the stealing stack holds a placement and a reservation (02 R91). -/
structure Steal where
  stk : StackNum
  node : BitVec 8
  team : Nat
  served : Bool
deriving DecidableEq, Repr

/-- What is left of a cycle reserve (02 R87). -/
structure CycleReserve where
  stk : StackNum
  edge : Nat
  left : Nat
deriving DecidableEq, Repr

/-- A GRID record being walked: the record, and the next team index (02 R67). -/
structure GridWalk where
  stk : StackNum
  node : BitVec 8
  record : Rec
  launch : Word
  next : Nat
  ended : Nat
  /-- A team of the grid ended FAULTED. -/
  bad : Bool
deriving DecidableEq, Repr

/-- A graph run (02). -/
structure Run where
  id : Nat
  ctx : CtxNum
  nodes : List Node
  edges : List Edge
  sig : DWord
  lazy : Bool
  faulted : Bool
  cores : List CoreNum
  rasters : List Raster
  steals : List Steal
  reserves : List CycleReserve
  grids : List GridWalk
deriving DecidableEq, Repr

/-! ### Caches (03) -/

/-- A byte of a column cache: valid, dirty, private, and its value (03 R107 R116). -/
abbrev CacheByte := BitVec 11

/-- A column-cache line: its number, physical address / 128, its context and retention class (03 R108, 15 R380). -/
structure CacheLine where
  core : CoreNum
  host : Bool
  line : BitVec 45
  ctx : CtxNum
  cls : BitVec 2
deriving DecidableEq, Repr

/-- A block of L2 in its slice: 128 bytes of GDDR 7, and its retention class (03 R108 R109, notes/assumptions/11.md). -/
structure L2Block where
  block : Nat
  cls : BitVec 2
deriving DecidableEq, Repr

/-- Sixteen bytes in the constant cache of a core pair (03 R103). -/
structure ConstSector where
  pair : Nat
  host : Bool
  sector : Nat
  bytes : List Byte
deriving DecidableEq, Repr

/-- The 32 bytes of a bundle in the instruction cache of a core pair (00 R2). -/
structure CodeLine where
  pair : Nat
  host : Bool
  line : Nat
  bytes : List Byte
deriving DecidableEq, Repr

/-- A leaf of the page tables: the addresses it maps, the place of the first, and what it permits (15 R359 R360). -/
structure PageLeaf where
  base : Nat
  size : Nat
  host : Bool
  addr : Nat
  w : Bool
  x : Bool
deriving DecidableEq, Repr
/-- The TLB of a core, or of a cluster (15 R361). -/
inductive TlbUnit
  | core (c : CoreNum)
  | cluster (k : ClusterNum)
deriving DecidableEq, Repr
/-- A TLB entry, tagged with its context (15 R361). -/
structure TlbEntry where
  unit : TlbUnit
  ctx : CtxNum
  leaf : PageLeaf
deriving DecidableEq, Repr

/-- What a release tag stands on: a 64-byte line of GDDR 7, or the slot of an appended record, named by the record's tag
(03 R117 R118). -/
inductive TagPlace
  | line (n : Nat)
  | record (tag : DWord)
deriving DecidableEq, Repr
/-- A release-tag entry (03 R117): the releasing core, its epoch, its place, and the bytes it covers. -/
structure Tag where
  core : CoreNum
  ctx : CtxNum
  epoch : Nat
  place : TagPlace
  covers : List (Bool × Nat)
deriving DecidableEq, Repr

/-! ### Command core and host interface (16) -/

/-- States of a hardware queue (16 R385). -/
inductive QState
  | idle | running | waiting | error
deriving DecidableEq, Repr

/-- A WAIT under way: its address, condition, destination and second source register and IMM, the clock of the first read,
a write to the line since the last read, and the clock of the last read. -/
structure QWait where
  addr : DWord
  cc : QCond
  d : QReg
  b : QReg
  us : Word
  first : Nat
  woken : Bool
  last : Nat
deriving DecidableEq, Repr

/-- A COPY under way: its block and the units done (16 R394). -/
structure QCopy where
  block : BitVec 256
  units : Nat
deriving DecidableEq, Repr

/-- A hardware queue (16 R385 R388). -/
structure Queue where
  ctx : CtxNum
  state : QState
  bound : Bool
  en : Bool
  qbase : DWord
  qsize : BitVec 5
  pc : BitVec 24
  qwr : BitVec 24
  qfree : BitVec 24
  qerrpc : Word
  qerr : BitVec 8
  regs : Cells 64
  rstack : List (BitVec 24)
  wait : Option QWait
  copy : Option QCopy
  /-- A pre-emption has stopped the queue at an instruction boundary (16 R398). -/
  paused : Bool
  /-- HALT waits for the COPY under way (16 R385). -/
  halting : Bool
  executed : DWord
deriving DecidableEq, Repr

/-- The mailbox: buffers, status, the doorbell of the packet firmware holds, a packet that must still be answered (its TYPE,
context and SEQ), and the range whose old translations the TLBs must drop first (16 R396 R398, 15 R361). -/
structure Mailbox where
  req : Cells 8
  resp : Cells 8
  busy : Bool
  done : Bool
  door : Option (BitVec 13)
  owed : Option (BitVec 16 × CtxNum × BitVec 16)
  stale : Option (Nat × Nat)
deriving DecidableEq, Repr

/-! ### Power (17) -/

/-- Whom a stop serves while it is starving for tokens: a wave, or the engine's pass (01 R52, 05 R155). -/
inductive Served
  | wave (id : Nat)
  | engine
deriving DecidableEq, Repr

/-- A cluster: clock, patterns, charge, ring stop (17 R405 R406, 01 R51 R52). -/
structure Cluster where
  clk : Nat
  pattern : BitVec 16
  pending : Option (BitVec 16)
  acc : Word
  charge : Word
  /-- The microsecond boundary at which CHARGE was last latched. -/
  latched : Nat
  captures : DWord
  pool : Nat
  /-- The starving wave the stop serves and the tokens it holds for it (01 R52). -/
  serving : Option Served
  servedTokens : Nat
  /-- Tokens held by engine passes. -/
  passTokens : Nat
  /-- Charge windows of issued bundles that are still open (01 R49). -/
  windows : List Window
  /-- Sparse or no bundle by each of the 32 partitions in the previous clock (01 R48). -/
  sparse : BitVec 32
  issuedNow : BitVec 32
  sparseNow : BitVec 32
  /-- Taken out of placement for a test or for good (18 R424). -/
  draining : Bool
  drainFrom : Nat
deriving DecidableEq, Repr

/-- A stack: clocks, ring, voltage, sensors, scheduler counters (17, 10 R307, 16 R399). -/
structure Stack where
  mclk : Nat
  refresh : Nat
  ringP : Nat
  free : Nat
  pop : BitVec 14
  tpop : BitVec 14
  target : Nat
  /-- Clock of the base-die stop's last insertion. -/
  insertedAt : Option Nat
  throttled : Bool
  advised : Bool
  flag : Bool
  supply : Nat
  canary : Nat
  lastStep : Nat
  lastWarn : Nat
  sensors : List (BitVec 16)
  advise : BitVec 16
  throttle : BitVec 16
  advises : DWord
  throttles : DWord
  throttledUs : DWord
  canarySteps : DWord
  stepDowns : DWord
  launches : DWord
  appended : DWord
  spilledCount : DWord
  refused : DWord
  launchId : BitVec 31
  interval : Nat
  rotatedAt : Option Nat
deriving DecidableEq, Repr

/-! ### Starting and service (18) -/

/-- MODE of FWSTAT (18 R419); off: power has been removed. -/
inductive Mode
  | starting | ready | recovery | off
deriving DecidableEq, Repr

/-- The signed configuration record (18 R415): whether it passed the checks of the last start, and what it holds. -/
structure BoardRecord where
  valid : Bool
  enmap0 : DWord
  enmap1 : DWord
  serial : DWord
  boardRev : Word
  vneed : List Nat
  shutdown : BitVec 16
  pop0 : BitVec 14
  pop1 : BitVec 14
  tpop0 : BitVec 14
  tpop1 : BitVec 14
  pattern : BitVec 16
  keyHash : BitVec 256
  /-- The PUF public keys of stack 0 and of stack 1, x then y. -/
  idKey : BitVec 512
  idKey1 : BitVec 512
  /-- The thresholds of the 32 RAS counters, and of a bond lane's CRC errors (18 R424 R429). -/
  thresholds : List Nat
  laneLimit : Nat
  /-- The signed bytes, and the vendor's signature over them. -/
  bytes : List Byte
  signature : BitVec 512
deriving DecidableEq, Repr

/-- A firmware slot of the board flash (18 R421): the verified image, or none. -/
structure FwSlot where
  version : Word
  image : List Byte
deriving DecidableEq, Repr

/-- Board flash and the boot state (18 R415 R419 R420 R421). -/
structure Boot where
  record : BoardRecord
  /-- The vendor root key in the boot ROM of stack 0. -/
  rootKey : BitVec 512
  /-- The private keys that the PUF of stack 0 and of stack 1 give at each start. -/
  puf0 : BitVec 256
  puf1 : BitVec 256
  slotA : Option FwSlot
  slotB : Option FwSlot
  next : Bool
  run : Bool
  fails : BitVec 3
  mode : Mode
  warm : Bool
  /-- A live switch under way: the queues still to move, whether the packet is FWROLLBACK, and its SEQ (18 R422). -/
  live : Option (List QueueNum × Bool × BitVec 16)
  /-- Sensor readings saved with the retained state (18 R417). -/
  savedSensors : List (BitVec 16)
  /-- The next start enters recovery mode (18 R420). -/
  recoveryNext : Bool
  /-- Master clock at which the device began to start (18 R416). -/
  startedAt : Nat
deriving DecidableEq, Repr

/-- A repair of a vertical bus group under way (18 R429): the group, the clock of its start, and whether it has been abandoned
and waits to be tried again since that clock. -/
structure Repair where
  unit : SvcUnit
  start : Nat
  waiting : Bool
deriving DecidableEq, Repr

/-- Service: requests, retired units, RAS counters, attestation (18 R418 R423 R425 R428). -/
structure Service where
  req : Option (SvcUnit × BitVec 4)
  result : BitVec 8
  retClusters : Word
  retChannels : BitVec 16
  retBanks : Word
  retSlices : BitVec 128
  retCanary : Word
  /-- RAS words: stack s, word w at key 16s + w. -/
  ras : Cells 64
  nonce : BitVec 256
  attBusy : Bool
  attSnap : BitVec 256
  attrep : Cells 8
  hingeSpares : Cells 8
  vertSpares : Cells 8
  /-- CRC errors of bond lanes: lane l of hinge module m at key 128m + l, of group g of stack k at 128(8 + 64k + g) + l (18 R429). -/
  laneErrors : Cells 32
  repairs : List Repair
  /-- Boundary of a channel migration (18 R426). -/
  migration : Option Nat
  installed : Nat
  gatedPairs : List Nat
  gatedSlices : List (BitVec 7)
  gatedBanks : List (BitVec 5)
deriving DecidableEq, Repr

/-! ### The issue stage and the agenda -/

/-- The bundle at the issue stage: the wave, the slot and PC it issues from, the pipe of the instruction executed next,
the set fields, the queue of a Keyway lane, and the wave's state as every slot reads it (07 R205, 00 R13). -/
structure Issue where
  wave : Nat
  pcSlot : PcSlot
  pc : Pc
  pipe : BitVec 2
  sets : List (BitVec 2 × BitVec 4)
  queue : QueueNum
  src : Option Wave
  /-- Flags of FPX that slots of the bundle have raised (08 R253). -/
  raised : BitVec 6
deriving DecidableEq, Repr

/-- What firmware may power off (03 R106). -/
inductive Gate
  | pair (n : Nat)
  | slice (n : BitVec 7)
  | bank (n : BitVec 5)
deriving DecidableEq, Repr

/-- One choice of what the machine does next (notes/assumptions/5.md). -/
inductive Move
  /-- A partition selects a wave and issues its bundle (01 R46 R47). -/
  | issue (core : CoreNum) (part : PartNum)
  /-- A HELD slot whose condition has cleared completes its issue (01 R43). -/
  | complete (wave : Nat) (slot : PcSlot)
  /-- One step of the command core (16 R387). -/
  | command
  /-- Firmware handles the packet in the request buffer (16 R396). -/
  | firmware
  /-- A device event at an agent, or a host write. -/
  | act (who : Agent) (i : Instr)
  /-- A column cache evicts a line (03 R107 R114). -/
  | evict (core : CoreNum) (host : Bool) (line : BitVec 45)
  /-- A flagged operation is performed now; its results are written later (03 R112). -/
  | perform (wave seq : Nat)
  /-- The next lane of an atomic is performed (09 R256 R264). -/
  | performLane (wave seq : Nat)
  /-- One result of a performed operation reaches its register before its flag is CLEAR (07 R204). -/
  | deliver (wave seq ix : Nat)
  /-- A stop takes passing tokens into its pool (01 R51). -/
  | capture (cl : ClusterNum) (n : Nat)
  /-- The vendor traversal shader takes its next step for one ray (06 R190). -/
  | traverse (team : Nat) (lane : BitVec 5)
  /-- The host begins, or ceases, to complete AtomicOps (03 R115). -/
  | hostAtomics (on : Bool)
  /-- A translation enters the TLBs of a core and its cluster, or an entry leaves one (15 R361). -/
  | tlbFill (core : CoreNum) (ctx : CtxNum) (va : DWord)
  | tlbDrop (n : Nat)
  /-- A bundle's bytes enter the instruction cache of a core's pair, or leave one (00 R2). -/
  | codeFill (core : CoreNum) (host : Bool) (line : Nat)
  | codeDrop (n : Nat)
  /-- A sector leaves a constant cache (03 R103). -/
  | constDrop (n : Nat)
  /-- Firmware powers a unit off or on (03 R106). -/
  | gate (unit : Gate) (off : Bool)
  /-- A bond lane of a unit shows a CRC error (18 R429). -/
  | laneError (unit : SvcUnit) (lane : BitVec 7)
deriving DecidableEq, Repr

/-- The whole machine. -/
structure State where
  waves : List Wave
  teams : List Team
  runs : List Run
  recs : List Rec
  engines : List Engine
  ctxs : List Ctx
  /-- GDDR 7 at physical addresses (16 R382); an unlisted byte reads 0 (18 R416 step 5). -/
  mem : List Host.Cell
  /-- Host memory behind pages with HOST = 1 (15 R359). -/
  hostMem : List Host.Cell
  /-- The host completes the AtomicOps that it is sent (03 R115). -/
  hostAtomics : Bool
  /-- Local store: byte y of device-wide pair m at key 524288m + y (03 R99). -/
  lstore : Cells 8
  /-- Weight store of stack s: address w at key 402653184s + w (03 R104). -/
  wstore : Cells 8
  /-- Accumulator tiles: element (i, j) of tile t of engine e at key 4096(32e + t) + 64i + j (05 R145). -/
  tiles : Cells 32
  /-- Sparsity side memory: byte y of engine e at key 32768e + y (05 R145). -/
  side : Cells 8
  /-- Column-cache bytes: core c, memory h, physical address p at key ((2^52)(2c + h) + p) (03 R107). -/
  cc : Cells 11
  /-- The lines of the column caches, the least recently used first (03 R107 R108). -/
  ccLines : List CacheLine
  /-- The blocks of L2, the least recently used first (03 R108 R109). -/
  l2 : List L2Block
  /-- The constant caches, the oldest sector first (03 R103). -/
  consts : List ConstSector
  /-- The instruction caches (00 R2). -/
  codes : List CodeLine
  /-- The TLBs, the oldest entry first (15 R361). -/
  tlbs : List TlbEntry
  tags : List Tag
  epochs : Cells 64
  /-- Poisoned 16-byte sectors (18 R428). -/
  poison : List Nat
  scTicket : BitVec 48
  queues : List Queue
  unserved : List Nat
  irqstat : DWord
  irqmask : DWord
  /-- MSI-X vectors sent, latest first. -/
  msix : List (BitVec 6)
  mail : Mailbox
  /-- Hinge counters of 16 R399 in order. -/
  hinge : Cells 64
  clusters : List Cluster
  stks : List Stack
  thermtrip : Bool
  boot : Boot
  svc : Service
  iss : Issue
  /-- The agent of the event under way. -/
  who : Agent
  agenda : List Move
  /-- In this master clock no wave below this place may issue or trap any more: waves of one clock act in ascending core,
  partition and wave slot (10 R297, 15 R381). -/
  clockMark : Nat
  nextId : Nat
  freeCount : Nat
  fwPage : Nat
  /-- A physical address that does not exist, met by the step under way (noSuchAddress). -/
  badAddr : Option Nat
deriving DecidableEq, Repr

/-! ### Reset: READY after a cold start (18 R416; notes/assumptions/1.md) -/

def ctxStackReset : CtxStack :=
  { seq := 0, usedIssue := 0, usedNet := 0, issueQ := 0, netQ := 0, lastRotation := 0, quotaFaulted := false }

/-- A FREE context slot with its registers at their Reset values (15 R356); a dash in the Reset column is 0
(DESIGN CHOICE, notes/assumptions/3.md). -/
def ctxReset : Ctx :=
  { state := .free, iqmode := false, bpten := false, ptroot := 0, psize := 0, wbase := 0, wsize := 0, spillbase := 0,
    spillq := 0, recq := 0, memq := 0, membytes := 0, issueq := 0, netq := 0, handler := 0, tfbase := 0, tfcount := 0,
    savebase := 0, rotbase := 0, flbase := 0, fltail := 0, flhead := 0, flcount := 0, errrec := 0, droprec := 0,
    copyerr := 0, loglost := 0, flSeq := 0, frames := [], savedFrom := .idle, saving := false, restoring := false, s0 := ctxStackReset, s1 := ctxStackReset }

/-- A hardware queue at its Reset values (16 R385). -/
def queueReset : Queue :=
  { ctx := 0, state := .idle, bound := false, en := false, qbase := 0, qsize := 12, pc := 0, qwr := 0, qfree := 0,
    qerrpc := 0, qerr := 0, regs := [], rstack := [], wait := none, copy := none, paused := false, halting := false, executed := 0 }

def engineReset : Engine := { entries := [], gathers := [], nextOrder := 0 }

/-- The configuration record of the modelled board (DESIGN CHOICE, notes/assumptions/2.md). -/
def recordReset : BoardRecord :=
  { valid := true, enmap0 := 0xFFFFFFFFFFFFFFFF, enmap1 := 0xFFFFFFFFFFFFFFFF, serial := 0, boardRev := 0,
    vneed := [665, 680, 695, 710, 725, 740, 755, 770, 785, 800, 815, 830, 845, 860, 875, 890], shutdown := 920,
    pop0 := 16383, pop1 := 16383, tpop0 := 2176, tpop1 := 2176, pattern := 0xFFFF, keyHash := 0,
    idKey := 0x6B17D1F2E12C4247F8BCE6E563A440F277037D812DEB33A0F4A13945D898C2964FE342E2FE1A7F9B8EE7EB4A7C0F9E162BCE33576B315ECECBB6406837BF51F5,
    idKey1 := 0x7CF27B188D034F7E8A52380304B51AC3C08969E277F21B35A60B48FC4766997807775510DB8ED040293D9AC69F7430DBBA7DADE63CE982299E04B79D227873D1,
    thresholds := List.replicate 32 1, laneLimit := 1, bytes := [],
    signature := 0x51590B7A515140D2D784C85608668FDFEF8C82FD1F5BE52421554A0DC3D033EDF7F261561C2FF95006B542C223BA48270901BEFA8B31394193F3C4B5F1C8F403 }

def clusterReset : Cluster :=
  { clk := 0, pattern := 0xFFFF, pending := none, acc := 0, charge := 0, latched := 0, captures := 0, pool := 0, serving := none,
    servedTokens := 0, passTokens := 0, windows := [], sparse := 0xFFFFFFFF, issuedNow := 0, sparseNow := 0, draining := false,
    drainFrom := 0 }

def stackReset : Stack :=
  { mclk := 0, refresh := 0, ringP := 16383, free := 16383, pop := 16383, tpop := 2176, target := 16383, insertedAt := none,
    throttled := false, advised := false, flag := false, supply := 890, canary := 0, lastStep := 0, lastWarn := 0,
    sensors := List.replicate 36 0, advise := 760, throttle := 840, advises := 0, throttles := 0, throttledUs := 0,
    canarySteps := 0, stepDowns := 0, launches := 0, appended := 0, spilledCount := 0, refused := 0, launchId := 0,
    interval := 0, rotatedAt := none }

def bootReset : Boot :=
  { record := recordReset, puf0 := 1, puf1 := 2,
    rootKey := 0x5ECBE4D1A6330A44C8F7EF951D4BF165E6C6B721EFADA985FB41661BC6E7FD6C8734640C4998FF7E374B06CE1A64A2ECD82AB036384FB83D9A79B127A27D5032,
    slotA := some { version := 1, image := [] }, slotB := none, next := false, run := false,
    fails := 0, mode := .ready, warm := false, live := none, savedSensors := List.replicate 72 0,
    recoveryNext := false, startedAt := 0 }

def serviceReset : Service :=
  { req := none, result := 0, retClusters := 0, retChannels := 0, retBanks := 0, retSlices := 0, retCanary := 0,
    ras := [], nonce := 0, attBusy := false, attSnap := 0, attrep := [], hingeSpares := [], vertSpares := [], laneErrors := [],
    repairs := [], migration := none, installed := Config.gddrFull, gatedPairs := [], gatedSlices := [],
    gatedBanks := [] }

def issueReset : Issue :=
  { wave := 0, pcSlot := .a, pc := 0, pipe := 0, sets := [], queue := 0, src := none, raised := 0 }

def agentReset : Agent :=
  { wave := 0, seq := 0, slot := .a, core := 0, part := 0, cl := 0, idx := 0, stk := 0, ctx := 0, run := 0, node := 0,
    team := 0, count := 0 }

def mailReset : Mailbox :=
  { req := [], resp := [], busy := false, done := false, door := none, owed := none, stale := none }

/-- The machine right after reset: READY, every context slot FREE, every queue IDLE with EN = 0 (18 R416). -/
def State.reset : State :=
  { waves := [], teams := [], runs := [], recs := [], engines := List.replicate 32 engineReset,
    ctxs := List.replicate 64 ctxReset, mem := [], hostMem := [], hostAtomics := true, lstore := [], wstore := [], tiles := [], side := [],
    cc := [], ccLines := [], l2 := [], consts := [], codes := [], tlbs := [], tags := [], epochs := [], poison := [], scTicket := 0,
    queues := List.replicate 32 queueReset, unserved := List.replicate 6 0, irqstat := 0, irqmask := 0, msix := [],
    mail := mailReset, hinge := [], clusters := List.replicate 32 clusterReset, stks := List.replicate 2 stackReset,
    thermtrip := false, boot := bootReset, svc := serviceReset, iss := issueReset, who := agentReset, agenda := [], clockMark := 0, nextId := 0,
    freeCount := 0, fwPage := 0, badAddr := none }

end Sys2Proof.Machine
end

