-- ==== Sys2Proof/Machine/Operands.lean ====
section
/-! DEFINITION. The operand forms of every instruction: the registers it names, each with its file, count and alignment
(07 R210, 08 R222, 09 R255), the set L (01 R49), reading and writing registers, and the capture of source values in the
order of the replay entry (15 R370). -/

namespace Sys2Proof.Machine

/-! ### Registers of a wave -/

/-- Register n of lane l. -/
def readV (w : Wave) (n l : Nat) : Word := cellsRead w.vr (32 * n + l)
/-- Scalar register n. -/
def readS (w : Wave) (n : Nat) : Word := cellsRead w.sr n
/-- A scalar pair, the even register low (04 R131). -/
def readSP (w : Wave) (n : Nat) : DWord := readS w (n + 1) ++ readS w n
/-- A vector pair of lane l. -/
def readVP (w : Wave) (n l : Nat) : DWord := readV w (n + 1) l ++ readV w n l
/-- Predicate n as a mask. -/
def readP (w : Wave) (n : Nat) : Mask := cellsRead w.pr n

/-- A mask with one bit set or cleared. -/
def setBit (m : Mask) (l : Nat) (b : Bool) : Mask :=
  if b then m ||| BitVec.twoPow 32 l else m &&& ~~~(BitVec.twoPow 32 l)

/-- One register result written into a wave. -/
def applyWr (w : Wave) : Wr → Wave
  | .v n l x => { w with vr := cellsWrite w.vr (32 * n + l) x }
  | .s n x => { w with sr := cellsWrite w.sr n x }
  | .p n l b => { w with pr := cellsWrite w.pr n (setBit (readP w n) l b) }
  | .fpx f => { w with fpx := w.fpx ||| f }

/-- Register results in order. -/
def applyWrs (w : Wave) : List Wr → Wave
  | [] => w
  | r :: rs => applyWrs (applyWr w r) rs

/-! ### Waves of the machine -/

def findWaveIn : List Wave → Nat → Option Wave
  | [], _ => none
  | w :: r, id => if w.id = id then some w else findWaveIn r id

def findWave (s : State) (id : Nat) : Option Wave := findWaveIn s.waves id

/-- Replaces the wave of the same identity. -/
def setWaveIn : List Wave → Wave → List Wave
  | [], _ => []
  | v :: r, w => if v.id = w.id then w :: r else v :: setWaveIn r w

def setWave (s : State) (w : Wave) : State := { s with waves := setWaveIn s.waves w }

/-- Changes the wave of an identity, if there is one. -/
def updWave (s : State) (id : Nat) (f : Wave → Wave) : State :=
  match findWave s id with
  | some w => setWave s (f w)
  | none => s

def findTeamIn : List Team → Nat → Option Team
  | [], _ => none
  | t :: r, id => if t.id = id then some t else findTeamIn r id

def findTeam (s : State) (id : Nat) : Option Team := findTeamIn s.teams id

def setTeamIn : List Team → Team → List Team
  | [], _ => []
  | v :: r, t => if v.id = t.id then t :: r else v :: setTeamIn r t

def setTeam (s : State) (t : Team) : State := { s with teams := setTeamIn s.teams t }

def updTeam (s : State) (id : Nat) (f : Team → Team) : State :=
  match findTeam s id with
  | some t => setTeam s (f t)
  | none => s

def findRunIn : List Run → Nat → Option Run
  | [], _ => none
  | t :: r, id => if t.id = id then some t else findRunIn r id

def findRun (s : State) (id : Nat) : Option Run := findRunIn s.runs id

def setRunIn : List Run → Run → List Run
  | [], _ => []
  | v :: r, t => if v.id = t.id then t :: r else v :: setRunIn r t

def setRun (s : State) (t : Run) : State := { s with runs := setRunIn s.runs t }

def updRun (s : State) (id : Nat) (f : Run → Run) : State :=
  match findRun s id with
  | some t => setRun s (f t)
  | none => s

/-- A wave of no team, for the issue stage with no bundle in it. -/
def blankWave : Wave :=
  { id := 0, team := 0, num := 0, core := 0, part := 0, wslot := 0, status := .exited, vr := [], sr := [], pr := [],
    ix := 0, slotA := .empty, slotB := .empty, cur := .a, fair := 0, stack := [], flags := [], cntCopy := 0,
    cntMatrix := 0, cntNet := 0, cntTest := 0, allot := 8, tlane := [], recix := [], everLive := 0, fpx := 0, quad := 0,
    nerr := 0, helper := 0, tsbase := 0, tstk := [], tdepth := [], resv := [], awaited := 0, arrived := 0,
    pendingBit := 0, mparts := 0, spin := 0, backMark := false, age := 0, opSeq := 0, pend := [], sq := [], tests := [],
    nets := [], bfaults := [], laterFaults := [], latch := [], lastIssue := 0, yieldUntil := 0, candSince := none, dearSince := none, starving := false,
    heldA := 0, heldB := 0, growA := 0, growB := 0, frame := none, frameWait := none, replayOps := [], trapSeq := 0, saveA := none, saveB := none, parityRetry := false }

/-- The issuing wave as every slot of the bundle reads it (07 R205). -/
def srcWave (s : State) : Wave := s.iss.src.getD blankWave
/-- The issuing wave as it now stands. -/
def curWave (s : State) : Wave := (findWave s s.iss.wave).getD (srcWave s)
/-- Changes the issuing wave. -/
def updCur (s : State) (f : Wave → Wave) : State := updWave s s.iss.wave f

def blankPath : Path := { pc := 0, mask := 0, fmt := 0, jpc := 0, jv := false }

/-- The path a slot holds. -/
def slotPath : SlotState → Option Path
  | .empty => none
  | .ready p => some p
  | .held p => some p
  | .parked p _ => some p

def getSlot (w : Wave) : PcSlot → SlotState
  | .a => w.slotA
  | .b => w.slotB
def setSlot (w : Wave) (k : PcSlot) (x : SlotState) : Wave :=
  match k with
  | .a => { w with slotA := x }
  | .b => { w with slotB := x }
def otherSlot : PcSlot → PcSlot
  | .a => .b
  | .b => .a

/-- The issuing path as it stood at issue. -/
def issPath (s : State) : Path := (slotPath (getSlot (srcWave s) s.iss.pcSlot)).getD blankPath

/-! ### Lane sets -/

/-- All 32 lane positions. -/
def allLanes : List Nat := List.range 32
def inMask (m : Mask) (l : Nat) : Bool := m.getLsbD l
/-- The lane positions of a mask, ascending. -/
def lanesOf (m : Mask) : List Nat := allLanes.filter (inMask m)
/-- Lanes whose predicate is 1, or every lane without a predicate (07 R209). -/
def predMask (w : Wave) : Pred → Mask
  | .always => 0xFFFFFFFF
  | .on neg p => if neg then ~~~(readP w p.toNat) else readP w p.toNat
/-- The set L of 01 R49. -/
def laneSet (s : State) (pr : Pred) : Mask := (issPath s).mask &&& predMask (srcWave s) pr
def popcount (m : Mask) : Nat := (lanesOf m).length

/-! ### Operands -/

/-- The register files of 07 R210. -/
inductive RegFile
  | v | s | p
deriving DecidableEq, Repr

/-- Which operand a use is: A, B and C in the order of capture, then D. -/
inductive Opnd
  | a | b | c | d
deriving DecidableEq, Repr

/-- One operand: a range of registers of one file, numbered after ix, with the alignment its first register needs. -/
structure Use where
  file : RegFile
  num : Nat
  count : Nat
  align : Nat
  opnd : Opnd
  src : Bool
  dst : Bool
deriving DecidableEq, Repr

/-- The number of a vector register after ix (01 R23). -/
def vnum (ix : Nat) (r : VReg) : Nat := r.base.toNat + if r.ix then ix else 0

def useV (ix : Nat) (r : VReg) (count align : Nat) (o : Opnd) (src dst : Bool) : Use :=
  { file := .v, num := vnum ix r, count := count, align := align, opnd := o, src := src, dst := dst }
def useS (r : SReg) (count : Nat) (o : Opnd) (src dst : Bool) : Use :=
  { file := .s, num := r.toNat, count := count, align := 1, opnd := o, src := src, dst := dst }
def useP (r : PReg) (o : Opnd) (src dst : Bool) : Use :=
  { file := .p, num := r.toNat, count := 1, align := 1, opnd := o, src := src, dst := dst }
/-- A source that may be scalar, count registers wide. -/
def useVB (ix : Nat) (b : VB) (count align : Nat) (o : Opnd) : Use :=
  match b with
  | .vec r => useV ix r count align o true false
  | .scl r => useS r count o true false

def usesF2 (ix : Nat) (o : F2) : List Use :=
  [useV ix o.a 1 1 .a true false, useVB ix o.b 1 1 .b, useV ix o.d 1 1 .d false true]
def usesF3 (ix : Nat) (o : F3) : List Use :=
  [useV ix o.a 1 1 .a true false, useVB ix o.b 1 1 .b, useV ix o.c 1 1 .c true false, useV ix o.d 1 1 .d false true]
def usesFMM (ix : Nat) (o : FMinMax) : List Use :=
  [useV ix o.a 1 1 .a true false, useVB ix o.b 1 1 .b, useV ix o.d 1 1 .d false true]
def usesF1 (ix : Nat) (o : F1) : List Use := [useV ix o.a 1 1 .a true false, useV ix o.d 1 1 .d false true]
def usesDotI (ix : Nat) (o : DotI) : List Use :=
  [useV ix o.a 1 1 .a true false, useVB ix o.b 1 1 .b, useV ix o.c 1 1 .c true false, useV ix o.d 1 1 .d false true]
def usesDotF (ix : Nat) (o : DotF) : List Use :=
  [useV ix o.a 1 1 .a true false, useVB ix o.b 1 1 .b, useV ix o.c 1 1 .c true false, useV ix o.d 1 1 .d false true]
def usesI2 (ix : Nat) (o : I2) : List Use :=
  [useV ix o.a 1 1 .a true false, useVB ix o.b 1 1 .b, useV ix o.d 1 1 .d false true]
def usesI3 (ix : Nat) (o : I3) : List Use :=
  [useV ix o.a 1 1 .a true false, useVB ix o.b 1 1 .b, useV ix o.c 1 1 .c true false, useV ix o.d 1 1 .d false true]
def usesI1 (ix : Nat) (o : I1) (n : Nat) : List Use :=
  [useV ix o.a n n .a true false, useV ix o.d 1 1 .d false true]
def usesS2 (o : S2) (n : Nat) : List Use :=
  [useS o.a n .a true false, useS o.b n .b true false, useS o.d n .d false true]
/-- A half reads D as its first source (07 R211); MOV does not. -/
def usesHalf (ix : Nat) (o : Half) (readsD : Bool) : List Use :=
  [useVB ix o.b 1 1 .b, useV ix o.d 1 1 .d readsD true]

/-- Registers of one lane's access and the alignment of the first (09 R255). -/
def sizeRegs : Size → Nat
  | .b1 => 1 | .b2 => 1 | .b4 => 1 | .b8 => 2 | .b16 => 4
def sizeBytes : Size → Nat
  | .b1 => 1 | .b2 => 2 | .b4 => 4 | .b8 => 8 | .b16 => 16

/-- The address operand: a pair in global memory, one register elsewhere (09 R254). -/
def useAddr (ix : Nat) (a : VB) (pair : Bool) : Use := if pair then useVB ix a 2 2 .a else useVB ix a 1 1 .a
def usesLoad (ix : Nat) (o : MemV) (pair : Bool) : List Use :=
  [useAddr ix o.a pair, useV ix o.d (sizeRegs o.size) (sizeRegs o.size) .d false true]
/-- A store's data register is its D field, a source. -/
def usesStore (ix : Nat) (o : MemV) (pair : Bool) : List Use :=
  [useAddr ix o.a pair, useV ix o.d (sizeRegs o.size) (sizeRegs o.size) .d true false]
def usesSld (o : MemS) : List Use := [useS o.a 2 .a true false, useS o.d (sizeRegs o.size) .d false true]
def usesAtom (ix : Nat) (o : Atom) (pair : Bool) : List Use :=
  [useAddr ix o.a pair, useV ix o.c (sizeRegs o.size) (sizeRegs o.size) .c true false,
   useV ix o.d (sizeRegs o.size) (sizeRegs o.size) .d (decide (o.op = .cas)) true]
def usesRec (ix : Nat) : RecIx → List Use
  | .self => []
  | .by b => [useVB ix b 1 1 .b]

/-- Registers of the narrow side of PACK and UNPACK: e = 32 / width (08 R236). -/
def packCount : NumType → Nat
  | .fp16 => 2 | .bf16 => 2 | .e2m1 => 8 | .int4 => 8 | _ => 4
def usesScale (ix : Nat) : Option VB → List Use
  | none => []
  | some b => [useVB ix b 1 1 .b]

/-- The special registers that RDSR writes into a vector register: LANEID and TLANE (08 R251). -/
def rdsrVector (sr : BitVec 9) : Bool := decide (sr.toNat ≤ 1)

/-- The registers an instruction names, sources in the order A, B, C. -/
def uses (ix : Nat) : Instr → List Use
  | .fadd o => usesF2 ix o | .fsub o => usesF2 ix o | .fmul o => usesF2 ix o
  | .hadd2 o => usesF2 ix o | .hmul2 o => usesF2 ix o
  | .ffma o => usesF3 ix o | .hfma2 o => usesF3 ix o
  | .fmin o => usesFMM ix o | .fmax o => usesFMM ix o | .hmin2 o => usesFMM ix o | .hmax2 o => usesFMM ix o
  | .fcmp o => [useV ix o.a 1 1 .a true false, useVB ix o.b 1 1 .b, useP o.d .d false true]
  | .frnd o => usesF1 ix o
  | .cvt o => [useV ix o.a (if is64 o.st then 2 else 1) (if is64 o.st then 2 else 1) .a true false,
      useV ix o.d (if is64 o.dt then 2 else 1) (if is64 o.dt then 2 else 1) .d false true]
  | .pack o => [useV ix o.a (packCount o.dt) 1 .a true false] ++ usesScale ix o.scale ++ [useV ix o.d 1 1 .d false true]
  | .unpack o => [useV ix o.a 1 1 .a true false] ++ usesScale ix o.scale ++
      [useV ix o.d (packCount o.st) 1 .d false true]
  | .dot4I8 o => usesDotI ix o | .dot8I4 o => usesDotI ix o
  | .dot4F8 o => usesDotF ix o | .dot8F4 o => usesDotF ix o | .dot2H o => usesDotF ix o
  | .pairedFadd o => usesHalf ix o true | .pairedFsub o => usesHalf ix o true | .pairedFmul o => usesHalf ix o true
  | .pairedFmin o => usesHalf ix o true | .pairedFmax o => usesHalf ix o true | .pairedHadd2 o => usesHalf ix o true
  | .pairedHmul2 o => usesHalf ix o true | .pairedMov o => usesHalf ix o false | .pairedIadd o => usesHalf ix o true
  | .pairedIsub o => usesHalf ix o true | .pairedIand o => usesHalf ix o true | .pairedIor o => usesHalf ix o true
  | .pairedIxor o => usesHalf ix o true | .pairedIshl o => usesHalf ix o true | .pairedIshr o => usesHalf ix o true
  | .pairedIsar o => usesHalf ix o true | .pairedImin o => usesHalf ix o true | .pairedImax o => usesHalf ix o true
  | .sadd o w => usesS2 o (if w then 2 else 1) | .ssub o w => usesS2 o (if w then 2 else 1)
  | .smul o => usesS2 o 1 | .smulhi o _ => usesS2 o 1 | .sand o => usesS2 o 1 | .sor o => usesS2 o 1
  | .sxor o => usesS2 o 1 | .sshl o => usesS2 o 1 | .sshr o => usesS2 o 1 | .ssar o => usesS2 o 1
  | .smin o _ => usesS2 o 1 | .smax o _ => usesS2 o 1 | .scmp o _ => usesS2 o 1
  | .ssel o c => [useS o.a 1 .a true false, useS o.b 1 .b true false, useS c 1 .c true false, useS o.d 1 .d false true]
  | .smov d a => [useS a 1 .a true false, useS d 1 .d false true]
  | .smovi d _ => [useS d 1 .d false true]
  | .iadd o _ => usesI2 ix o
  | .iaddc o c e => usesI2 ix o ++ [useP c .c true false, useP e .d false true]
  | .isub o _ => usesI2 ix o | .imul o => usesI2 ix o | .imulhi o _ => usesI2 ix o | .imad o => usesI3 ix o
  | .iand o => usesI2 ix o | .ior o => usesI2 ix o | .ixor o => usesI2 ix o
  | .ishl o => usesI2 ix o | .ishr o => usesI2 ix o | .isar o => usesI2 ix o
  | .imin o _ => usesI2 ix o | .imax o _ => usesI2 ix o
  | .icmp o => [useV ix o.a 1 1 .a true false, useVB ix o.b 1 1 .b, useP o.d .d false true]
  | .isel o c => usesI2 ix o ++ [useP c .c true false]
  | .bfx o _ => usesI2 ix o | .bfd o => usesI3 ix o
  | .popc o => usesI1 ix o 1 | .clz o => usesI1 ix o 1 | .brev o => usesI1 ix o 1 | .bytsel o => usesI3 ix o
  | .shfl o _ => usesI2 ix o
  | .vote _ d a _ cond => [useP a .a true false, useS d 1 .d false true] ++ (match cond with
      | .none => [] | .all p => [useP p .c false true] | .any p => [useP p .c false true]
      | .same p => [useP p .c false true])
  | .redux _ dst a _ => [useV ix a 1 1 .a true false] ++ (match dst with
      | .total sd => [useS sd 1 .d false true] | .scan vd => [useV ix vd 1 1 .d false true])
  | .bcast _ d a lane => [useV ix a 1 1 .a true false] ++ (match lane with
      | none => [] | some b => [useS b 1 .b true false]) ++ [useV ix d 1 1 .d false true]
  | .matchLanes o w => usesI1 ix o (if w then 2 else 1)
  | .rdlane d a b => [useV ix a 1 1 .a true false, useS b 1 .b true false, useS d 1 .d false true]
  | .wrlane d a b => [useS a 1 .a true false, useS b 1 .b true false, useV ix d 1 1 .d false true]
  | .plop o => [useP o.a .a true false, useP o.b .b true false, useP o.c .c true false, useP o.d .d false true]
  | .pset _ d m => (match m with
      | .zero => [] | .one => [] | .bits b => [useS b 1 .b true false] | .nonzero b => [useS b 1 .b true false]) ++
      [useP d .d false true]
  | .pget d a => [useP a .a true false, useS d 1 .d false true]
  | .pcnt d a => [useP a .a true false, useS d 1 .d false true]
  | .mov _ d b => [useVB ix b 1 1 .b, useV ix d 1 1 .d false true]
  | .movi _ d _ => [useV ix d 1 1 .d false true]
  | .ixset a => [useS a 1 .a true false] | .ixadd a => [useS a 1 .a true false] | .ixget d => [useS d 1 .d false true]
  | .scvt o => [useS o.a (if is64 o.st then 2 else 1) .a true false, useS o.d (if is64 o.dt then 2 else 1) .d false true]
  | .brx o => [useS o.a 2 .a true false]
  | .call _ d => [useV ix d 2 2 .d false true]
  | .ret a => [useV ix a 2 2 .a true false]
  | .rgrowReg a => [useS a 1 .a true false] | .rshrinkReg a => [useS a 1 .a true false]
  | .setfmtReg a => [useS a 1 .a true false] | .getfmt d => [useS d 1 .d false true]
  | .rcp o => usesF1 ix o | .rsq o => usesF1 ix o | .sqrt o => usesF1 ix o | .ex2 o => usesF1 ix o
  | .lg2 o => usesF1 ix o | .sin o => usesF1 ix o | .cos o => usesF1 ix o | .tanh o => usesF1 ix o
  | .ldG o => usesLoad ix o true | .ldL o => usesLoad ix o false | .ldP o => usesLoad ix o false
  | .stG o => usesStore ix o true | .stL o => usesStore ix o false | .stP o => usesStore ix o false
  | .sldC o => usesSld o | .sldG o => usesSld o | .ldw o => usesLoad ix o false
  | .atomG o => usesAtom ix o true | .atomL o => usesAtom ix o false
  | .fatom o => [useAddr ix o.a true, useV ix o.c 1 1 .c true false, useV ix o.d 1 1 .d false true]
  | .lr o => [useAddr ix o.a true, useV ix o.d (sizeRegs o.size) (sizeRegs o.size) .d false true]
  | .sc o => [useAddr ix o.a true, useV ix o.c (sizeRegs o.size) (sizeRegs o.size) .c true false,
      useV ix o.d 1 1 .d false true]
  | .prefetch o => [useAddr ix o.a true]
  | .waitaddr o => [useS o.a (if o.isLocal then 1 else 2) .a true false, useS o.c (sizeRegs o.size) .c true false,
      useS o.d (sizeRegs o.size) .d true true]
  | .acopy a => [useS a 8 .a true false] | .acopy2d a => [useS a 8 .a true false]
  | .yieldCopy a _ => [useS a 2 .a true false]
  | .barInit _ a => [useS a 1 .a true false] | .barExpect _ a => [useS a 1 .a true false]
  | .qappend o => [useP o.d .d false true]
  | .recld o => (match o.ofsReg with
      | none => [] | some a => [useVB ix a 1 1 .a]) ++ usesRec ix o.ri ++
      [useV ix o.d (sizeRegs o.size) (sizeRegs o.size) .d false true]
  | .recinfo o => usesRec ix o.ri ++ [useV ix o.d 1 1 .d false true]
  | .taskemit _ a b => [useS a 1 .a true false, useS b 1 .b true false]
  | .mma o => [useS o.a 4 .a true false, useV ix o.b (4 * (o.nc1.toNat + 1)) 1 .b true false]
  | .mmaSp o => [useS o.a 4 .a true false, useV ix o.b (4 * (o.nc1.toNat + 1)) 1 .b true false]
  | .mload o => [useS o.a 2 .a true false] | .mstore o => [useS o.a 2 .a true false]
  | .mspload _ a _ => [useS a 2 .a true false]
  | .miter o => (match o.mode with
      | .affine sa _ => [useS sa 2 .a true false] | .ns => [] | .poly _ => []) ++
      [useS o.b 2 .b true false, useS o.d 1 .d false true, useP o.pd .d false true]
  | .mnorm _ d _ => [useS d 1 .d false true]
  | .neval o => [useV ix o.a (o.ni1.toNat + 1) 1 .a true false, useVB ix o.b 1 1 .b,
      useV ix o.d (o.no1.toNat + 1) 1 .d false true]
  | .trvBox o => [useV ix o.a 8 1 .a true false, useV ix o.b 2 2 .b true false, useV ix o.d 2 1 .d false true,
      useP o.pd .d false true]
  | .trvTri o => [useV ix o.a 8 1 .a true false, useV ix o.b 2 2 .b true false, useV ix o.d 5 1 .d false true,
      useP o.pd .d false true]
  | .trvPush _ a => [useV ix a 1 1 .a true false]
  | .trvPop _ d pd => [useV ix d 1 1 .d false true, useP pd .d false true]
  | .ddx o => [useV ix o.a 1 1 .a true false, useV ix o.d 1 1 .d false true]
  | .ddy o => [useV ix o.a 1 1 .a true false, useV ix o.d 1 1 .d false true]
  | .texG o => [useV ix o.a 2 1 .a true false, useV ix o.b 4 1 .b true false, useS o.c 8 .c true false,
      useV ix o.d 4 1 .d false true]
  | .texL o => [useV ix o.a 2 1 .a true false, useV ix o.b 1 1 .b true false, useS o.c 8 .c true false,
      useV ix o.d 4 1 .d false true]
  | .rdsr d sr => if rdsrVector sr then [useV ix (vregOf d) 1 1 .d false true]
      else [useS (sregOf d) (if sr = 0x100 then 2 else 1) .d false true]
  | .wrsr _ a => [useS a 1 .a true false]
  | .rplay a => [useS a 1 .a true false] | .clock _ d => [useS d 2 .d false true]
  | .savew a => [useS a 2 .a true false] | .restw a => [useS a 2 .a true false]
  | _ => []

/-- The predicate field of an instruction. -/
def predOfInstr : Instr → Pred
  | .fadd o => o.pr | .fsub o => o.pr | .fmul o => o.pr | .hadd2 o => o.pr | .hmul2 o => o.pr
  | .ffma o => o.pr | .hfma2 o => o.pr | .fmin o => o.pr | .fmax o => o.pr | .hmin2 o => o.pr | .hmax2 o => o.pr
  | .fcmp o => o.pr | .frnd o => o.pr | .cvt o => o.pr | .pack o => o.pr | .unpack o => o.pr
  | .dot4I8 o => o.pr | .dot8I4 o => o.pr | .dot4F8 o => o.pr | .dot8F4 o => o.pr | .dot2H o => o.pr
  | .pairedFadd o => o.pr | .pairedFsub o => o.pr | .pairedFmul o => o.pr | .pairedFmin o => o.pr
  | .pairedFmax o => o.pr | .pairedHadd2 o => o.pr | .pairedHmul2 o => o.pr | .pairedMov o => o.pr
  | .pairedIadd o => o.pr | .pairedIsub o => o.pr | .pairedIand o => o.pr | .pairedIor o => o.pr
  | .pairedIxor o => o.pr | .pairedIshl o => o.pr | .pairedIshr o => o.pr | .pairedIsar o => o.pr
  | .pairedImin o => o.pr | .pairedImax o => o.pr
  | .iadd o _ => o.pr | .iaddc o _ _ => o.pr | .isub o _ => o.pr | .imul o => o.pr | .imulhi o _ => o.pr
  | .imad o => o.pr | .iand o => o.pr | .ior o => o.pr | .ixor o => o.pr | .ishl o => o.pr | .ishr o => o.pr
  | .isar o => o.pr | .imin o _ => o.pr | .imax o _ => o.pr | .icmp o => o.pr | .isel o _ => o.pr | .bfx o _ => o.pr
  | .bfd o => o.pr | .popc o => o.pr | .clz o => o.pr | .brev o => o.pr | .bytsel o => o.pr | .shfl o _ => o.pr
  | .vote pr _ _ _ _ => pr | .redux pr _ _ _ => pr | .bcast pr _ _ _ => pr | .matchLanes o _ => o.pr
  | .plop o => o.pr | .pset pr _ _ => pr | .mov pr _ _ => pr | .movi pr _ _ => pr
  | .bra o => o.pr | .brx o => o.pr
  | .rcp o => o.pr | .rsq o => o.pr | .sqrt o => o.pr | .ex2 o => o.pr | .lg2 o => o.pr | .sin o => o.pr
  | .cos o => o.pr | .tanh o => o.pr
  | .ldG o => o.pr | .ldL o => o.pr | .ldP o => o.pr | .stG o => o.pr | .stL o => o.pr | .stP o => o.pr
  | .ldw o => o.pr | .atomG o => o.pr | .atomL o => o.pr | .fatom o => o.pr | .lr o => o.pr | .sc o => o.pr
  | .prefetch o => o.pr | .qappend o => o.pr | .recld o => o.pr | .recinfo o => o.pr
  | .mma o => o.pr | .mmaSp o => o.pr | .mload o => o.pr | .mstore o => o.pr | .mzero pr _ => pr | .mspload pr _ _ => pr
  | .miter o => o.pr | .mpoly pr _ _ _ => pr | .mnorm pr _ _ => pr | .neval o => o.pr | .latchB pr => pr | .latchE pr => pr
  | .trvBox o => o.pr | .trvTri o => o.pr | .trvPush pr _ => pr | .trvPop pr _ _ => pr | .ddx o => o.pr | .ddy o => o.pr
  | .texG o => o.pr | .texL o => o.pr
  | _ => .always

/-- The token weight of an opcode (07 R214). -/
def weight : Instr → Nat
  | .fadd _ | .fsub _ | .fmul _ | .ffma _ | .fmin _ | .fmax _ | .fcmp _ | .frnd _ => 1
  | .hadd2 _ | .hmul2 _ | .hfma2 _ | .hmin2 _ | .hmax2 _ | .cvt _ | .pack _ | .unpack _ | .dot2H _ => 1
  | .dot4I8 _ | .dot8I4 _ | .dot4F8 _ | .dot8F4 _ => 2
  | .pairedFadd _ | .pairedFsub _ | .pairedFmul _ | .pairedFmin _ | .pairedFmax _ | .pairedHadd2 _ | .pairedHmul2 _ => 1
  | .pairedMov _ | .pairedIadd _ | .pairedIsub _ | .pairedIand _ | .pairedIor _ | .pairedIxor _ => 1
  | .pairedIshl _ | .pairedIshr _ | .pairedIsar _ | .pairedImin _ | .pairedImax _ => 1
  | .iadd _ _ | .iaddc _ _ _ | .isub _ _ => 1
  | .imul _ | .imulhi _ _ | .imad _ => 2
  | .iand _ | .ior _ | .ixor _ | .ishl _ | .ishr _ | .isar _ | .imin _ _ | .imax _ _ | .icmp _ | .isel _ _ => 1
  | .bfx _ _ | .bfd _ | .popc _ | .clz _ | .brev _ | .bytsel _ | .shfl _ _ | .redux _ _ _ _ | .bcast _ _ _ _ => 1
  | .matchLanes _ _ | .mov _ _ _ | .movi _ _ _ => 1
  | .rcp _ | .rsq _ | .sqrt _ | .ex2 _ | .lg2 _ | .sin _ | .cos _ | .tanh _ => 2
  | .ldG _ | .ldL _ | .ldP _ | .stG _ | .stL _ | .stP _ | .ldw _ => 1
  | .atomG _ | .atomL _ | .fatom _ | .lr _ | .sc _ => 2
  | .qappend _ | .recld _ => 1
  | .mma _ | .mmaSp _ | .miter _ | .mpoly _ _ _ _ => 4
  | .mload _ | .mstore _ => 2
  | .mzero _ _ | .mspload _ _ _ | .mnorm _ _ _ => 1
  | .neval _ | .trvBox _ | .trvTri _ => 2
  | .trvPush _ _ | .trvPop _ _ _ | .ddx _ | .ddy _ => 1
  | .texG _ | .texL _ => 2
  | _ => 0

/-- The charge window of an opcode in cluster clocks (07 R214). -/
def chargeWindow : Instr → Nat
  | .mma _ | .mmaSp _ | .miter _ | .mpoly _ _ _ _ => 32
  | .mload _ | .mstore _ => 8
  | .iadd _ _ | .iaddc _ _ _ | .isub _ _ | .iand _ | .ior _ | .ixor _ | .ishl _ | .ishr _ | .isar _ => 2
  | .imin _ _ | .imax _ _ | .icmp _ | .isel _ _ | .bfx _ _ | .bfd _ | .popc _ | .clz _ | .brev _ | .bytsel _ => 2
  | .shfl _ _ | .bcast _ _ _ _ | .mov _ _ _ | .movi _ _ _ | .trvPush _ _ | .trvPop _ _ _ => 2
  | .pairedMov _ | .pairedIadd _ | .pairedIsub _ | .pairedIand _ | .pairedIor _ | .pairedIxor _ => 2
  | .pairedIshl _ | .pairedIshr _ | .pairedIsar _ | .pairedImin _ | .pairedImax _ => 2
  | _ => 4

/-! ### Capture (15 R370) -/

/-- Register values of a range, for one lane of a vector range. -/
def useVals (w : Wave) (l : Nat) (u : Use) : List Word :=
  match u.file with
  | .v => (List.range u.count).map (fun k => readV w (u.num + k) l)
  | .s => (List.range u.count).map (fun k => readS w (u.num + k))
  | .p => []

/-- SVAL: the scalar source values in the order A, B, C. -/
def captureS (w : Wave) (i : Instr) : List Word :=
  ((uses w.ix.toNat i).filter (fun u => u.src && decide (u.file = .s))).flatMap (useVals w 0)

/-- The operand block of one lane. -/
def captureV (w : Wave) (i : Instr) (l : Nat) : List Word :=
  ((uses w.ix.toNat i).filter (fun u => u.src && decide (u.file = .v))).flatMap (useVals w l)

/-- Word k of an operand from captured values: the sources of each file stand one after another. -/
def pick (o : Opnd) (k : Nat) : List Use → List Word → List Word → Word
  | [], _, _ => 0
  | u :: us, sv, vv =>
    if u.src then
      match u.file with
      | .s => if u.opnd = o then sv.getD k 0 else pick o k us (sv.drop u.count) vv
      | .v => if u.opnd = o then vv.getD k 0 else pick o k us sv (vv.drop u.count)
      | .p => pick o k us sv vv
    else pick o k us sv vv

/-- Word k of operand o of lane l of an operation that has issued. -/
def opWord (p : PendOp) (o : Opnd) (k l : Nat) : Word := pick o k (uses 0 p.instr) p.svals (p.vals.getD l [])
/-- A pair of words, the first low. -/
def opPair (p : PendOp) (o : Opnd) (l : Nat) : DWord := opWord p o 1 l ++ opWord p o 0 l

/-- The first register of an operation's destination in a file. -/
def dstNum (p : PendOp) (f : RegFile) : Nat :=
  match (uses 0 p.instr).find? (fun u => u.dst && decide (u.file = f)) with
  | some u => u.num
  | none => 0

/-! ### An instruction with ix added to its vector registers (07 R210): what an outstanding operation keeps -/

def resolveV (ix : Nat) (r : VReg) : VReg := { ix := false, base := BitVec.ofNat 8 (vnum ix r) }
def resolveVB (ix : Nat) : VB → VB
  | .vec r => .vec (resolveV ix r)
  | .scl r => .scl r
def resolveF1 (ix : Nat) (o : F1) : F1 := { o with d := resolveV ix o.d, a := resolveV ix o.a }
def resolveMemV (ix : Nat) (o : MemV) : MemV := { o with d := resolveV ix o.d, a := resolveVB ix o.a }
def resolveAtom (ix : Nat) (o : Atom) : Atom :=
  { o with d := resolveV ix o.d, a := resolveVB ix o.a, c := resolveV ix o.c }
def resolveTrv (ix : Nat) (o : Trv) : Trv :=
  { o with d := resolveV ix o.d, a := resolveV ix o.a, b := resolveV ix o.b }
def resolveTex (ix : Nat) (o : Tex) : Tex :=
  { o with d := resolveV ix o.d, a := resolveV ix o.a, b := resolveV ix o.b }
def resolveRec (ix : Nat) : RecIx → RecIx
  | .self => .self
  | .by b => .by (resolveVB ix b)

def resolve (ix : Nat) : Instr → Instr
  | .rcp o => .rcp (resolveF1 ix o) | .rsq o => .rsq (resolveF1 ix o) | .sqrt o => .sqrt (resolveF1 ix o)
  | .ex2 o => .ex2 (resolveF1 ix o) | .lg2 o => .lg2 (resolveF1 ix o) | .sin o => .sin (resolveF1 ix o)
  | .cos o => .cos (resolveF1 ix o) | .tanh o => .tanh (resolveF1 ix o)
  | .ldG o => .ldG (resolveMemV ix o) | .ldL o => .ldL (resolveMemV ix o) | .ldP o => .ldP (resolveMemV ix o)
  | .stG o => .stG (resolveMemV ix o) | .stL o => .stL (resolveMemV ix o) | .stP o => .stP (resolveMemV ix o)
  | .ldw o => .ldw (resolveMemV ix o) | .atomG o => .atomG (resolveAtom ix o) | .atomL o => .atomL (resolveAtom ix o)
  | .fatom o => .fatom { o with d := resolveV ix o.d, a := resolveVB ix o.a, c := resolveV ix o.c }
  | .lr o => .lr { o with d := resolveV ix o.d, a := resolveVB ix o.a }
  | .sc o => .sc { o with d := resolveV ix o.d, a := resolveVB ix o.a, c := resolveV ix o.c }
  | .recld o => .recld { o with d := resolveV ix o.d, ri := resolveRec ix o.ri,
                                ofsReg := o.ofsReg.map (resolveVB ix) }
  | .neval o => .neval { o with d := resolveV ix o.d, a := resolveV ix o.a, b := resolveVB ix o.b }
  | .trvBox o => .trvBox (resolveTrv ix o) | .trvTri o => .trvTri (resolveTrv ix o)
  | .trvPop pr d pd => .trvPop pr (resolveV ix d) pd
  | .texG o => .texG (resolveTex ix o) | .texL o => .texL (resolveTex ix o)
  | i => i

/-! ### Modifiers and small helpers of operand values -/

/-- An FP32 or FP16 code's sign bit under modifiers: absolute value first, then negation (08 R221). -/
def applyMod (m : Mod) (signBit : Nat) (x : Word) : Word :=
  let y := if m.abs then x &&& ~~~(BitVec.twoPow 32 signBit) else x
  if m.neg then y ^^^ BitVec.twoPow 32 signBit else y
/-- Modifiers of both FP16 elements of a register. -/
def applyMod2 (m : Mod) (x : Word) : Word := applyMod m 15 (applyMod m 31 x)

/-- A B operand of lane l: a vector register, or a scalar register for every lane. -/
def readVB (w : Wave) (b : VB) (l : Nat) : Word :=
  match b with
  | .vec r => readV w (vnum w.ix.toNat r) l
  | .scl r => readS w r.toNat
def readVReg (w : Wave) (r : VReg) (l : Nat) : Word := readV w (vnum w.ix.toNat r) l

end Sys2Proof.Machine
end

