-- ==== Sys2Proof/Machine/Mem.lean ====
section
/-! DEFINITION. The named operations over memory: translation (15 R359 R360), the column caches and their homes (03 R107
to R119), local, private and weight memory (03 R97 to R106), and the events a write causes (09 R267 R270, 16 R392). -/

namespace Sys2Proof.Machine

/-! ### Units and lists -/

/-- Stack of a device-wide core number (00 R3). -/
def coreStack (c : CoreNum) : StackNum := c.extractLsb' 6 1
/-- Device-wide cluster of a core: core / 4. -/
def coreCluster (c : CoreNum) : ClusterNum := c.extractLsb' 2 5
/-- Device-wide core pair: core / 2. -/
def corePair (c : CoreNum) : Nat := c.toNat / 2
def getCtx (s : State) (c : CtxNum) : Ctx := s.ctxs.getD c.toNat ctxReset
def setCtx (s : State) (c : CtxNum) (x : Ctx) : State := { s with ctxs := s.ctxs.set c.toNat x }
def updCtx (s : State) (c : CtxNum) (f : Ctx → Ctx) : State := setCtx s c (f (getCtx s c))
def getStack (s : State) (k : StackNum) : Stack := s.stks.getD k.toNat stackReset
def updStack (s : State) (k : StackNum) (f : Stack → Stack) : State :=
  { s with stks := s.stks.set k.toNat (f (getStack s k)) }
def getCluster (s : State) (k : ClusterNum) : Cluster := s.clusters.getD k.toNat clusterReset
def updCluster (s : State) (k : ClusterNum) (f : Cluster → Cluster) : State :=
  { s with clusters := s.clusters.set k.toNat (f (getCluster s k)) }
def getEngine (s : State) (k : ClusterNum) : Engine := s.engines.getD k.toNat engineReset
def updEngine (s : State) (k : ClusterNum) (f : Engine → Engine) : State :=
  { s with engines := s.engines.set k.toNat (f (getEngine s k)) }
def getQueue (s : State) (q : QueueNum) : Queue := s.queues.getD q.toNat queueReset
def updQueue (s : State) (q : QueueNum) (f : Queue → Queue) : State :=
  { s with queues := s.queues.set q.toNat (f (getQueue s q)) }
/-- Stack of a cluster. -/
def clusterStack (k : ClusterNum) : StackNum := k.extractLsb' 4 1
/-- Cluster clock of a core's cluster. -/
def coreClock (s : State) (c : CoreNum) : Nat := (getCluster s (coreCluster c)).clk
/-- Master clock of a stack. -/
def masterClock (s : State) (k : StackNum) : Nat := (getStack s k).mclk

/-- The team of a wave and its context. -/
def waveTeam (s : State) (w : Wave) : Option Team := findTeam s w.team
def waveCtx (s : State) (w : Wave) : CtxNum := match waveTeam s w with
  | some t => t.ctx
  | none => 0

/-! ### Locations -/

/-- A byte's place: GDDR 7 or host memory, and its physical address. -/
structure Loc where
  host : Bool
  addr : Nat
deriving DecidableEq, Repr

/-- Which right an access needs of its page (15 R362). -/
inductive Access
  | read | write | fetch
deriving DecidableEq, Repr

/-- Whether a 16-byte sector of GDDR 7 holds an uncorrectable error (18 R428). -/
def poisoned (s : State) (a : Nat) : Bool := s.poison.contains (a / 16)

/-- The byte at home. -/
def homeByte (s : State) (l : Loc) : Byte := if l.host then cellsRead s.hostMem l.addr else cellsRead s.mem l.addr

/-- A page-table entry as the walk reads it at its home (15 R361). -/
def readPte (s : State) (a : Nat) : DWord := BitVec.ofNat 64 (cellsReadLE s.mem a 8)

/-- FKIND of a walk that meets V = 0: not mapped, or fetch for a bundle (15 R362). -/
def unmappedKind : Access → BitVec 3
  | .fetch => 2 | _ => 0

/-- Bytes of the page a leaf maps at a level (15 R359). -/
def pageSize (level : Nat) (cont : Bool) : Nat := 2 ^ (12 + 9 * level) * (if cont then 16 else 1)

/-- What an entry of a table at a level stands for: a leaf, or the next table. -/
inductive PageEntry
  | leaf (f : PageLeaf)
  | table (addr : Nat)
deriving DecidableEq, Repr
/-- The entry at an address of a table at a level (15 R359 R360), or the FKIND of the fault. -/
def pageEntry (s : State) (va : Nat) (acc : Access) (level ea : Nat) : Except (BitVec 3) PageEntry :=
  let e := readPte s ea
  let addr := (e.extractLsb' 12 40).toNat * 4096
  let cont := e.getLsbD 5
  let host := e.getLsbD 4
  let n := pageSize level cont
  if poisoned s ea then .error 4
  else if e.getLsbD 0 = false then .error (unmappedKind acc)
  else if e.extractLsb' 52 12 ≠ 0 ∨ e.extractLsb' 6 6 ≠ 0 then .error 4
  else if e.getLsbD 1 = false then
    if level = 0 ∨ cont ∨ host ∨ s.svc.installed ≤ addr then .error 4 else .ok (.table addr)
  else if level = 3 ∨ (level = 2 ∧ cont) ∨ addr % n ≠ 0 then .error 4
  else .ok (.leaf { base := va / n * n, size := n, host := host, addr := addr, w := e.getLsbD 2, x := e.getLsbD 3 })
/-- The place of an address's entry in a table at a level. -/
def entryPlace (va level table : Nat) : Nat := table + 8 * (va / 2 ^ (12 + 9 * level) % (if level = 3 then 8192 else 512))
/-- The walk from a table at a level (15 R359 R360): the leaf, or the FKIND of the fault. -/
def walk (s : State) (va : Nat) (acc : Access) : Nat → Nat → Except (BitVec 3) PageLeaf
  | 0, table => match pageEntry s va acc 0 (entryPlace va 0 table) with
    | .error k => .error k
    | .ok (.leaf f) => .ok f
    | .ok (.table _) => .error 4
  | n + 1, table => match pageEntry s va acc (n + 1) (entryPlace va (n + 1) table) with
    | .error k => .error k
    | .ok (.leaf f) => .ok f
    | .ok (.table a) => walk s va acc n a

/-- The place of an address in a page, or the FKIND of what the page does not permit (15 R360 R362). A physical address has 52
bits. -/
def leafPlace (s : State) (f : PageLeaf) (va : Nat) (acc : Access) : Except (BitVec 3) Loc :=
  let pa := (f.addr + va % f.size) % 4503599627370496
  if f.host = false ∧ s.svc.installed ≤ pa then .error 4
  else if acc = .write ∧ f.w = false then .error 1
  else if acc = .fetch ∧ f.x = false then .error 2
  else .ok { host := f.host, addr := pa }
/-- The leaf that the tables of a context hold for an address; bits [63:52] must be zero (03 R98). -/
def tableLeaf (s : State) (c : CtxNum) (va : DWord) (acc : Access) : Except (BitVec 3) PageLeaf :=
  if va.extractLsb' 52 12 ≠ 0 then .error 3
  else walk s va.toNat acc 3 (getCtx s c).ptroot.toNat
/-- A place through a leaf, or the fault of the walk. -/
def placeIn (s : State) (va : DWord) (acc : Access) : Except (BitVec 3) PageLeaf → Except (BitVec 3) Loc
  | .error k => .error k
  | .ok f => leafPlace s f va.toNat acc
/-- A global virtual address of a context to its place by a walk (15 R359): the accesses of units that stand in no core. -/
def translate (s : State) (c : CtxNum) (va : DWord) (acc : Access) : Except (BitVec 3) Loc :=
  placeIn s va acc (tableLeaf s c va acc)

/-! ### The TLBs (15 R361) -/

/-- The entry of a TLB that holds a context's address. -/
def tlbLeaf (s : State) (u : TlbUnit) (c : CtxNum) (va : DWord) : Option PageLeaf :=
  (s.tlbs.find? (fun e => decide (e.unit = u) && decide (e.ctx = c) && decide (e.leaf.base ≤ va.toNat) &&
    decide (va.toNat < e.leaf.base + e.leaf.size))).map (fun e => e.leaf)
/-- The leaf an access of a core meets: in its own TLB, in its cluster's, or by a walk. -/
def coreLeaf (s : State) (core : CoreNum) (c : CtxNum) (va : DWord) (acc : Access) : Except (BitVec 3) PageLeaf :=
  match tlbLeaf s (.core core) c va, tlbLeaf s (.cluster (coreCluster core)) c va with
  | some f, _ => .ok f
  | none, some f => .ok f
  | none, none => tableLeaf s c va acc
/-- A global virtual address of a context to its place, for an access of a core. -/
def translateAt (s : State) (core : CoreNum) (c : CtxNum) (va : DWord) (acc : Access) : Except (BitVec 3) Loc :=
  placeIn s va acc (coreLeaf s core c va acc)

/-- Drops the oldest entries that a predicate names until fewer than n are left. -/
def keepNewest {a : Type} (mine : a → Bool) (n : Nat) (l : List a) : List a :=
  if (l.filter mine).length < n then l else l.eraseP mine
/-- An entry enters a TLB of n entries. -/
def tlbAdd (n : Nat) (e : TlbEntry) (l : List TlbEntry) : List TlbEntry :=
  keepNewest (fun x => decide (x.unit = e.unit)) n (l.filter (fun x => decide (x ≠ e))) ++ [e]
/-- A translation enters the TLBs of a core and of its cluster: 128 and 4,096 entries. -/
def tlbFill (s : State) (core : CoreNum) (c : CtxNum) (va : DWord) : State :=
  match coreLeaf s core c va .read with
  | .error _ => s
  | .ok f =>
    let l := tlbAdd 4096 { unit := .cluster (coreCluster core), ctx := c, leaf := f } s.tlbs
    { s with tlbs := tlbAdd 128 { unit := .core core, ctx := c, leaf := f } l }
/-- Some TLB holds an entry of a context that meets a range. -/
def tlbHolds (s : State) (c : CtxNum) (lo hi : Nat) : Bool :=
  s.tlbs.any (fun e => decide (e.ctx = c) && decide (e.leaf.base < hi) && decide (lo < e.leaf.base + e.leaf.size))
/-- Every entry of a context goes (15 R380). -/
def tlbReset (s : State) (c : CtxNum) : State := { s with tlbs := s.tlbs.filter (fun e => decide (e.ctx ≠ c)) }

/-! ### Column-cache bytes (03 R107) -/

def ccKey (c : CoreNum) (l : Loc) : Nat := (2 * c.toNat + l.host.toNat) * 4503599627370496 + l.addr
def ccByte (s : State) (c : CoreNum) (l : Loc) : CacheByte := cellsRead s.cc (ccKey c l)
def cbValid (b : CacheByte) : Bool := b.getLsbD 8
def cbDirty (b : CacheByte) : Bool := b.getLsbD 9
def cbPrivate (b : CacheByte) : Bool := b.getLsbD 10
def mkCacheByte (priv dirty : Bool) (x : Byte) : CacheByte := bit priv ++ bit dirty ++ (1 : BitVec 1) ++ x
def setCcByte (s : State) (c : CoreNum) (l : Loc) (b : CacheByte) : State := { s with cc := cellsWrite s.cc (ccKey c l) b }
/-- The place a cache key names. -/
def keyLoc (k : Nat) : Loc := { host := decide (k / 4503599627370496 % 2 = 1), addr := k % 4503599627370496 }
/-- The cached bytes of a core. -/
def ccOfCore (s : State) (c : CoreNum) : Cells 11 := cellsRange s.cc (2 * c.toNat * 4503599627370496) 9007199254740992

/-- HINT as a retention class for a fill, and for a hit (03 R108). -/
def fillClass : Hint → BitVec 2
  | .none => 1 | .evictFirst => 0 | .evictLast => 2
def hitClass (h : Hint) (old : BitVec 2) : BitVec 2 :=
  match h with
  | .none => old | .evictLast => 2 | .evictFirst => if old = 2 then 2 else 0

/-- The victim of a set, the least recently used first: an evict-first one, else a normal one, else an evict-last one
(03 R108). -/
def victimOf {a : Type} (cls : a → BitVec 2) (l : List a) : Option a :=
  match l.find? (fun e => decide (cls e = 0)), l.find? (fun e => decide (cls e = 1)) with
  | some e, _ => some e
  | none, some e => some e
  | none, none => l.head?
/-- The line that a place lies in, and the place of its byte i. -/
def lineOf (l : Loc) : BitVec 45 := BitVec.ofNat 45 (l.addr / 128)
def lineLoc (host : Bool) (line : BitVec 45) (i : Nat) : Loc := { host := host, addr := 128 * line.toNat + i }
/-- A line of a core's column cache. -/
def isLine (c : CoreNum) (host : Bool) (line : BitVec 45) (e : CacheLine) : Bool :=
  decide (e.core = c) && decide (e.host = host) && decide (e.line = line)
/-- A byte lies in a line of a column cache. -/
def inLine (c : CoreNum) (host : Bool) (line : BitVec 45) (key : Nat) : Bool :=
  decide (key / 128 = ccKey c (lineLoc host line 0) / 128)
/-- Lines of a core that hold no valid byte go, with their class (03 R108). -/
def pruneLines (s : State) (c : CoreNum) : State :=
  { s with ccLines := s.ccLines.filter (fun e => decide (e.core ≠ c) || s.cc.any (fun b => inLine c e.host e.line b.1)) }

/-- The L2 slice an address is homed on, over both stacks: 64 x stack + slice (03 R109), the next slice in service where
firmware has retired it (18 R427). -/
def nextSlice (ret : BitVec 128) (stk : Nat) : Nat → Nat → Nat
  | 0, k => k
  | n + 1, k => if ret.getLsbD (64 * stk + k) then nextSlice ret stk n ((k + 1) % 64) else k
def homeSlice (s : State) (a : Nat) : BitVec 7 :=
  let stk := a / 4096 % 2
  let k := (a / 8192 % 64) ^^^ (a / 524288 % 64)
  BitVec.ofNat 7 (64 * stk + nextSlice s.svc.retSlices stk 64 k)

/-- The block of L2 at an address is the one last used; where it is absent, it takes the place of a victim of its slice when
the slice is full: 6,144 blocks of 128 bytes (00 R4, 03 R108 R109; notes/assumptions/11.md). -/
def touchL2 (s : State) (h : Hint) (l : Loc) : State :=
  let b := l.addr / 128
  if l.host then s
  else match s.l2.find? (fun e => decide (e.block = b)) with
    | some e => { s with l2 := s.l2.filter (fun x => decide (x.block ≠ b)) ++ [{ e with cls := hitClass h e.cls }] }
    | none =>
      let mine := s.l2.filter (fun e => decide (homeSlice s (128 * e.block) = homeSlice s l.addr))
      let left := match victimOf (fun e => e.cls) mine with
        | some v => if mine.length < 6144 then s.l2 else s.l2.filter (fun e => decide (e ≠ v))
        | none => s.l2
      { s with l2 := left ++ [{ block := b, cls := fillClass h }] }

/-! ### What a write wakes and clears -/

/-- Clears the reservations of a wave that name a granule. -/
def dropGranule (g : Granule) (w : Wave) : Wave := { w with resv := w.resv.filter (fun r => decide (r.2 ≠ g)) }

/-- Whether scope is wider than the core for a team: .dev, .sys, and .team in a PAIR team (03 R111 R114). -/
def wideScope (pair : Bool) : Scope → Bool
  | .dev => true | .sys => true | .team => pair | _ => false

/-- Marks a slot parked in WAITADDR as woken where its word satisfies a test. -/
def wakeSlot (hit : WaitAddr → DWord → Bool) : SlotState → SlotState
  | .parked p (.addr o a e d woken last) => .parked p (.addr o a e d (woken || hit o a) last)
  | x => x
def wakeWave (hit : WaitAddr → DWord → Bool) (w : Wave) : Wave :=
  { w with slotA := wakeSlot hit w.slotA, slotB := wakeSlot hit w.slotB }

/-- A wave's WAITADDR watches a global line at home, or in its core's cache (09 R270). -/
def watchesLine (s : State) (w : Wave) (l : Loc) (wide : Bool) (o : WaitAddr) (a : DWord) : Bool :=
  !o.isLocal && (match waveTeam s w with
    | none => false
    | some t => (wideScope t.pair o.scope == wide) &&
      (match translateAt s w.core t.ctx a .read with
        | .ok p => decide (p.host = l.host) && decide (p.addr / 64 = l.addr / 64)
        | .error _ => false))

/-- A queue waiting on a signal of the written line reads again (16 R392). -/
def wakeQueue (s : State) (l : Loc) (q : Queue) : Queue :=
  match q.wait with
  | none => q
  | some x => match translate s q.ctx x.addr .read with
    | .ok p => if p.host = l.host ∧ p.addr / 64 = l.addr / 64 then { q with wait := some { x with woken := true } } else q
    | .error _ => q

/-- A write of the line performed at its home: reservations on the granule are cleared, watchers at home are woken. -/
def homeEvents (s : State) (l : Loc) : State :=
  let g : Granule := { host := l.host, line := l.addr / 64 }
  { s with
    waves := s.waves.map (fun w => wakeWave (watchesLine s w l true) (dropGranule g w)),
    queues := s.queues.map (wakeQueue s l) }

/-- A store of a wave to the line enters M of its core: that wave's reservations on the granule are cleared (09 R267),
and watchers of the core's own copy are woken. -/
def enterEvents (s : State) (wave : Nat) (core : CoreNum) (l : Loc) : State :=
  let g : Granule := { host := l.host, line := l.addr / 64 }
  { s with waves := s.waves.map (fun w =>
      let w := if w.id = wave then dropGranule g w else w
      if w.core = core then wakeWave (watchesLine s w l false) w else w) }

/-! ### Bytes at home -/

/-- Whether a full 16-byte write removes a sector's poison (18 R428). -/
def unpoison (s : State) (l : Loc) (n : Nat) : State :=
  if l.host then s
  else { s with poison := s.poison.filter (fun k => !(decide (l.addr ≤ 16 * k) && decide (16 * k + 16 ≤ l.addr + n))) }

/-- Writes bytes to their home without events. -/
def putHome (s : State) (l : Loc) : List Byte → State
  | [] => s
  | b :: r =>
    let s := if l.host then { s with hostMem := cellsWrite s.hostMem l.addr b }
      else { s with mem := cellsWrite s.mem l.addr b }
    putHome s { l with addr := l.addr + 1 } r

/-- A write performed at its home slice, or at the host. -/
def homeWrite (s : State) (l : Loc) (bs : List Byte) : State :=
  (List.range ((l.addr % 64 + bs.length + 63) / 64)).foldl (fun acc k =>
      let e : Loc := { l with addr := l.addr / 64 * 64 + 64 * k }
      touchL2 (homeEvents acc e) .none e)
    (unpoison (putHome s l bs) l bs.length)

/-- The bytes at home, from a place on. -/
def homeRead (s : State) (l : Loc) (n : Nat) : List Byte :=
  (List.range n).map (fun k => homeByte s { l with addr := l.addr + k })

/-- Some sector of a range is poisoned. -/
def rangePoisoned (s : State) (l : Loc) (n : Nat) : Bool :=
  !l.host && s.poison.any (fun k => decide (l.addr < 16 * k + 16) && decide (16 * k < l.addr + n))

/-! ### Cleaning and invalidating (03 R116 to R119) -/

/-- Writes one dirty byte of a core to its home; the byte stays valid and clean. -/
def cleanByte (s : State) (c : CoreNum) (l : Loc) : State :=
  let b := ccByte s c l
  if cbDirty b then setCcByte (homeWrite s l [b.extractLsb' 0 8]) c l (mkCacheByte (cbPrivate b) false (b.extractLsb' 0 8))
  else s

def cleanEach (s : State) (c : CoreNum) : List Loc → State
  | [] => s
  | l :: r => cleanEach (cleanByte s c l) c r
/-- A clean that writes all 16 bytes of a sector removes its poison (18 R428). -/
def dropCovered (s : State) (c : CoreNum) (ls : List Loc) : State :=
  { s with poison := s.poison.filter (fun k => !(List.range 16).all (fun i =>
      let l : Loc := { host := false, addr := 16 * k + i }
      ls.contains l && cbDirty (ccByte s c l))) }
/-- Writes the dirty bytes among some places of a core to their homes. -/
def cleanKeys (s : State) (c : CoreNum) (ls : List Loc) : State := cleanEach (dropCovered s c ls) c ls

/-- Context of the line a byte lies in. -/
def lineCtx (s : State) (c : CoreNum) (l : Loc) : Option CtxNum :=
  (s.ccLines.find? (isLine c l.host (lineOf l))).map
    (fun e => e.ctx)

/-- The dirty global bytes of a core; of one context where one is given. -/
def dirtyGlobal (s : State) (c : CoreNum) (x : Option CtxNum) : List Loc :=
  ((ccOfCore s c).filter (fun e => cbDirty e.2 && !cbPrivate e.2)).map (fun e => keyLoc e.1) |>.filter
    (fun l => match x with
      | none => true
      | some x => decide (lineCtx s c l = some x))

/-- An eager clean: every dirty global byte of the core reaches its home; the core's tags go (03 R116 R119). -/
def eagerClean (s : State) (c : CoreNum) : State :=
  let s := cleanKeys s c (dirtyGlobal s c none)
  { s with tags := s.tags.filter (fun t => decide (t.core ≠ c)) }

/-- An eager clean of one context's bytes (15 R376, 16 R390). -/
def eagerCleanCtx (s : State) (c : CoreNum) (x : CtxNum) : State :=
  let s := cleanKeys s c (dirtyGlobal s c (some x))
  { s with tags := s.tags.filter (fun t => decide (t.core ≠ c) || decide (t.ctx ≠ x)) }

/-- What a core's release tags cover is cleaned eagerly, and its tags go (03 R119). -/
def cleanTagged (s : State) (c : CoreNum) : State :=
  let ts := s.tags.filter (fun t => decide (t.core = c))
  let s := cleanKeys s c (ts.flatMap (fun t => t.covers.map (fun k => { host := k.1, addr := k.2 })))
  { s with tags := s.tags.filter (fun t => decide (t.core ≠ c)) }

/-- Every non-dirty global byte of the core is invalidated (03 R116). -/
def invalidate (s : State) (c : CoreNum) : State :=
  let lo := 2 * c.toNat * 4503599627370496
  pruneLines { s with cc := s.cc.filter (fun e =>
      !(decide (lo ≤ e.1) && decide (e.1 < lo + 9007199254740992) && !cbDirty e.2 && !cbPrivate e.2)) } c

/-- The line leaves the cache of a core: only its dirty bytes are written to their home (03 R107). -/
def evictLine (core : CoreNum) (host : Bool) (line : BitVec 45) (s : State) : State :=
  let s := cleanKeys s core ((List.range 128).map (lineLoc host line))
  { s with cc := s.cc.filter (fun e => !inLine core host line e.1), ccLines := s.ccLines.filter (fun e => !isLine core host line e) }
/-- A set of 16 ways gives up its victim where it is full (03 R107 R108). The set of a line is its number modulo 128
(DESIGN CHOICE, notes/assumptions/11.md). -/
def makeRoom (s : State) (c : CoreNum) (line : BitVec 45) : State :=
  let set := s.ccLines.filter (fun e => decide (e.core = c) && decide (e.line.toNat % 128 = line.toNat % 128))
  match victimOf (fun e => e.cls) set with
  | some v => if set.length < 16 then s else evictLine c v.host v.line s
  | none => s
/-- The line of a place is the one last used: a hit, or a line made present, with its context and class (03 R108). -/
def touchLine (s : State) (c : CoreNum) (x : CtxNum) (h : Hint) (l : Loc) : State :=
  let line := lineOf l
  match s.ccLines.find? (isLine c l.host line) with
  | some e => { s with ccLines := s.ccLines.filter (fun e => !isLine c l.host line e) ++ [{ e with cls := hitClass h e.cls }] }
  | none =>
    let s := makeRoom s c line
    { s with ccLines := s.ccLines ++ [{ core := c, host := l.host, line := line, ctx := x, cls := fillClass h }] }
/-- The lines of a range. -/
def touchRange (s : State) (c : CoreNum) (x : CtxNum) (h : Hint) (l : Loc) (n : Nat) : State :=
  (List.range ((l.addr % 128 + n + 127) / 128)).foldl
    (fun acc k => touchLine acc c x h { l with addr := l.addr / 128 * 128 + 128 * k }) s

/-- Every tag that a predicate names and that is not the reader's own writes its bytes home and goes (03 R118). -/
def pullWhere (s : State) (reader : Option CoreNum) (at' : TagPlace → Bool) : State :=
  let hit := fun (t : Tag) => at' t.place && decide (some t.core ≠ reader)
  let s' := (s.tags.filter hit).foldl (fun acc t =>
    cleanKeys acc t.core (t.covers.map (fun k => { host := k.1, addr := k.2 }))) s
  { s' with tags := s'.tags.filter (fun t => !hit t) }

/-- The pull of 03 R118: every tag on the location's 64-byte line writes its bytes home and goes, but the reader's own. -/
def pullTags (s : State) (reader : Option CoreNum) (l : Loc) : State :=
  if l.host then s else pullWhere s reader (fun p => decide (p = .line (l.addr / 64)))
/-- The pull at the start of a launch that consumes records (02 R74, 03 R118). -/
def pullRecords (s : State) (reader : Option CoreNum) (ts : List DWord) : State :=
  pullWhere s reader (fun p => ts.any (fun t => decide (p = .record t)))

/-- Cleans the bytes of a core's oldest tag and removes it (03 R119). -/
def dropOldest (s : State) (c : CoreNum) : State :=
  match s.tags.filter (fun t => decide (t.core = c)) with
  | [] => s
  | t :: r =>
    let o := r.foldl (fun a b => if b.epoch < a.epoch then b else a) t
    let s := cleanKeys s c (o.covers.map (fun k => { host := k.1, addr := k.2 }))
    { s with tags := s.tags.filter (fun t => decide (t ≠ o)) }

/-- The slice a tag stands at, none for a record slot, which lies in no L2 slice (notes/assumptions/28.md). -/
def tagSlice (s : State) (p : TagPlace) : Option (BitVec 7) := match p with
  | .line n => some (homeSlice s (64 * n))
  | .record _ => none
/-- Whether a lazy release by a core at a line finds a free entry at its slice (03 R117 R119). -/
def tagRoom (s : State) (c : CoreNum) (line : Nat) : Bool :=
  s.tags.any (fun t => decide (t.core = c) && decide (t.place = .line line)) ||
    decide ((s.tags.filter (fun t => decide (tagSlice s t.place = tagSlice s (.line line)))).length < 256)

/-- A lazy release (03 R117): the core's epoch advances and its entry at the place covers the core's dirty global bytes
(of one context where one is given). A 65th entry first cleans the oldest (03 R119). -/
def lazyTag (s : State) (c : CoreNum) (x : CtxNum) (only : Option CtxNum) (place : TagPlace) : State :=
  let own := fun (t : Tag) => decide (t.core = c)
  let replaces := s.tags.any (fun t => own t && decide (t.place = place))
  let s := if !replaces && decide (64 ≤ (s.tags.filter own).length) then dropOldest s c else s
  let e := (cellsRead s.epochs c.toNat).toNat + 1
  let t : Tag := { core := c, ctx := x, epoch := e, place := place,
                   covers := (dirtyGlobal s c only).map (fun l => (l.host, l.addr)) }
  { s with epochs := cellsWrite s.epochs c.toNat (BitVec.ofNat 64 e),
           tags := s.tags.filter (fun u => !(own u && decide (u.place = place))) ++ [t] }

/-! ### Loads and stores through a column cache -/

/-- The bytes of a 16-byte sector. -/
def sectorBytes (l : Loc) : List Loc := (List.range 16).map (fun k => { l with addr := l.addr / 16 * 16 + k })
/-- A sector is valid where all its bytes are. -/
def sectorValid (s : State) (c : CoreNum) (l : Loc) : Bool := (sectorBytes l).all (fun b => cbValid (ccByte s c b))
/-- Fills the bytes of a 16-byte sector that are not valid from home (03 R107). -/
def fillSector (s : State) (c : CoreNum) (h : Hint) (priv : Bool) (l : Loc) : State :=
  (sectorBytes l).foldl (fun acc b =>
    if cbValid (ccByte acc c b) then acc else setCcByte acc c b (mkCacheByte priv false (homeByte acc b))) (touchL2 s h l)

/-- A load of one byte: a sector that is not valid is filled (03 R107). -/
def cacheByteLoad (s : State) (c : CoreNum) (h : Hint) (priv : Bool) (l : Loc) : Byte × State :=
  let s := if sectorValid s c l then s else fillSector s c h priv l
  ((ccByte s c l).extractLsb' 0 8, s)
/-- A load of n bytes of lines that are present. -/
def lineLoad (s : State) (c : CoreNum) (h : Hint) (priv : Bool) (l : Loc) : Nat → List Byte × State
  | 0 => ([], s)
  | n + 1 =>
    let r := cacheByteLoad s c h priv l
    let q := lineLoad r.2 c h priv { l with addr := l.addr + 1 } n
    (r.1 :: q.1, q.2)
/-- A plain load of n bytes. -/
def cacheLoad (s : State) (c : CoreNum) (x : CtxNum) (h : Hint) (priv : Bool) (l : Loc) (n : Nat) : List Byte × State :=
  lineLoad (touchRange s c x h l n) c h priv l n

/-- A load that would fill from a poisoned sector meets an uncorrectable error (18 R428): some byte of the range lies in
a poisoned sector that is not valid in the cache. -/
def loadPoisoned (s : State) (c : CoreNum) (l : Loc) (n : Nat) : Bool :=
  !l.host && (List.range n).any (fun k =>
    poisoned s (l.addr + k) && !sectorValid s c { l with addr := l.addr + k })

/-- Sets bytes of a core's cache. -/
def setBytes (s : State) (c : CoreNum) (priv dirty : Bool) (l : Loc) : List Byte → State
  | [] => s
  | b :: r => setBytes (setCcByte s c l (mkCacheByte priv dirty b)) c priv dirty { l with addr := l.addr + 1 } r
/-- A plain store of bytes: they become dirty in the column cache (03 R107). -/
def cacheStore (s : State) (c : CoreNum) (x : CtxNum) (h : Hint) (priv : Bool) (l : Loc) (bs : List Byte) : State :=
  setBytes (touchRange s c x h l bs.length) c priv true l bs

/-- The core's own dirty bytes of a range reach home before an access at home by the core
(DEDUCED from 03 R114, notes/assumptions/15.md). -/
def cleanRange (s : State) (c : CoreNum) (l : Loc) (n : Nat) : State :=
  cleanKeys s c ((List.range n).map (fun k => { l with addr := l.addr + k }))

/-- Sets the core's copy of a range, valid and not dirty (03 R116). -/
def setClean (s : State) (c : CoreNum) (x : CtxNum) (h : Hint) (l : Loc) (bs : List Byte) : State :=
  setBytes (touchRange s c x h l bs.length) c false false l bs

/-! ### The constant and the instruction caches of a pair (03 R103, 00 R2) -/

/-- The bytes of the sector of a constant address where the pair's cache holds it. -/
def constHeld (s : State) (pair : Nat) (l : Loc) : Option (List Byte) :=
  (s.consts.find? (fun e => decide (e.pair = pair) && decide (e.host = l.host) && decide (e.sector = l.addr / 16))).map
    (fun e => e.bytes)
/-- A sector of 16 bytes enters the pair's 16 KiB constant cache; the oldest of 1,024 goes (notes/assumptions/89.md). -/
def constFill (s : State) (pair : Nat) (h : Hint) (l : Loc) : State :=
  let e : ConstSector := { pair := pair, host := l.host, sector := l.addr / 16,
                           bytes := homeRead s { l with addr := l.addr / 16 * 16 } 16 }
  let s := touchL2 s h l
  { s with consts := keepNewest (fun x => decide (x.pair = pair)) 1024 s.consts ++ [e] }
/-- A constant load of n bytes of one sector through the cache of a pair. -/
def constLoad (s : State) (pair : Nat) (h : Hint) (l : Loc) (n : Nat) : List Byte × State :=
  let s := if (constHeld s pair l).isSome then s else constFill s pair h l
  ((((constHeld s pair l).getD []).drop (l.addr % 16)).take n, s)
/-- A constant load would fill from a poisoned sector (18 R428). -/
def constPoisoned (s : State) (pair : Nat) (l : Loc) : Bool :=
  (constHeld s pair l).isNone && !l.host && poisoned s l.addr

/-- The bytes of a bundle where the pair's instruction cache holds them. -/
def codeHeld (s : State) (core : CoreNum) (l : Loc) : Option (List Byte) :=
  (s.codes.find? (fun e => decide (e.pair = corePair core) && decide (e.host = l.host) && decide (e.line = l.addr / 32))).map
    (fun e => e.bytes)
/-- A bundle enters the instruction cache of a core's pair (notes/assumptions/27.md). -/
def codeFill (s : State) (core : CoreNum) (host : Bool) (line : Nat) : State :=
  let l : Loc := { host := host, addr := 32 * line }
  if (codeHeld s core l).isSome || rangePoisoned s l 32 || (!host && decide (s.svc.installed < l.addr + 32)) then s
  else { s with codes := s.codes ++ [{ pair := corePair core, host := host, line := line, bytes := homeRead s l 32 }] }

/-! ### Local, weight and private memory -/

/-- Team-relative address to the key of the local store (03 R99). -/
def localKey (t : Team) (x : Nat) : Nat := 524288 * corePair t.core + t.winBase + x

/-- Whether a wave's WAITADDR watches a 64-byte line of its pair's local store. -/
def watchesLocal (s : State) (w : Wave) (key : Nat) (o : WaitAddr) (a : DWord) : Bool :=
  o.isLocal && (match waveTeam s w with
    | none => false
    | some t => decide (localKey t a.toNat / 64 = key / 64))

/-- Bytes written at the banks; waiters on the line are woken (09 R270). -/
def localWrite (s : State) (key : Nat) (bs : List Byte) : State :=
  let s := { s with lstore := cellsWriteLE s.lstore key (leNat bs) bs.length }
  { s with waves := s.waves.map (fun w => wakeWave (watchesLocal s w key) w) }
def localRead (s : State) (key n : Nat) : List Byte := (List.range n).map (fun k => cellsRead s.lstore (key + k))

/-- Key of weight address w of a context's window on a stack (03 R104). -/
def weightKey (s : State) (k : StackNum) (c : CtxNum) (w : Nat) : Nat :=
  402653184 * k.toNat + (getCtx s c).wbase.toNat + w
/-- Size of a context's weight window in bytes. -/
def weightSize (s : State) (c : CtxNum) : Nat := (getCtx s c).wsize.toNat
/-- Bank of a weight-store address: bits [15:12]; a window's base is a multiple of 64 KiB (03 R104). -/
def weightBank (w : Nat) : Nat := w / 4096 % 16

/-- Global virtual address of word a / 4 of a lane's private memory (03 R101). -/
def privAddr (t : Team) (tlane a : Nat) : DWord := BitVec.ofNat 64 (t.pbase + 4 * (t.nl * (a / 4) + tlane) + a % 4)

/-- Position of a stack in its 64 µs refresh cycle in ns, and the bank it refreshes (03 R105). At 1.5 GHz a master clock
is two thirds of a nanosecond. -/
def refreshPhase (s : State) (k : StackNum) : Nat := (masterClock s k + (getStack s k).refresh) * 2 / 3 % 64000
def refreshBank (s : State) (k : StackNum) : Nat := refreshPhase s k / 4000

/-- The stack that serves a weight bank to a stack: its own, or the other where the bank is retired (18 R427). -/
def bankRetired (s : State) (k : StackNum) (b : Nat) : Bool := s.svc.retBanks.getLsbD (16 * k.toNat + b)
def servingStack (s : State) (k : StackNum) (b : Nat) : StackNum := if bankRetired s k b then ~~~k else k
/-- A bank that no stack serves, or that firmware has powered off (03 R106, 18 R427). -/
def bankGated (s : State) (k : StackNum) (b : Nat) : Bool :=
  (bankRetired s k b && bankRetired s (~~~k) b) ||
    s.svc.gatedBanks.contains (BitVec.ofNat 5 (16 * (servingStack s k b).toNat + b))
/-- The bank of a weight address is in its refresh window where the stack reads it. -/
def bankRefreshing (s : State) (k : StackNum) (b : Nat) : Bool := decide (refreshBank s (servingStack s k b) = b)

/-- Weight-store bytes as a stack reads them. -/
def weightByte (s : State) (k : StackNum) (c : CtxNum) (w : Nat) : Byte :=
  let a := (getCtx s c).wbase.toNat + w
  cellsRead s.wstore (402653184 * (servingStack s k (weightBank a)).toNat + a)
def weightRead (s : State) (k : StackNum) (c : CtxNum) (w n : Nat) : List Byte :=
  (List.range n).map (fun j => weightByte s k c (w + j))
/-- A weight-store write: both stacks (03 R104). -/
def weightWrite (s : State) (c : CtxNum) (w : Nat) (bs : List Byte) : State :=
  let a := (getCtx s c).wbase.toNat + w
  { s with wstore := cellsWriteLE (cellsWriteLE s.wstore a (leNat bs) bs.length) (402653184 + a) (leNat bs) bs.length }

/-- Powered-off local store or L2 slice (03 R106). -/
def pairGated (s : State) (pair : Nat) : Bool := s.svc.gatedPairs.contains pair
def locGated (s : State) (l : Loc) : Bool := !l.host && s.svc.gatedSlices.contains (homeSlice s l.addr)

/-! ### Accesses of agents other than waves -/

/-- A physical address of device memory exists (16 R382). -/
def physOk (s : State) (a n : Nat) : Bool := decide (a + n ≤ s.svc.installed)

/-- Bytes through the column cache of a core for an engine, a copy unit or the trap logic: none on a fault with its
FKIND (03 R123). -/
def vRead (s : State) (core : CoreNum) (c : CtxNum) (h : Hint) (va : DWord) (n : Nat) :
    Except (BitVec 3) (List Byte × State) := do
  let l ← translateAt s core c va .read
  return cacheLoad s core c h false l n
def vWrite (s : State) (wave : Nat) (core : CoreNum) (c : CtxNum) (h : Hint) (va : DWord) (bs : List Byte) :
    Except (BitVec 3) State := do
  let l ← translateAt s core c va .write
  return enterEvents (cacheStore s core c h false l bs) wave core l

end Sys2Proof.Machine
end

