-- ==== Sys2Proof/Machine/Ops.lean ====
section
/-! DEFINITION. The named operations over registers, paths, waves and teams: how a step ends, interrupts and the fault log
(16 R384, 15 R375), slots and the spill stack (01 R27 to R34), flagged operations (07 R203), barriers (03 R124), the end
of a wave and of a team (10 R287 R300 R306), and taking a trap (15 R363 to R371). -/

namespace Sys2Proof.Machine

/-! ### How a step ends -/

/-- The outcome of a meaning that may have met a physical address that does not exist. -/
def finish (s : State) : Host.Outcome State Fault Refusal :=
  match s.badAddr with
  | some a => .fault (.noSuchAddress a)
  | none => .next s

/-- A write of the device at a physical address of device memory. -/
def physWrite (s : State) (a : Nat) (bs : List Byte) : State :=
  if physOk s a bs.length then homeWrite s { host := false, addr := a } bs else { s with badAddr := some a }

/-- A fresh free value (notes/assumptions/7.md). -/
def freeVal (s : State) : Word × State := (Config.freeWord s.freeCount, { s with freeCount := s.freeCount + 1 })

/-- A source of vector v sets its bit and sends its vector unless IRQMASK suppresses it (16 R384). -/
def irq (s : State) (v : Nat) : State :=
  { s with irqstat := s.irqstat ||| BitVec.twoPow 64 v,
           msix := if s.irqmask.getLsbD v then s.msix else BitVec.ofNat 6 v :: s.msix }

/-- A 32-bit counter that stops at 0xFFFF_FFFF (15 R356). -/
def satCount (x : Word) (n : Nat) : Word := if x.toNat + n < 4294967296 then x + BitVec.ofNat 32 n else 0xFFFFFFFF

/-- 64-bit words as bytes (00 R9). -/
def dwordBytes (ws : List DWord) : List Byte := ws.flatMap (fun w => leBytes w.toNat 8)
/-- 32-bit words as bytes. -/
def wordBytes (ws : List Word) : List Byte := ws.flatMap (fun w => leBytes w.toNat 4)
/-- A field of bits of a wide value, as bytes. -/
def bitsBytes {w : Nat} (x : BitVec w) (n : Nat) : List Byte := leBytes x.toNat n
/-- The little-endian 32-bit word, and 64-bit word, at an offset of a byte list. -/
def wordAt (bs : List Byte) (o : Nat) : Word := BitVec.ofNat 32 (leNat ((bs.drop o).take 4))
def dwordAt (bs : List Byte) (o : Nat) : DWord := BitVec.ofNat 64 (leNat ((bs.drop o).take 8))

/-! ### Teams, nodes and waves -/

/-- The waves of a team. -/
def teamWaves (s : State) (t : Nat) : List Wave := s.waves.filter (fun w => decide (w.team = t))
/-- A wave that still holds its place (01 R44). -/
def waveLive (w : Wave) : Bool := decide (w.status = .running) || decide (w.status = .trapped)
/-- The wave of a number in its team: the live one, or one that has exited. -/
def waveOfNum (s : State) (t : Nat) (n : Nat) : Option Wave :=
  match (teamWaves s t).find? (fun w => decide (w.num.toNat = n) && waveLive w) with
  | some w => some w
  | none => (teamWaves s t).find? (fun w => decide (w.num.toNat = n) && decide (w.status ≠ .retired))
def blankNode : Node :=
  { kind := 0, prio := 0, pair := false, outs := 0, rsize := 16, twaves := 1, trec := 1, regs := 8, lstore := 0, bars := 0,
    quad := 0, fmt := 0, gtime := 0, qcap := 1, const := 0, emitmax := [], sig := 0, entry := 0 }
def runNode (r : Run) (n : BitVec 8) : Node := r.nodes.getD n.toNat blankNode
def teamNode (s : State) (t : Team) : Node := match findRun s t.run with
  | some r => runNode r t.node
  | none => blankNode
/-- A wave is in its handler. -/
def inHandler (w : Wave) : Bool := w.frame.isSome
/-- A team that pre-emption or rotation has stopped, or whose context is SAVED: nothing of it runs (01 R44, 15 R355 R376). -/
def teamStopped (s : State) (t : Team) : Bool := t.stopping || decide ((getCtx s t.ctx).state = .saved)
def waveStopped (s : State) (w : Wave) : Bool := match findTeam s w.team with
  | some t => teamStopped s t
  | none => false
/-- A wave whose work goes on: it has not been stopped. -/
def goesOn (s : State) (wid : Nat) : Bool := match findWave s wid with
  | some w => !waveStopped s w && decide (w.status ≠ .saved) && decide (w.status ≠ .swapped)
  | none => false
/-- Changes every wave of a team. -/
def mapTeamWaves (s : State) (t : Nat) (f : Wave → Wave) : State :=
  { s with waves := s.waves.map (fun w => if w.team = t then f w else w) }

/-- A progress act of a wave (01 R58). -/
def progress (w : Wave) : Wave := { w with spin := 0, backMark := false }

/-! ### Slots and the spill stack -/

/-- Sets the path of a populated slot, keeping its state. -/
def mapPath (f : Path → Path) : SlotState → SlotState
  | .empty => .empty
  | .ready p => .ready (f p)
  | .held p => .held (f p)
  | .parked p w => .parked (f p) w

/-- The most recently pushed path entry, and the stack without it (01 R31). -/
def popPath : List StackEntry → Option (Path × List StackEntry)
  | [] => none
  | e :: r =>
    if e.isJoin then (popPath r).map (fun x => (x.1, e :: x.2))
    else some ({ pc := e.pc, mask := e.mask, fmt := e.fmt, jpc := e.jpc, jv := e.jv }, r)

/-- A path as a spill-stack entry. -/
def pathEntry (p : Path) : StackEntry :=
  { isJoin := false, pc := p.pc, mask := p.mask, arrv := 0, fmt := p.fmt, jpc := p.jpc, jv := p.jv }

/-- An empty slot takes the most recently pushed path entry (01 R31). -/
def refillSlot (w : Wave) (k : PcSlot) : Wave :=
  match getSlot w k with
  | .empty => (match popPath w.stack with
    | some (p, r) => setSlot { w with stack := r } k (.ready p)
    | none => w)
  | _ => w

/-- The current slot when the current one is empty and the other is not (01 R28). -/
def fixCur (w : Wave) : Wave :=
  match getSlot w w.cur, getSlot w (otherSlot w.cur) with
  | .empty, .empty => w
  | .empty, _ => { w with cur := otherSlot w.cur, fair := 0 }
  | _, _ => w

/-- A slot that has emptied refills (01 R31). -/
def refill (w : Wave) (k : PcSlot) : Wave := fixCur (refillSlot (refillSlot w k) (otherSlot k))

/-- The merged path of a join entry (01 R30). -/
def mergedPath (e : StackEntry) : Path := { pc := e.pc + 32, mask := e.arrv, fmt := e.fmt, jpc := e.jpc, jv := e.jv }

/-- A path goes to an empty slot, or onto the stack (01 R32 step 2). -/
def admitPath (w : Wave) (p : Path) : Wave :=
  match w.slotA, w.slotB with
  | .empty, _ => { w with slotA := .ready p }
  | _, .empty => { w with slotB := .ready p }
  | _, _ => { w with stack := pathEntry p :: w.stack }

/-- Removes lanes from every join entry; entries left with MASK 0 are split off where they have arrivals, and dropped
where they have none (01 R32 steps 1 to 3). -/
def shedLanes (m : Mask) : List StackEntry → List StackEntry × List StackEntry
  | [] => ([], [])
  | e :: r =>
    let q := shedLanes m r
    if e.isJoin then
      let e' := { e with mask := e.mask &&& ~~~m }
      if e'.mask = 0 then (if e'.arrv = 0 then q else (q.1, e' :: q.2)) else (e' :: q.1, q.2)
    else (e :: q.1, q.2)

/-- EXIT of the path in a slot (01 R32), without the end of the wave. -/
def exitPath (w : Wave) (k : PcSlot) : Wave :=
  match slotPath (getSlot w k) with
  | none => w
  | some p =>
    let q := shedLanes p.mask w.stack
    let w := { w with stack := q.1, latch := w.latch.filter (fun l => !inMask p.mask l.lane.toNat) }
    let w := q.2.foldl (fun acc e => admitPath acc (mergedPath e)) w
    refill (setSlot w k .empty) k

/-- Neither slot nor the spill stack holds a lane (01 R32). -/
def noLanes (w : Wave) : Bool := decide (w.slotA = .empty) && decide (w.slotB = .empty)

/-! ### Coefficients (05 R156, 08 R253) -/

/-- The writes of coefficient k in a clock, where there are any. -/
def coefWritten (t : Team) (k clk : Nat) : Option CoefWrite := t.kwrites.find? (fun m => decide (m.ix = k) && decide (m.clk = clk))
/-- A wave writes coefficient k: of two writes in one clock the lower wave number's stands (08 R253). -/
def writeCoef (k clk : Nat) (num : BitVec 5) (x : Word) (t : Team) : Team :=
  match coefWritten t k clk with
  | some m => if num.toNat ≤ m.num.toNat then
      { t with kregs := cellsWrite t.kregs k x,
               kwrites := t.kwrites.map (fun y => if y = m then { m with num := num } else y) }
    else t
  | none => { t with
      kregs := cellsWrite t.kregs k x,
      kwrites := { ix := k, clk := clk, num := num, old := cellsRead t.kregs k } :: t.kwrites.filter (fun y => decide (y.ix ≠ k)) }
/-- The coefficients as a matrix operation copies them: a write of the same clock comes later (08 R253). -/
def coefsAt (t : Team) (clk : Nat) : List Word :=
  (List.range 16).map (fun k => match coefWritten t k clk with
    | some m => m.old
    | none => cellsRead t.kregs k)

/-! ### Barriers (03 R124, 09 R277 to R279) -/

/-- A slot parked on a barrier sees its phase complete. -/
def observeSlot (b : Bar) : SlotState → SlotState
  | .parked p (.barrier c d) => .parked p (.barrier c (d || decide (c = b)))
  | x => x
def observeWait (b : Bar) : Option WaitFor → Option WaitFor
  | some (.barrier c d) => some (.barrier c (d || decide (c = b)))
  | x => x
def parkedOn (b : Bar) : SlotState → Bool
  | .parked _ (.barrier c _) => decide (c = b)
  | _ => false
def waitsOn (b : Bar) : Option WaitFor → Bool
  | some (.barrier c _) => decide (c = b)
  | _ => false
/-- Barrier bits of a wave. -/
def barBit (x : BitVec 16) (b : Bar) : Bool := x.getLsbD b.toNat
def putBarBit (x : BitVec 16) (b : Bar) (v : Bool) : BitVec 16 :=
  if v then x ||| BitVec.twoPow 16 b.toNat else x &&& ~~~(BitVec.twoPow 16 b.toNat)

/-- What the completion of a phase does to a wave (03 R124). -/
def phaseWave (b : Bar) (w : Wave) : Wave :=
  let parked := parkedOn b w.slotA || parkedOn b w.slotB || waitsOn b w.saveA || waitsOn b w.saveB
  { w with awaited := putBarBit w.awaited b (!barBit w.awaited b),
           arrived := putBarBit w.arrived b false,
           pendingBit := if barBit w.arrived b && !parked then putBarBit w.pendingBit b true else w.pendingBit,
           slotA := observeSlot b w.slotA, slotB := observeSlot b w.slotB,
           saveA := observeWait b w.saveA, saveB := observeWait b w.saveB }

def barExpected (t : Team) (b : Bar) : Nat := (cellsRead t.barExpect b.toNat).toNat
def barCount (t : Team) (b : Bar) : Nat := (cellsRead t.barCount b.toNat).toNat
def setBarExpect (t : Team) (b : Bar) (n : BitVec 8) : Team := { t with barExpect := cellsWrite t.barExpect b.toNat n }
def setBarCount (t : Team) (b : Bar) (n : BitVec 8) : Team := { t with barCount := cellsWrite t.barCount b.toNat n }

/-- A copy that waits for the phase of its barrier to complete goes on (09 R273). -/
def copyPhase (b : Bar) (c : CopyOp) : CopyOp :=
  if c.entry.extractLsb' 89 5 = b then { c with waitPhase := false } else c

/-- Completes the phase of a barrier whose arrival count has reached a non-zero expected count (03 R124). -/
def phaseCheck (s : State) (tid : Nat) (b : Bar) : State :=
  match findTeam s tid with
  | none => s
  | some t =>
    if barCount t b = barExpected t b ∧ barExpected t b ≠ 0 then
      mapTeamWaves (setTeam s { setBarCount t b 0 with
        barPhase := putBarBit t.barPhase b (!barBit t.barPhase b), copies := t.copies.map (copyPhase b) }) tid (phaseWave b)
    else s

/-- One arrival at a barrier (03 R124). -/
def barArrival (s : State) (tid : Nat) (b : Bar) : State :=
  phaseCheck (updTeam s tid (fun t => setBarCount t b (cellsRead t.barCount b.toNat + 1))) tid b

/-- A wave's arrival: nothing where its arrived bit is 1 (03 R124). -/
def waveArrives (s : State) (wid : Nat) (b : Bar) : State :=
  match findWave s wid with
  | none => s
  | some w =>
    if barBit w.arrived b then s
    else barArrival (setWave s { w with arrived := putBarBit w.arrived b true }) w.team b

/-- The loss of one member by a barrier: its expected count, and its arrival count where the wave had arrived (09 R279).
An expected count of 0 gives no stated result: it becomes a free value (notes/assumptions/7.md). -/
def barLoses (s : State) (tid : Nat) (arrived : Bool) (b : Bar) : State :=
  match findTeam s tid with
  | none => s
  | some t =>
    let r := if barExpected t b = 0 then freeVal s else (BitVec.ofNat 32 (barExpected t b - 1), s)
    let t := setBarExpect t b (r.1.extractLsb' 0 8)
    let t := if arrived then setBarCount t b (cellsRead t.barCount b.toNat - 1) else t
    phaseCheck (setTeam r.2 t) tid b

/-- The barriers of a team lose a wave. -/
def barLosesAll (s : State) (w : Wave) : Nat → State
  | 0 => s
  | n + 1 =>
    let s := barLosesAll s w n
    let b : Bar := BitVec.ofNat 5 n
    barLoses s w.team (barBit w.arrived b) b

/-! ### Input records and reservations (02 R83 R84 R87) -/

/-- Full size of an edge's cycle reserve: 32 x EMITMAX of its source port (02 R87). -/
def reserveSize (r : Run) (edge : Nat) : Nat :=
  match r.edges[edge]? with
  | none => 0
  | some e => if e.cyc then 32 * (r.nodes.getD e.src blankNode).emitmax.getD e.port 0 else 0

/-- Spill slots of an edge that are freed refill its reserve up to its full size (02 R87). -/
def refillReserve (r : Run) (stk : StackNum) (edge : Option Nat) (n : Nat) : Run :=
  match edge with
  | none => r
  | some e => { r with reserves := r.reserves.map (fun v =>
      if v.stk = stk ∧ v.edge = e then { v with left := min (v.left + n) (reserveSize r e) } else v) }

/-- The edge that leaves a node on a port. -/
def portEdgeFrom (src port : Nat) : Nat → List Edge → Option Nat
  | _, [] => none
  | k, e :: r => if e.src = src ∧ e.port = port then some k else portEdgeFrom src port (k + 1) r
def portEdge (r : Run) (src : BitVec 8) (port : Nat) : Option Nat := portEdgeFrom src.toNat port 0 r.edges

/-- Returns the reservation of port p. -/
def returnPort (r : Run) (t : Team) (p : Nat) (v : PortRsv) : Run :=
  refillReserve r t.stk (portEdge r t.node p) (v.spill + v.cycle)
def returnPorts (r : Run) (t : Team) : Nat → List PortRsv → Run
  | _, [] => r
  | p, v :: vs => returnPorts (returnPort r t p v) t (p + 1) vs

/-- A team's unused reservations return (02 R83); the appended counts stay (02 R82). -/
def returnRsv (s : State) (tid : Nat) : State :=
  match findTeam s tid with
  | none => s
  | some t =>
    let s := updRun s t.run (fun r => returnPorts r t 0 t.rsv)
    setTeam s { t with rsv := t.rsv.map (fun v => { v with store := 0, spill := 0, cycle := 0 }) }

/-- Records dropped (02 R84). -/
def countDrops (s : State) (c : CtxNum) (n : Nat) : State := updCtx s c (fun x => { x with droprec := satCount x.droprec n })

/-- A record's slot is freed. -/
def freeRec (s : State) (r : Rec) : State :=
  if r.spilled then updRun s r.run (fun g => refillReserve g r.slot r.edge 1) else s

/-- A payload slot of a ring is freed (02 R96). -/
def freePayload (s : State) (task mesh : Nat) : State :=
  updTeam s task (fun t => { t with rings := t.rings.map (fun r =>
    { r with pays := r.pays.filter (fun p => decide (p.team ≠ some mesh)) }) })

/-- A team goes: its waves, window, barriers, tiles and side memory are free. -/
def dropTeam (s : State) (tid : Nat) : State :=
  { s with waves := s.waves.filter (fun w => decide (w.team ≠ tid)), teams := s.teams.filter (fun t => decide (t.id ≠ tid)) }
def ringsEmpty (t : Team) : Bool := t.rings.all (fun g => g.pays.isEmpty)
/-- A team that is DONE or FAULTED. -/
def teamEnded (t : Team) : Bool := decide (t.status = .done) || decide (t.status = .faulted)
/-- A task team that has ended goes when its rings are empty (02 R96); until then the room and the ring stand. -/
def retireTask (s : State) (tid : Nat) : State :=
  match findTeam s tid with
  | none => s
  | some t =>
    if teamEnded t && ringsEmpty t then dropTeam s tid
    else if teamEnded t then { s with waves := s.waves.filter (fun w => decide (w.team ≠ tid)) }
    else s

/-- One team of a grid has come to its end: the walk it belongs to, and whether it was the last (02 R84). -/
def gridTeams (r : Rec) : Nat :=
  (wordAt r.bytes 0).toNat * (wordAt r.bytes 4).toNat * (wordAt r.bytes 8).toNat

def endGridTeam (s : State) (t : Team) (drop : Bool) : State :=
  match findRun s t.run with
  | none => s
  | some g =>
    let hit := fun (x : GridWalk) => decide (x.stk = t.stk) && decide (x.node = t.node) && decide (x.launch = t.launch)
    match g.grids.find? hit with
    | none => s
    | some x =>
      let y := { x with ended := x.ended + 1, bad := x.bad || drop }
      if gridTeams y.record ≤ y.ended then
        let s := setRun s { g with grids := g.grids.filter (fun z => !hit z) }
        let s := freeRec s y.record
        if y.bad then countDrops s t.ctx 1 else s
      else setRun s { g with grids := g.grids.map (fun z => if hit z then y else z) }

/-- A team's input records are freed; dropped and counted where the team is FAULTED (02 R84, 02 R96). -/
def releaseInputs (s : State) (tid : Nat) (drop : Bool) : State :=
  match findTeam s tid with
  | none => s
  | some t =>
    if t.recsHeld then
      let s := setTeam s { t with recsHeld := false }
      match t.task with
      | some task =>
        let s := retireTask (freePayload s task.1 t.id) task.1
        if drop then countDrops s t.ctx 1 else s
      | none =>
        if (teamNode s t).kind = 2 then endGridTeam s t drop
        else
          let s := t.batch.foldl freeRec s
          if drop then countDrops s t.ctx t.batch.length else s
    else s

/-- The effect of TEAMDONE (10 R299): the first takes effect, later ones do nothing. -/
def teamDone (s : State) (tid : Nat) (drop : Bool) : State :=
  let s := returnRsv (releaseInputs s tid drop) tid
  updTeam s tid (fun t => { t with tdone := true })

/-! ### The fault log (15 R375) -/

def causeCode : Cause → BitVec 8
  | .illegal => 0x01 | .privilege => 0x02 | .regBounds => 0x03 | .misTarget => 0x04 | .illConvergence => 0x05
  | .stackOverflow => 0x06 | .regAllotment => 0x07 | .emissionOverrun => 0x08 | .recordAccess => 0x09
  | .engineCounter => 0x0A | .barrierState => 0x0B | .matrixDivergence => 0x0C | .engineError => 0x0D
  | .software => 0x0E | .breakpoint => 0x0F | .translation => 0x10 | .misaligned => 0x11 | .localBounds => 0x12
  | .privateBounds => 0x13 | .weightBounds => 0x14 | .gated => 0x15 | .hostAtomic => 0x16 | .softError => 0x17
  | .quota => 0x18
def delivCode : Deliv → BitVec 2
  | .issue => 0 | .flag => 1 | .boundary => 2 | .completion => 3

/-- Header word 0 (15 R367). -/
def headerWord0 (t : TrapInfo) (nent : BitVec 6) (exited : Bool) : DWord :=
  (0 : BitVec 6) ++ nent ++ t.flane ++ t.fkind ++ bit exited ++ delivCode t.deliv ++ t.slot ++ t.code ++ (0 : BitVec 19) ++
    causeCode t.cause
/-- Header word 16. -/
def headerWord16 (t : Team) : DWord := t.teamIdx ++ t.launch
/-- Header word 17. -/
def headerWord17 (t : Team) (w : Wave) : DWord :=
  (0 : BitVec 18) ++ t.ctx ++ t.node ++ (0 : BitVec 1) ++ w.part ++ w.wslot ++ (0 : BitVec 1) ++ w.core ++
    BitVec.ofNat 8 (w.allot.toNat / 8) ++ (0 : BitVec 3) ++ w.num

/-- A fault-log record of 64 bytes. -/
structure LogRec where
  cause : DWord
  faddr : DWord
  pc : Pc
  team : DWord
  ids : DWord
  nested : Bool
  halted : Bool
deriving DecidableEq, Repr

def logBytes (r : LogRec) (seq : Nat) : List Byte :=
  dwordBytes [r.cause, r.faddr, r.pc.setWidth 64, r.team,
    (0 : BitVec 14) ++ bit r.halted ++ bit r.nested ++ r.ids.extractLsb' 0 48, BitVec.ofNat 64 seq, 0, 0]

/-- Writes a record at FLHEAD, or counts it lost (15 R375); each record raises the fault interrupt. -/
def writeLog (s : State) (c : CtxNum) (r : LogRec) : State :=
  let x := getCtx s c
  let n := x.flcount.toNat
  if n = 0 then s
  else if (x.flhead.toNat + 1) % n = x.fltail.toNat % n then
    setCtx s c { x with loglost := satCount x.loglost 1 }
  else
    let s := physWrite s (x.flbase.toNat + 64 * x.flhead.toNat) (logBytes r x.flSeq)
    irq (updCtx s c (fun x => { x with flhead := BitVec.ofNat 16 ((x.flhead.toNat + 1) % n), flSeq := x.flSeq + 1 })) 33

/-- The record of a trap or fault of a wave (15 R365 R374). -/
def trapRecord (t : Team) (w : Wave) (i : TrapInfo) (exited nested halted : Bool) : LogRec :=
  { cause := headerWord0 i 0 exited, faddr := i.faddr, pc := i.tpc, team := headerWord16 t, ids := headerWord17 t w,
    nested := nested, halted := halted }

/-- A fault of work that outlives its wave (15 R374): results discarded, one record, the team ends FAULTED. -/
def exitedFault (s : State) (w : Wave) (i : TrapInfo) : State :=
  match findTeam s w.team with
  | none => s
  | some t => writeLog (updTeam s t.id (fun t => { t with faultedMark := true })) t.ctx (trapRecord t w i true false true)

/-! ### The end of a wave (10 R287, 01 R26) -/

/-- A frame of a context is free again. -/
def freeFrame (s : State) (c : CtxNum) (f : Option (BitVec 12)) : State :=
  match f with
  | none => s
  | some f => updCtx s c (fun x => { x with frames := x.frames.filter (fun g => decide (g ≠ f)) })

/-- Tokens that a wave's HELD bundles hold go back with its charge windows. -/
def dropHeld (s : State) (w : Wave) : State :=
  if w.heldA + w.heldB = 0 then s
  else updWave (updCluster s (coreCluster w.core) (fun c =>
    { c with windows := c.windows ++ [{ tokens := w.heldA + w.heldB, ends := 0 }] })) w.id (fun w => { w with heldA := 0, heldB := 0 })

/-- The trap a faulted operation raises: flag delivery at the bundle that waits, boundary where no flag is named. -/
def opTrap (p : PendOp) (f : OpFault) (d : Deliv) (resume : Pc) (tpc : Pc) : TrapInfo :=
  { cause := f.cause, code := if f.cause = .translation then (0 : BitVec 9) ++ f.fkind else 0, deliv := d,
    slot := p.slotn, fkind := f.fkind, flane := f.lane, faddr := f.addr, tpc := tpc, resume := resume, iter := 0, res := 0 }

/-- A store: an entry of the store queue. -/
def isStore : Instr → Bool
  | .stG _ => true | .stL _ => true | .stP _ => true | _ => false

/-- A fault of an operation has settled: its flags show it, or a boundary fault waits. -/
def faultSettled (w : Wave) (p : PendOp) : Bool :=
  if p.flags.isEmpty then w.bfaults.any (fun i => decide (i.tpc = p.pc) && decide (i.slot = p.slotn))
  else p.flags.all (fun f => decide (cellsRead w.flags f.toNat = flagFaulted))
where
  /-- FAULTED (08 R252). -/
  flagFaulted : BitVec 2 := 2
/-- An operation whose fault its wave's end reports: a store that has stopped the queue, or one whose fault has settled. A fault
that has not settled is reported when it does (15 R374). -/
def endsFaulted (w : Wave) (p : PendOp) : Bool := p.fault.isSome && (isStore p.instr || faultSettled w p)
/-- The faults of work that its wave's end leaves unreported (10 R287, 15 R374): those that wait for a bundle boundary, and those
of FAULTED flags. -/
def endFaults (w : Wave) : List TrapInfo :=
  w.bfaults ++ w.laterFaults ++ w.pend.filterMap (fun p =>
    if endsFaulted w p && !p.flags.isEmpty then p.fault.map (fun f => opTrap p f .boundary 0 p.pc) else none)

/-- A wave without lanes becomes EXITED: its slots are empty, its frame is freed, its barriers lose it. A fault of its work that
waits is reported, and the stores behind one that faulted are discarded (15 R374). -/
def endWave (s : State) (wid : Nat) : State :=
  match findWave s wid with
  | none => s
  | some w =>
    if waveLive w then
      let n := match findTeam s w.team with
        | some t => t.nbars
        | none => 0
      let s := freeFrame s (waveCtx s w) w.frame
      let s := setWave (dropHeld s w) { w with
        heldA := 0, heldB := 0, status := .exited, slotA := .empty, slotB := .empty, stack := [], growA := 0, growB := 0, latch := [], frame := none,
        frameWait := none, replayOps := [], saveA := none, saveB := none, bfaults := [], laterFaults := [], candSince := none,
        dearSince := none, starving := false, pend := w.pend.filter (fun p => !endsFaulted w p),
        sq := if w.pend.any (fun p => isStore p.instr && p.fault.isSome) then [] else w.sq }
      barLosesAll ((endFaults w).foldl (fun acc i => exitedFault acc w i) s) w n
    else s

/-- EXIT by the path of a slot, and the end of the wave where no lane is left. It is a progress act where a lane that is no helper
lane exits (01 R58, 06 R199). -/
def exitSlot (s : State) (wid : Nat) (k : PcSlot) : State :=
  let s := updWave s wid (fun w =>
    if ((slotPath (getSlot w k)).map (fun p => p.mask &&& ~~~w.helper)).getD 0 = 0 then exitPath w k else progress (exitPath w k))
  match findWave s wid with
  | some w => if noLanes w then endWave s wid else s
  | none => s

/-- Every wave of a team ends at once (10 R300). -/
def endWaves (s : State) (tid : Nat) : State :=
  (teamWaves s tid).foldl (fun acc w => endWave acc w.id) s

/-! ### A team that ends FAULTED (10 R306, 15 R365) -/

/-- HALTW: every wave ends, input records are dropped, reservations return; the team is FAULTED when its remaining work
ends (02 R93). -/
def endTeamFaulted (s : State) (tid : Nat) : State :=
  let s := endWaves s tid
  let s := updTeam s tid (fun t => { t with faultedMark := true })
  teamDone s tid true

/-! ### Flags and flagged operations (07 R203) -/

def flagClear : BitVec 2 := 0
def flagPending : BitVec 2 := 1
def flagFaulted : BitVec 2 := 2
def setFlag (w : Wave) (f : BitVec 4) (x : BitVec 2) : Wave := { w with flags := cellsWrite w.flags f.toNat x }
def setFlags (w : Wave) (x : BitVec 2) : List (BitVec 4) → Wave
  | [] => w
  | f :: r => setFlags (setFlag w f x) x r
/-- The flags that the set fields of the bundle name for the slot under way. -/
def setsHere (s : State) : List (BitVec 4) :=
  (s.iss.sets.filter (fun e => decide (e.1 = s.iss.pipe))).map (fun e => e.2)

/-- An operation as it issues: its encoding, its encoding with ix added, lane set and source values (15 R370). -/
def newPend (s : State) (i : Instr) (lanes : Mask) : PendOp :=
  let w := srcWave s
  { seq := (curWave s).opSeq, raw := i, ix := w.ix, instr := resolve w.ix.toNat i, pc := s.iss.pc, slotn := s.iss.pipe,
    lanes := lanes, mask := (issPath s).mask, fmt := (issPath s).fmt, flags := setsHere s, svals := captureS w i,
    vals := allLanes.map (fun l => if inMask lanes l then captureV w i l else []), tlane := w.tlane, helper := w.helper,
    begun := false, todo := [], performed := false, results := [], fault := none, noFpx := false, left := 0, replayed := false }

/-- Issues a flagged-result operation: its flags become PENDING. -/
def issuePend (s : State) (p : PendOp) : State :=
  updCur s (fun w => setFlags { w with pend := w.pend ++ [p], opSeq := w.opSeq + 1 } flagPending p.flags)

/-- Replaces the outstanding operation of a sequence number. -/
def replacePend (p : PendOp) : List PendOp → List PendOp
  | [] => []
  | q :: r => if q.seq = p.seq then p :: r else q :: replacePend p r
def dropPend (seq : Nat) (l : List PendOp) : List PendOp := l.filter (fun q => decide (q.seq ≠ seq))
def findPend (seq : Nat) (l : List PendOp) : Option PendOp := l.find? (fun q => decide (q.seq = seq))

/-- The results that still reach their registers: flags that a WRSR FPX has replaced do not (08 R253). -/
def liveResults (p : PendOp) : List Wr :=
  p.results.filter (fun r => match r with
    | .fpx _ => !p.noFpx
    | _ => true)
/-- A performed operation completes: results written (discarded where the wave has exited), flags CLEAR. -/
def completeOp (w : Wave) (p : PendOp) : Wave :=
  let w := if decide (w.status = .exited) || decide (w.status = .retired) then w else applyWrs w (liveResults p)
  { setFlags w flagClear p.flags with pend := dropPend p.seq w.pend }

/-- A boundary fault of an operation: it waits for the wave's next bundle boundary, or, where it is of a counter-class operation
that a path issued before its wave entered the handler, until the handler is left (15 R363 R366; DESIGN CHOICE,
notes/assumptions/56.md). -/
def raiseBoundary (w : Wave) (seq : Nat) (i : TrapInfo) : Wave :=
  if inHandler w ∧ seq < w.trapSeq then { w with laterFaults := w.laterFaults ++ [i] }
  else { w with bfaults := w.bfaults ++ [i] }

/-! ### The frame and the wave image (15 R367 to R370 R378) -/

/-- A path field or an entry, bits [159:0] (01 R34). -/
def pathBits (isJoin : Bool) (pc : Pc) (mask : Mask) (fmt : BitVec 14) (jpc : Pc) (jv : Bool) : BitVec 160 :=
  bit jv ++ jpc.extractLsb' 5 47 ++ bit isJoin ++ pc.extractLsb' 5 47 ++ (0 : BitVec 18) ++ fmt ++ mask
def entryBits (e : StackEntry) : BitVec 256 :=
  (0 : BitVec 64) ++ (if e.isJoin then e.arrv else 0) ++ pathBits e.isJoin e.pc e.mask e.fmt e.jpc e.jv
/-- STATE of a path field (15 R368). -/
def slotCode : SlotState → BitVec 2
  | .empty => 0 | .ready _ => 1 | .parked _ _ => 2 | .held _ => 3
def pathField (x : SlotState) (cur : Bool) : BitVec 256 :=
  let p := (slotPath x).getD blankPath
  (0 : BitVec 60) ++ slotCode x ++ bit cur ++ (0 : BitVec 33) ++ pathBits false p.pc p.mask p.fmt p.jpc p.jv

/-- f0 to f11 in the layout of 08 R252. -/
def flagsWord (w : Wave) : BitVec 24 :=
  (List.range 12).foldl (fun acc n => acc ||| (cellsRead w.flags n).setWidth 24 <<< (2 * n)) 0

/-- One operation in queue order by sequence number. -/
def insertOp (p : PendOp) : List PendOp → List PendOp
  | [] => [p]
  | q :: r => if p.seq ≤ q.seq then p :: q :: r else q :: insertOp p r
def sortOps (l : List PendOp) : List PendOp := l.foldr insertOp []

/-- An atomic or SC, whose performance in one lane completes it (15 R366). -/
def isAtomic : Instr → Bool
  | .atomG _ => true | .atomL _ => true | .fatom _ => true | .sc _ => true | _ => false

/-- A replay entry of 64 bytes (15 R370). -/
def entryBytes (p : PendOp) : List Byte :=
  let enc := (encodeSlot 2 p.raw).getD 0
  let flag := p.flags.headD 0
  let hi : DWord := (0 : BitVec 24) ++ bit p.fault.isSome ++ bit (isStore p.instr) ++ bit (!p.flags.isEmpty) ++
    (if p.flags.isEmpty then 0 else flag) ++ (0 : BitVec 1) ++ p.lanes
  let mid : DWord := (0 : BitVec 10) ++ p.slotn ++ p.pc
  dwordBytes [enc, mid, hi, 0] ++ wordBytes ((p.svals ++ List.replicate 8 0).take 8)
/-- Its operand block of 2,048 bytes. -/
def blockBytes (p : PendOp) : List Byte :=
  (List.range 32).flatMap (fun l => wordBytes ((p.vals.getD l [] ++ List.replicate 16 0).take 16))

/-- A wave image's header word 12. -/
def headerWord12 (w : Wave) : DWord :=
  (0 : BitVec 17) ++ BitVec.ofNat 7 (min 63 w.fair.toNat) ++ (0 : BitVec 2) ++ w.fpx ++ (0 : BitVec 8) ++ w.ix ++ (0 : BitVec 5) ++
    BitVec.ofNat 11 w.stack.length
def headerWord13 (w : Wave) : DWord :=
  w.cntTest ++ w.cntNet ++ w.cntMatrix ++ w.cntCopy ++ (0 : BitVec 8) ++ flagsWord w

/-- Bit e set for the entries of a list that satisfy a test. -/
def entryMask (f : PendOp → Bool) (l : List PendOp) : Word :=
  (List.range l.length).foldl (fun m e => if (l[e]?.map f).getD false then m ||| BitVec.twoPow 32 e else m) 0

/-- Words 18 to 31 of a wave image (15 R378). -/
def imageTail (w : Wave) : List DWord :=
  [BitVec.ofNat 64 w.age, (0 : BitVec 31) ++ bit w.backMark ++ w.spin,
   (0 : BitVec 16) ++ w.pendingBit ++ w.arrived ++ w.awaited, w.nerr ++ (0 : BitVec 12) ++ w.quad,
   w.helper ++ (0 : BitVec 16) ++ w.tsbase, (0 : BitVec 32) ++ w.mparts,
   (0 : BitVec 51) ++ bit (inHandler w) ++ w.frame.getD 0, 0, 0, 0, 0, 0, 0, 0]

/-- The 256-byte header; resume is the PC of the trapped path. -/
def headerBytes (t : Team) (w : Wave) (i : TrapInfo) (ops : List PendOp) (full : Bool) : List Byte :=
  dwordBytes [headerWord0 i (BitVec.ofNat 6 ops.length) false, i.faddr, i.tpc.setWidth 64, i.resume.setWidth 64] ++
  bitsBytes (pathField w.slotA (decide (w.cur = .a))) 32 ++ bitsBytes (pathField w.slotB (decide (w.cur = .b))) 32 ++
  dwordBytes ([headerWord12 w, headerWord13 w, (0 : BitVec 32) ++ entryMask (fun p => p.fault.isSome) ops,
    (0 : BitVec 24) ++ i.iter ++ i.res, headerWord16 t, headerWord17 t w] ++
    (if full then imageTail w else List.replicate 14 0))

/-- The word of a lane: TLANE, record index or none, traversal depth (15 R378). -/
def laneWord (w : Wave) (l : Nat) : Word :=
  let r := (cellsRead w.recix l).toNat
  cellsRead w.tdepth l ++ bit (decide (r = 0)) ++ BitVec.ofNat 5 (r - 1) ++ cellsRead w.tlane l

/-- Registers n, n + 1, … of every lane, as they stand in an image. -/
def regBytes (w : Wave) (n count : Nat) : List Byte :=
  (List.range count).flatMap (fun k => wordBytes (allLanes.map (fun l => readV w (n + k) l)))

/-- On-chip spill-stack entries: four of 32 bytes, top first. -/
def spillBytes (w : Wave) : List Byte :=
  ((w.stack.take 4).flatMap (fun e => bitsBytes (entryBits e) 32) ++ List.replicate 128 0).take 128
def travBytes (w : Wave) : List Byte :=
  (List.range 16).flatMap (fun i => wordBytes (allLanes.map (fun l => cellsRead w.tstk (32 * i + l))))

/-- A wave image with the given number of registers; without the traversal stacks it is a frame (15 R367 R378). -/
def imageBytes (t : Team) (w : Wave) (i : TrapInfo) (ops : List PendOp) (full : Bool) (regs : Nat) : List Byte :=
  headerBytes t w i ops full ++ wordBytes ((List.range 64).map (readS w)) ++ spillBytes w ++
  wordBytes (allLanes.map (laneWord w)) ++ wordBytes ((List.range 8).map (readP w)) ++ List.replicate 224 0 ++
  (if full then travBytes w else List.replicate 2048 0) ++
  ((ops.flatMap entryBytes) ++ List.replicate 2048 0).take 2048 ++
  ((ops.flatMap blockBytes) ++ List.replicate 65536 0).take 65536 ++ regBytes w 0 regs

/-- The events of a store to each 64-byte line of a range (09 R267 R270). -/
def enterLines (s : State) (wave : Nat) (core : CoreNum) (l : Loc) (n : Nat) : State :=
  (List.range ((l.addr % 64 + n + 63) / 64)).foldl
    (fun acc k => enterEvents acc wave core { l with addr := l.addr + 64 * k }) s

/-- Bytes stored through a column cache page by page; none where a page does not translate. -/
def vWriteLong (s : State) (wave : Nat) (core : CoreNum) (c : CtxNum) (va : DWord) : Nat → List Byte → Option State
  | 0, _ => some s
  | n + 1, bs =>
    if bs.isEmpty then some s
    else
      let k := 4096 - va.toNat % 4096
      match translateAt s core c va .write with
      | .error _ => none
      | .ok l => vWriteLong (enterLines (cacheStoreRun s core c l (bs.take k)) wave core l (bs.take k).length) wave core c
          (va + BitVec.ofNat 64 k) n (bs.drop k)
where
  /-- A plain store of one run of bytes within a page. -/
  cacheStoreRun (s : State) (core : CoreNum) (c : CtxNum) (l : Loc) (bs : List Byte) : State :=
    let a := ccKey core l
    let put := (List.range bs.length).zip bs |>.map (fun e => (a + e.1, mkCacheByte false true e.2))
    let s := { s with cc := s.cc.filter (fun e => decide (e.1 < a)) ++ put ++
                            s.cc.filter (fun e => decide (a + bs.length ≤ e.1)) }
    (List.range ((l.addr % 128 + bs.length + 127) / 128)).foldl
      (fun acc k => touchLine acc core c .none { l with addr := l.addr + 128 * k }) s

/-- Bytes read through a column cache; none where a page does not translate. -/
def vReadLong (s : State) (core : CoreNum) (c : CtxNum) (va : DWord) : Nat → Nat → Option (List Byte × State)
  | 0, _ => some ([], s)
  | f + 1, n =>
    if n = 0 then some ([], s)
    else
      let k := min n (4096 - va.toNat % 4096)
      match translateAt s core c va .read with
      | .error _ => none
      | .ok l =>
        let r := cacheLoad s core c .none false l k
        (vReadLong r.2 core c (va + BitVec.ofNat 64 k) f (n - k)).map (fun q => (r.1 ++ q.1, q.2))

/-! ### Taking a trap (15 R365 R366) -/

def frameSize : Nat := 71168
def frameAddr (x : Ctx) (f : BitVec 12) : DWord := x.tfbase + BitVec.ofNat 64 (frameSize * f.toNat)

/-- The lowest free frame of the pool. -/
def freeFrameNum (x : Ctx) : Option (BitVec 12) :=
  ((List.range x.tfcount.toNat).map (BitVec.ofNat 12)).find? (fun f => !x.frames.contains f)

/-- Atomics and SC that have been performed complete; every other unfinished operation becomes an entry (15 R366). -/
def settleAtomics (w : Wave) : Wave :=
  (w.pend.filter (fun p => p.performed && p.fault.isNone && isAtomic p.instr)).foldl completeOp w
/-- An atomic under way, which completes (15 R366). -/
def underWay (p : PendOp) : Bool := p.begun && !p.performed && p.fault.isNone
def replayQueue (w : Wave) : List PendOp := sortOps (w.pend.filter (fun p => !underWay p) ++ w.sq)

/-- The trapped path's slot holds RESUME; a path that was parked there resumes as ready, but for a boundary trap, at which
it stays as it is. -/
def trappedSlot (i : TrapInfo) : SlotState → SlotState
  | .empty => .empty
  | .ready p => .ready { p with pc := i.resume }
  | .held p => if i.deliv = .boundary then .held p else .ready { p with pc := i.resume }
  | .parked p x => if i.deliv = .boundary then .parked p x else .ready { p with pc := i.resume }
def slotWait : SlotState → Option WaitFor
  | .parked _ x => some x
  | _ => none

/-- The handler path and the state made around it (15 R366). Every lane position holds a lane of the handler path (08 R240).
Boundary faults of replay entries stand in the queue; the others wait (notes/assumptions/56.md). -/
def handlerWave (x : Ctx) (f : BitVec 12) (ops : List PendOp) (w : Wave) : Wave :=
  { w with
           status := .trapped, frame := some f, frameWait := none, everLive := 0xFFFFFFFF,
           slotA := .ready { pc := x.handler, mask := 0xFFFFFFFF, fmt := 0x2000, jpc := 0, jv := false },
           slotB := .empty, cur := .a, fair := 0, ix := 0, fpx := 0, flags := [], pend := w.pend.filter underWay, sq := [], replayOps := ops, trapSeq := w.opSeq,
           growA := 0, growB := 0, saveA := slotWait w.slotA, saveB := slotWait w.slotB, bfaults := [],
           laterFaults := w.bfaults.filter (fun i => !ops.any (fun p =>
             p.fault.isSome && p.flags.isEmpty && decide (i.tpc = p.pc) && decide (i.slot = p.slotn))) }

/-- The wave enters its handler with a frame: the frame is written with the effect of a .dev release (15 R366). A frame
that does not translate ends the team as a trap without a handler does (notes/assumptions/24.md). -/
def enterHandler (s : State) (t : Team) (w : Wave) (f : BitVec 12) (i : TrapInfo) : State :=
  let x := getCtx s t.ctx
  let w := settleAtomics w
  let ops := replayQueue w
  match vWriteLong s w.id w.core t.ctx (frameAddr x f) 20 (imageBytes t w i ops false 4) with
  | none => writeLog (endTeamFaulted s t.id) t.ctx (trapRecord t w i false false true)
  | some s =>
    let s := dropHeld (eagerClean s w.core) w
    let s := updCtx s t.ctx (fun x => { x with frames := f :: x.frames })
    updWave s w.id (fun v => handlerWave x f ops (settleAtomics { v with slotA := w.slotA, slotB := w.slotB }))

/-- A trap raised by a wave on the path of a slot, which is then its current one (15 R365 R368). -/
def trapWave (s : State) (wid : Nat) (k : PcSlot) (i : TrapInfo) : State :=
  match findWave s wid with
  | none => s
  | some w =>
    match findTeam s w.team with
    | none => s
    | some t =>
      let x := getCtx s t.ctx
      let w := setSlot { w with growA := 0, growB := 0, cur := k } k (trappedSlot i (getSlot w k))
      if t.vendor || inHandler w || decide (x.handler = 0) then
        writeLog (endTeamFaulted s t.id) t.ctx (trapRecord t w i false (inHandler w && !t.vendor) true)
      else
        match freeFrameNum x with
        | none => setWave s { w with frameWait := some i }
        | some f => enterHandler s t w f i

/-- The trap of a fault met at issue: TPC and RESUME are the bundle's PC (15 R363). -/
def issueTrap (s : State) (slot : BitVec 2) (f : OpFault) : TrapInfo :=
  { cause := f.cause, code := if f.cause = .translation then (0 : BitVec 9) ++ f.fkind else 0, deliv := .issue, slot := slot,
    fkind := f.fkind, flane := f.lane, faddr := f.addr, tpc := s.iss.pc, resume := s.iss.pc, iter := 0, res := 0 }

/-- Taking the trap of an instruction at issue (15 R363 R366): the one operation every meaning traps through. -/
def takeTrap (s : State) (f : OpFault) : State :=
  trapWave s s.iss.wave s.iss.pcSlot (issueTrap s s.iss.pipe f)

/-- A fault without an address. -/
def plainFault (c : Cause) : OpFault := { cause := c, fkind := 0, lane := 0, addr := 0 }

/-! ### The return from a trap (15 R371, 10 R304) -/

/-- A path field read back. -/
def pathOfField (x : BitVec 256) : Path :=
  { pc := x.extractLsb' 64 47 ++ (0 : BitVec 5), mask := x.extractLsb' 0 32, fmt := x.extractLsb' 32 14,
    jpc := x.extractLsb' 112 47 ++ (0 : BitVec 5), jv := x.getLsbD 159 }
def entryOfBits (x : BitVec 256) : StackEntry :=
  let p := pathOfField x
  { isJoin := x.getLsbD 111, pc := p.pc, mask := p.mask, arrv := if x.getLsbD 111 then x.extractLsb' 160 32 else 0,
    fmt := p.fmt, jpc := p.jpc, jv := p.jv }

/-- Wide field at an offset of an image. -/
def fieldAt (bs : List Byte) (o n : Nat) (w : Nat) : BitVec w := BitVec.ofNat w (leNat ((bs.drop o).take n))

/-- The instruction of a replay entry read back, ix of its issue not yet added, its operand values from its block. -/
def opOfEntry (bs : List Byte) (seq e : Nat) : Option PendOp :=
  let o := 0xC00 + 64 * e
  match decodeSlot 2 (dwordAt bs o) with
  | .error _ => none
  | .ok i =>
    let mid := dwordAt bs (o + 8)
    let hi := dwordAt bs (o + 16)
    some { seq := seq, raw := i, ix := 0, instr := i, pc := mid.extractLsb' 0 52, slotn := mid.extractLsb' 52 2,
           lanes := hi.extractLsb' 0 32, mask := 0, fmt := 0, flags := if hi.getLsbD 37 then [hi.extractLsb' 33 4] else [],
           tlane := [], helper := 0,
           svals := (List.range 8).map (fun k => wordAt bs (o + 32 + 4 * k)),
           vals := allLanes.map (fun l => (List.range 16).map (fun k => wordAt bs (0x1400 + 2048 * e + 64 * l + 4 * k))),
           begun := false, todo := [], performed := false, results := [],
           fault := if hi.getLsbD 39 then some { cause := .translation, fkind := 0, lane := firstLane (hi.extractLsb' 0 32), addr := 0 }
             else none,
           noFpx := false, left := 0, replayed := false }
where
  /-- The lowest lane of a set. -/
  firstLane (m : Mask) : BitVec 5 := BitVec.ofNat 5 ((lanesOf m).headD 0)

/-- An entry of the spill stack that the wave does not hold yet: it lies in the branch spill area. -/
def blankEntry : StackEntry := { isJoin := false, pc := 0, mask := 0, arrv := 0, fmt := 0, jpc := 0, jv := false }
/-- Scalars, predicates, v0 to v3, ix, FPX, FAIR and the spill stack of a frame (15 R371): the top entries from the frame, those
below from the wave, whose branch spill area holds them (01 R33). -/
def restoreRegs (bs : List Byte) (w : Wave) : Wave :=
  let h := dwordAt bs 96
  let bsp := (h.extractLsb' 0 11).toNat
  let chip := (List.range (min 4 bsp)).map (fun k => entryOfBits (fieldAt bs (0x200 + 32 * k) 32 256))
  let n := bsp - chip.length
  let deep := List.replicate (n - w.stack.length) blankEntry ++ w.stack.drop (w.stack.length - n)
  { w with sr := cellsWriteAll [] ((List.range 64).map (fun k => (k, wordAt bs (0x100 + 4 * k)))),
           pr := cellsWriteAll [] ((List.range 8).map (fun k => (k, wordAt bs (0x300 + 4 * k)))),
           vr := cellsWriteAll w.vr ((List.range 128).map (fun k => (k, wordAt bs (0x11400 + 4 * k)))),
           ix := h.extractLsb' 16 8, fpx := h.extractLsb' 32 6, fair := h.extractLsb' 40 7, stack := chip ++ deep }

/-- Words of an image from the start of a list of bytes. -/
def wordsOf (bs : List Byte) : Nat → List Word
  | 0 => []
  | n + 1 => wordAt bs 0 :: wordsOf (bs.drop 4) n
/-- The size of a wave image, and the allotment that the header of one gives (15 R378). -/
def imageSize (allot : Nat) : Nat := 0x11400 + 128 * allot
def imageAllot (hd : List Byte) : Nat := 8 * ((dwordAt hd 136).extractLsb' 8 8).toNat
/-- Per-lane words of an image: TLANE, record index and traversal depth (15 R378). -/
def laneFields (bs : List Byte) (w : Wave) (l : Nat) : Wave :=
  let x := wordAt bs (0x280 + 4 * l)
  { w with tlane := cellsWrite w.tlane l (x.extractLsb' 0 10),
           recix := cellsWrite w.recix l (if x.getLsbD 15 then 0 else (x.extractLsb' 10 5).setWidth 6 + 1),
           tdepth := cellsWrite w.tdepth l (x.extractLsb' 16 16) }
/-- What an image holds beside a frame: registers from v4, traversal stacks, per-lane words, and header words 18 to 23
(10 R305, 15 R373 R378). -/
def restoreImage (bs : List Byte) (w : Wave) : Wave :=
  let n := min (imageAllot bs) w.allot.toNat
  let w := allLanes.foldl (laneFields bs) w
  let word := fun (k : Nat) => dwordAt bs (8 * k)
  { w with
    vr := cellsFill w.vr 128 (wordsOf (bs.drop 0x11600) (32 * (n - 4))), tstk := cellsFill [] 0 (wordsOf (bs.drop 0x400) 512),
    age := (word 18).toNat, spin := (word 19).extractLsb' 0 32, backMark := (word 19).getLsbD 32,
    awaited := (word 20).extractLsb' 0 16, arrived := (word 20).extractLsb' 16 16, pendingBit := (word 20).extractLsb' 32 16,
    quad := (word 21).extractLsb' 0 20, nerr := (word 21).extractLsb' 32 32, tsbase := (word 22).extractLsb' 0 16,
    helper := (word 22).extractLsb' 32 32, mparts := (word 23).extractLsb' 0 32 }

end Sys2Proof.Machine
end

