-- ==== Sys2Proof/Machine/Flags.lean ====
section
/-! DEFINITION. Flag and condition computations (04 R133 R136 R137, 08 R224 R229), the checks of an instruction at issue
(07 R213), and the one way a meaning runs: trap, hold, or effect. -/

namespace Sys2Proof.Machine

/-! ### Rounding and the flags of FPX -/

/-- FMT.RND (01 R36). -/
def fmtRound (fmt : BitVec 14) : Round :=
  match (fmt.extractLsb' 11 2).toNat with
  | 0 => .ne | 1 => .zero | 2 => .up | _ => .down
/-- FMT.SAT (01 R36). -/
def fmtSat (fmt : BitVec 14) : Bool := fmt.getLsbD 13
def fmtAType (fmt : BitVec 14) : BitVec 4 := fmt.extractLsb' 0 4
def fmtBType (fmt : BitVec 14) : BitVec 4 := fmt.extractLsb' 4 4
def fmtScaled (fmt : BitVec 14) : Bool := decide (fmt.extractLsb' 8 3 = 1)
/-- The effective rounding mode (04 R133). -/
def effRound (fmt : BitVec 14) : Rm → Round
  | .none => fmtRound fmt | .rn => .ne | .rz => .zero | .ru => .up | .rd => .down
/-- FMT of the issuing path. -/
def issFmt (s : State) : BitVec 14 := (issPath s).fmt

/-- ORs flags into FPX of the issuing wave (04 R137). -/
def raiseFpx (s : State) (f : FpFlags) : State :=
  updCur { s with iss := { s.iss with raised := s.iss.raised ||| f } } (fun w => { w with fpx := w.fpx ||| f })

/-- The OR of the flags of the lanes of a list. -/
def orFlags (f : Nat → FpFlags) : List Nat → FpFlags
  | [] => 0
  | l :: r => f l ||| orFlags f r

/-- A vector instruction ORs the flags of its lanes that are not helper lanes (04 R137). -/
def raiseLanes (s : State) (m : Mask) (f : Nat → FpFlags) : State :=
  raiseFpx s (orFlags f (lanesOf (m &&& ~~~(srcWave s).helper)))

/-! ### Conditions (08 R224) -/

/-- Conditions of ICMP and SCMP. -/
def intCond (cc : BitVec 4) (a b : Word) : Bool :=
  match cc.toNat with
  | 0 => decide (a = b) | 1 => decide (a ≠ b)
  | 2 => decide (a.toInt < b.toInt) | 3 => decide (a.toInt ≤ b.toInt)
  | 4 => decide (b.toInt < a.toInt) | 5 => decide (b.toInt ≤ a.toInt)
  | 6 => decide (a.toNat < b.toNat) | 7 => decide (a.toNat ≤ b.toNat)
  | 8 => decide (b.toNat < a.toNat) | 9 => decide (b.toNat ≤ a.toNat)
  | _ => false

/-- Conditions of FCMP: ordered ones are false, unordered ones true, where an operand is NaN. -/
def fpCond (cc : BitVec 4) (a b : Val) : Bool :=
  let un := isNaN a || isNaN b
  let c := cmpVal a b
  match cc.toNat with
  | 0 => !un && decide (c = 0) | 1 => !un && decide (c ≠ 0)
  | 2 => !un && decide (c < 0) | 3 => !un && decide (c ≤ 0)
  | 4 => !un && decide (0 < c) | 5 => !un && decide (0 ≤ c)
  | 6 => !un | 7 => un
  | 8 => un || decide (c = 0) | 9 => un || decide (c ≠ 0)
  | 10 => un || decide (c < 0) | 11 => un || decide (c ≤ 0)
  | 12 => un || decide (0 < c) | 13 => un || decide (0 ≤ c)
  | _ => false

/-! ### Integer results and saturation (08 R229) -/

/-- The result of an exact sum or difference by its saturation, and whether it clamped. -/
def satResult (sat : IntSat) (sx ux : Int) : Word × Bool :=
  match sat with
  | .wrap => (BitVec.ofInt 32 ux, false)
  | .signed => let c := clampInt (-2147483648) 2147483647 sx
    (BitVec.ofInt 32 c.1, c.2)
  | .unsigned => let c := clampInt 0 4294967295 ux
    (BitVec.ofInt 32 c.1, c.2)

/-- Shifts by n := b[7:0] (08 R226). -/
def shiftCount (b : Word) : Nat := b.toNat % 256
def shlWord (a b : Word) : Word := if shiftCount b < 32 then a <<< shiftCount b else 0
def shrWord (a b : Word) : Word := if shiftCount b < 32 then a >>> shiftCount b else 0
def sarWord (a b : Word) : Word :=
  if shiftCount b < 32 then a.sshiftRight (shiftCount b) else if a.msb then 0xFFFFFFFF else 0
/-- Bits [63:32] of a product (08 R225). -/
def mulHi (un : Bool) (a b : Word) : Word :=
  if un then BitVec.ofNat 32 (a.toNat * b.toNat / 4294967296) else BitVec.ofInt 32 (a.toInt * b.toInt / 4294967296)
/-- Lesser and greater (08 R225). -/
def minWord (un : Bool) (a b : Word) : Word :=
  if un then (if a.toNat < b.toNat then a else b) else (if a.toInt < b.toInt then a else b)
def maxWord (un : Bool) (a b : Word) : Word :=
  if un then (if b.toNat < a.toNat then a else b) else (if b.toInt < a.toInt then a else b)

/-! ### Writing results -/

/-- One register of the lanes of a list. -/
def writeVec (n : Nat) (f : Nat → Word) : List Nat → Wave → Wave
  | [], w => w
  | l :: r, w => writeVec n f r { w with vr := cellsWrite w.vr (32 * n + l) (f l) }

/-- A predicate in the lanes of a mask: the bits of x there, the old ones elsewhere. -/
def writePred (n : Nat) (m x : Mask) (w : Wave) : Wave :=
  { w with pr := cellsWrite w.pr n ((readP w n &&& ~~~m) ||| (x &&& m)) }
/-- A scalar register, and an even/odd pair. -/
def writeS (n : Nat) (x : Word) (w : Wave) : Wave := { w with sr := cellsWrite w.sr n x }
def writeSP (n : Nat) (x : DWord) (w : Wave) : Wave := writeS (n + 1) (x.extractLsb' 32 32) (writeS n (x.extractLsb' 0 32) w)

/-- The mask of the lanes of a list that satisfy a test. -/
def maskOf (f : Nat → Bool) : List Nat → Mask
  | [] => 0
  | l :: r => (if f l then BitVec.twoPow 32 l else 0) ||| maskOf f r

/-- A vector result in the lanes of L. -/
def putVec (s : State) (m : Mask) (d : VReg) (f : Nat → Word) : State :=
  updCur s (writeVec (vnum (srcWave s).ix.toNat d) f (lanesOf m))
def putPred (s : State) (m : Mask) (d : PReg) (f : Nat → Bool) : State :=
  updCur s (writePred d.toNat m (maskOf f (lanesOf m)))
def putS (s : State) (d : SReg) (x : Word) : State := updCur s (writeS d.toNat x)
def putSP (s : State) (d : SReg) (x : DWord) : State := updCur s (writeSP d.toNat x)

/-! ### The checks of an instruction at issue (07 R213) -/

/-- The order in which traps of one bundle are raised. -/
def causeRank : Cause → Nat
  | .illegal => 1 | .privilege => 2 | .regBounds => 3 | .misTarget => 4 | .illConvergence => 5 | _ => 6

/-- A vector operand whose first register breaks its alignment (04 R131, 09 R255). -/
def useMisaligned (u : Use) : Bool := decide (u.file = .v) && decide (u.num % u.align ≠ 0)
/-- A vector operand that reaches past the allotment (01 R23, 08 R222). -/
def useOutside (allot : Nat) (u : Use) : Bool := decide (u.file = .v) && decide (min allot 256 < u.num + u.count)

/-- The first trap of an instruction, given the first of its own entry's conditions. -/
def firstFault (i : Instr) (s : State) (extra : Option OpFault) : Option OpFault :=
  let w := srcWave s
  let us := uses w.ix.toNat i
  if !wellFormed i || us.any useMisaligned then some (plainFault .illegal)
  else match extra with
    | some f =>
      if causeRank f.cause ≤ 2 then some f
      else if us.any (useOutside w.allot.toNat) then some (plainFault .regBounds)
      else some f
    | none => if us.any (useOutside w.allot.toNat) then some (plainFault .regBounds) else none

/-- The slot is HELD: its bundle has not issued (01 R43). -/
def holdSlot (s : State) : State :=
  updCur s (fun w => setSlot w s.iss.pcSlot (.held { issPath s with pc := s.iss.pc }))

/-- How every meaning of a slot runs: the trap of its checks, else HELD while its condition holds, else its effect. -/
def run (i : Instr) (extra : Option OpFault) (hold : Bool) (eff : State → State) (s : State) :
    Host.Outcome State Fault Refusal :=
  match firstFault i s extra with
  | some f => finish (takeTrap s f)
  | none => if hold then .next (holdSlot s) else .next (eff s)

/-- The first of several conditions. -/
def orFault : Option OpFault → Option OpFault → Option OpFault
  | some f, _ => some f
  | none, o => o
/-- A condition without an address. -/
def whenFault (b : Bool) (c : Cause) : Option OpFault := if b then some (plainFault c) else none
/-- The privilege trap outside a handler (07 R215). -/
def privileged (s : State) : Option OpFault := whenFault (!inHandler (srcWave s)) .privilege

end Sys2Proof.Machine
end

