-- ==== Sys2Proof/Machine/Fetch.lean ====
section
/-! DEFINITION. Fetching a bundle (07 R200, 15 R362) and what a slot of a path is about to do. Instruction bytes come from the
instruction cache of the core's pair, or from their home (00 R2, notes/assumptions/27.md). -/

namespace Sys2Proof.Machine

/-- The 32 bytes of a bundle at a path's PC, as a core reads them for a context, or the fetch fault (15 R362); a poisoned
sector delivers cause 0x17 like every read of it (18 R428, notes/assumptions/51.md). -/
def fetchBits (s : State) (core : CoreNum) (c : CtxNum) (pc : Pc) : Except OpFault (BitVec 256) :=
  match translateAt s core c (pc.setWidth 64) .fetch with
  | .error k => .error { cause := .translation, fkind := k, lane := 0, addr := pc.setWidth 64 }
  | .ok l => match codeHeld s core l with
    | some bs => .ok (BitVec.ofNat 256 (leNat bs))
    | none =>
      if rangePoisoned s l 32 then .error { cause := .softError, fkind := 0, lane := 0, addr := pc.setWidth 64 }
      else .ok (BitVec.ofNat 256 (leNat (homeRead s l 32)))

/-- The bundle at a PC: a fetch fault, or the illegal-instruction trap where it does not decode (07 R213). -/
def fetchBundle (s : State) (core : CoreNum) (c : CtxNum) (pc : Pc) : Except OpFault Bundle :=
  match fetchBits s core c pc with
  | .error f => .error f
  | .ok b => match decodeBundleBits b with
    | .error _ => .error (plainFault .illegal)
    | .ok x => .ok x

/-- The instructions of a slot body. -/
def bodyInstrs : SlotBody → List Instr
  | .empty => []
  | .full i => [i]
  | .paired a b => [a, b]
/-- The instructions of a bundle with their pipes, in slot order. -/
def bundleInstrs (b : Bundle) : List (BitVec 2 × Instr) :=
  (bodyInstrs b.s0).map (fun i => (0, i)) ++ (bodyInstrs b.s1).map (fun i => (1, i)) ++
    (bodyInstrs b.s2).map (fun i => (2, i))
/-- The set fields of a bundle. -/
def bundleSets (b : Bundle) : List (BitVec 2 × BitVec 4) :=
  (match b.set0 with
    | some f => [(f.slot, f.flag)]
    | none => []) ++ (match b.set1 with
    | some f => [(f.slot, f.flag)]
    | none => [])

/-- The instruction in slot 2 of the bundle a path names. -/
def slot2At (s : State) (core : CoreNum) (c : CtxNum) (pc : Pc) : Option Instr :=
  match fetchBundle s core c pc with
  | .ok b => (bodyInstrs b.s2).head?
  | .error _ => none

/-- The issue stage as a wave's slot would issue the bundle at its path. -/
def stageOf (s : State) (w : Wave) (k : PcSlot) (sets : List (BitVec 2 × BitVec 4)) : State :=
  { s with iss := { wave := w.id, pcSlot := k, pc := ((slotPath (getSlot w k)).getD blankPath).pc, pipe := 0, sets := sets,
                    queue := s.iss.queue, src := some w, raised := 0 } }
def setPipe (s : State) (p : BitVec 2) : State := { s with iss := { s.iss with pipe := p } }

end Sys2Proof.Machine
end

