-- ==== Sys2Proof/Machine/Control.lean ====
section
/-! DEFINITION. Branches, joins, calls, the end of lanes, REGROUP, register growth, the format register, and the traps
raised on purpose (10 R280 to R292 R301, 01 R24 to R38). -/

namespace Sys2Proof.Machine

/-! ### Paths of the issuing slot -/

/-- Changes the issuing path. -/
def updPath (s : State) (f : Path → Path) : State :=
  updCur s (fun w => setSlot w s.iss.pcSlot (mapPath f (getSlot w s.iss.pcSlot)))
/-- Sets the PC of the issuing path. -/
def setPc (s : State) (pc : Pc) : State := updPath s (fun p => { p with pc := pc })
/-- The bundle address at an offset in bundles (10 R282). -/
def bundleOfs (pc : Pc) (o : BitVec 24) : Pc := pc + (o.signExtend 52) * 32

/-! ### Branches (01 R29, 10 R282 R283) -/

/-- Lanes that take the branch. -/
def takenLanes (s : State) (pr : Pred) : Mask := laneSet s pr
def branchDiverges (s : State) (pr : Pred) : Bool :=
  let t := takenLanes s pr
  decide (t ≠ 0) && decide ((issPath s).mask &&& ~~~t ≠ 0)
def slotPopulated (x : SlotState) : Bool := decide (x ≠ .empty)
/-- PARKED or HELD. -/
def slotFixed : SlotState → Bool
  | .parked _ _ => true | .held _ => true | _ => false
def parkedAtRegroup : SlotState → Bool
  | .parked _ .regroup => true | _ => false

/-- Illegal convergence and branch-stack overflow of a divergent branch (01 R29 R38). -/
def branchFault (s : State) (pr : Pred) : Option OpFault :=
  let w := srcWave s
  let y := getSlot w (otherSlot s.iss.pcSlot)
  if branchDiverges s pr then
    orFault (whenFault (parkedAtRegroup y) .illConvergence)
      (whenFault (decide (1024 < w.stack.length + 1 + (if slotPopulated y then 1 else 0))) .stackOverflow)
  else none

/-- The divergence of a path: the join entry, then the older path of the other slot or the taken path (01 R29). -/
def diverge (w : Wave) (k : PcSlot) (p : Path) (pc target j : Pc) (t : Mask) : Wave :=
  let e : StackEntry := { isJoin := true, pc := j, mask := p.mask, arrv := 0, fmt := p.fmt, jpc := p.jpc, jv := p.jv }
  let taken : Path := { pc := target, mask := t, fmt := p.fmt, jpc := j, jv := true }
  let rest : Path := { pc := pc + 32, mask := p.mask &&& ~~~t, fmt := p.fmt, jpc := j, jv := true }
  let w := { w with stack := e :: w.stack }
  let y := getSlot w (otherSlot k)
  let w :=
    if slotFixed y then { w with stack := pathEntry taken :: w.stack }
    else match slotPath y with
      | some q => setSlot { w with stack := pathEntry q :: w.stack } (otherSlot k) (.ready taken)
      | none => setSlot w (otherSlot k) (.ready taken)
  setSlot w k (.ready rest)

/-- A branch of the issuing path (01 R29); a taken branch to a lower address sets the backward-branch mark (01 R58). -/
def branch (s : State) (pr : Pred) (target j : Pc) : State :=
  let t := takenLanes s pr
  let p := issPath s
  let s := if t ≠ 0 ∧ target.toNat < s.iss.pc.toNat then updCur s (fun w => { w with backMark := true }) else s
  if t = 0 then setPc s (s.iss.pc + 32)
  else if p.mask &&& ~~~t = 0 then setPc s target
  else updCur s (fun w => diverge w s.iss.pcSlot p s.iss.pc target j t)

/-- A target is bad: a bit of [63:52], or not a multiple of 32 (10 R283). -/
def badTarget (x : DWord) : Bool := decide (x.extractLsb' 52 12 ≠ 0) || decide (x.extractLsb' 0 5 ≠ 0)

def faultBra (o : Bra) (s : State) : Option OpFault := branchFault s o.pr
/-- BRA (10 R282). -/
def execBra (o : Bra) (s : State) : Host.Outcome State Fault Refusal :=
  run (.bra o) (faultBra o s) false (fun s => branch s o.pr (bundleOfs s.iss.pc o.tofs) (bundleOfs s.iss.pc o.jofs)) s

def brxTarget (o : Brx) (s : State) : DWord := readSP (srcWave s) o.a.toNat
def faultBrx (o : Brx) (s : State) : Option OpFault :=
  orFault (whenFault (badTarget (brxTarget o s)) .misTarget) (branchFault s o.pr)
/-- BRX (10 R283). -/
def execBrx (o : Brx) (s : State) : Host.Outcome State Fault Refusal :=
  run (.brx o) (faultBrx o s) false
    (fun s => branch s o.pr ((brxTarget o s).extractLsb' 0 52) (bundleOfs s.iss.pc o.jofs)) s

/-! ### JOIN (01 R30) -/

/-- The most recently pushed join entry at an address. -/
def findJoin (pc : Pc) : List StackEntry → Option StackEntry
  | [] => none
  | e :: r => if e.isJoin ∧ e.pc = pc then some e else findJoin pc r
/-- Replaces it, or removes it. -/
def replaceJoin (pc : Pc) (n : Option StackEntry) : List StackEntry → List StackEntry
  | [] => []
  | e :: r => if e.isJoin ∧ e.pc = pc then (match n with
      | some x => x :: r
      | none => r) else e :: replaceJoin pc n r

/-- JOIN of a path in a slot. -/
def joinWave (w : Wave) (k : PcSlot) (p : Path) (pc : Pc) : Wave :=
  match findJoin pc w.stack with
  | none => setSlot w k (mapPath (fun q => { q with pc := pc + 32 }) (getSlot w k))
  | some e =>
    let e := { e with mask := e.mask &&& ~~~p.mask, arrv := e.arrv ||| p.mask }
    if e.mask = 0 then
      setSlot { w with stack := replaceJoin pc none w.stack } k (.ready (mergedPath e))
    else refill (setSlot { w with stack := replaceJoin pc (some e) w.stack } k .empty) k

def effJoin (s : State) : State :=
  let p := issPath s
  if p.jv ∧ p.jpc = s.iss.pc then updCur s (fun w => joinWave w s.iss.pcSlot p s.iss.pc) else setPc s (s.iss.pc + 32)
/-- JOIN (10 R284). -/
def execJoin (s : State) : Host.Outcome State Fault Refusal := run .join none false effJoin s

/-! ### Calls (10 R285 R286) -/

def effCall (tofs : BitVec 24) (d : VReg) (s : State) : State :=
  let n := vnum (srcWave s).ix.toNat d
  let ra : DWord := (s.iss.pc + 32).setWidth 64
  let m := lanesOf (issPath s).mask
  let s := updCur s (fun w => writeVec (n + 1) (fun _ => ra.extractLsb' 32 32) m
    (writeVec n (fun _ => ra.extractLsb' 0 32) m w))
  setPc s (bundleOfs s.iss.pc tofs)
/-- CALL (10 R285). -/
def execCall (tofs : BitVec 24) (d : VReg) (s : State) : Host.Outcome State Fault Refusal :=
  run (.call tofs d) none false (effCall tofs d) s

/-- The value of lane l, and whether every lane of MASK holds the same. -/
def retValue (a : VReg) (s : State) : DWord :=
  readVP (srcWave s) (vnum (srcWave s).ix.toNat a) ((lanesOf (issPath s).mask).headD 0)
def retAgrees (a : VReg) (s : State) : Bool :=
  (lanesOf (issPath s).mask).all (fun l =>
    decide (readVP (srcWave s) (vnum (srcWave s).ix.toNat a) l = retValue a s))
/-- Some active lane of a RET holds a misaligned target. -/
def retMisaligned (a : VReg) (s : State) : Bool :=
  (lanesOf (issPath s).mask).any (fun l => badTarget (readVP (srcWave s) (vnum (srcWave s).ix.toNat a) l))
/-- A misaligned target, in any lane, is raised before illegal convergence (07 R213; notes/assumptions/25.md). -/
def faultRet (a : VReg) (s : State) : Option OpFault :=
  orFault (whenFault (retMisaligned a s) .misTarget) (whenFault (!retAgrees a s) .illConvergence)
/-- RET (10 R286). -/
def execRet (a : VReg) (s : State) : Host.Outcome State Fault Refusal :=
  run (.ret a) (faultRet a s) false (fun s => setPc s ((retValue a s).extractLsb' 0 52)) s

/-! ### EXIT, SLOTSW, REGROUP, NOP, hints -/

/-- EXIT (10 R287, 01 R32). -/
def execExit (s : State) : Host.Outcome State Fault Refusal :=
  run .exit none false (fun s => exitSlot s s.iss.wave s.iss.pcSlot) s

/-- SLOTSW: the current slot changes when the other holds a path that is not PARKED (10 R288). -/
def effSlotsw (s : State) : State :=
  updCur s (fun w => match getSlot w (otherSlot s.iss.pcSlot) with
    | .empty => w
    | .parked _ _ => w
    | _ => { w with cur := otherSlot s.iss.pcSlot, fair := 0 })
/-- SLOTSW (10 R288). -/
def execSlotsw (s : State) : Host.Outcome State Fault Refusal := run .slotsw none false effSlotsw s

/-- Parks the issuing slot at its bundle. -/
def park (s : State) (x : WaitFor) : State :=
  updCur s (fun w => setSlot w s.iss.pcSlot (.parked { issPath s with pc := s.iss.pc } x))

/-- REGROUP: illegal convergence where the spill stack holds a path entry (01 R38). -/
def faultRegroup (s : State) : Option OpFault :=
  whenFault ((srcWave s).stack.any (fun e => !e.isJoin)) .illConvergence
/-- REGROUP parks the slot (10 R289). -/
def execRegroup (s : State) : Host.Outcome State Fault Refusal :=
  run .regroup (faultRegroup s) false (fun s => park s .regroup) s

/-- NOP does nothing (10 R290). -/
def execNop (s : State) : Host.Outcome State Fault Refusal := run .nop none false id s
/-- A hint has no effect and is never checked (07 R215). -/
def execHint (_op : BitVec 3) (_rest : BitVec 56) (s : State) : Host.Outcome State Fault Refusal := .next s

/-! ### Register growth (01 R22 to R25, 10 R291) -/

/-- Granules of a partition in use: by its live waves, and by room set aside for mesh teams (02 R95). -/
def granulesUsed (s : State) (c : CoreNum) (p : PartNum) : Nat :=
  ((s.waves.filter (fun w => decide (w.core = c) && decide (w.part = p) && waveLive w)).map (fun w => w.allot.toNat / 8)).sum +
  ((s.teams.flatMap (fun t => t.rings)).map (fun g => match g.room with
    | some r => ((r.places.filter (fun x => decide (x.1 = c) && decide (x.2.1 = p))).map (fun _ => r.granules)).sum
    | none => 0)).sum
def granulesFree (s : State) (c : CoreNum) (p : PartNum) : Nat := Config.granules - granulesUsed s c p

/-- The older of two waves of a partition. Equal ages are separated as 01 R47 separates them in the end, by the lower
wave-slot number (notes/assumptions/64.md). -/
def olderWave (a b : Wave) : Bool := decide (a.age < b.age) || (decide (a.age = b.age) && decide (a.wslot.toNat < b.wslot.toNat))
def oldestOf : List Wave → Option Wave
  | [] => none
  | w :: r => match oldestOf r with
    | none => some w
    | some v => if olderWave v w then some v else some w
def youngestOf : List Wave → Option Wave
  | [] => none
  | w :: r => match youngestOf r with
    | none => some w
    | some v => if olderWave w v then some v else some w

/-- The request of a wave: the larger of its slots' requests (01 R24). -/
def growOf (w : Wave) : BitVec 9 := if w.growA.toNat < w.growB.toNat then w.growB else w.growA
/-- The request of one slot. -/
def slotGrow (w : Wave) : PcSlot → BitVec 9
  | .a => w.growA
  | .b => w.growB
def setSlotGrow (w : Wave) (k : PcSlot) (n : BitVec 9) : Wave :=
  match k with
  | .a => { w with growA := n }
  | .b => { w with growB := n }
/-- A slot asks for n registers. -/
def askGrow (w : Wave) (k : PcSlot) (n : Nat) : Wave := setSlotGrow w k (BitVec.ofNat 9 n)

/-- Waves of a partition that wait in RGROW. -/
def growing (s : State) (c : CoreNum) (p : PartNum) : List Wave :=
  s.waves.filter (fun w => decide (w.core = c) && decide (w.part = p) && waveLive w && decide (growOf w ≠ 0))

/-- The pool grants waiting grows strictly oldest first, as long as the oldest can be met (01 R24). -/
def grantGrows (s : State) (c : CoreNum) (p : PartNum) : Nat → State
  | 0 => s
  | n + 1 => match oldestOf (growing s c p) with
    | none => s
    | some w =>
      if (growOf w).toNat / 8 - w.allot.toNat / 8 ≤ granulesFree s c p then
        grantGrows (setWave s { w with allot := if w.allot.toNat < (growOf w).toNat then growOf w else w.allot, growA := 0, growB := 0 }) c p n
      else s

/-- The requested size: 8 x G, or a scalar register. -/
def growSizeOk (x : Word) : Bool := decide (1 ≤ x.toNat ∧ x.toNat ≤ 256 ∧ x.toNat % 8 = 0)

/-- A slot is held in RGROW. -/
def heldInGrow (w : Wave) (k : PcSlot) : Bool :=
  match getSlot w k with
  | .held _ => decide (slotGrow w k ≠ 0)
  | _ => false
/-- Every populated slot is PARKED or held in RGROW; at least one wave of the partition is held in RGROW (01 R24). -/
def slotStuck (w : Wave) (k : PcSlot) : Bool :=
  match getSlot w k with
  | .empty => true
  | .parked _ _ => true
  | _ => heldInGrow w k
def waveStuck (w : Wave) : Bool := slotStuck w .a && slotStuck w .b
def poolDeadlock (s : State) (c : CoreNum) (p : PartNum) : Bool :=
  let ws := s.waves.filter (fun w => decide (w.core = c) && decide (w.part = p) && waveLive w)
  ws.all waveStuck && ws.any (fun w => heldInGrow w .a || heldInGrow w .b)

/-- The slot of a wave that is held in RGROW; where both are, the one with the larger request, and slot A of equal ones
(notes/assumptions/64.md). -/
def heldSlot (w : Wave) : PcSlot :=
  if heldInGrow w .a = true ∧ (heldInGrow w .b = false ∨ w.growB.toNat ≤ w.growA.toNat) then .a else .b

/-- Partition deadlock: the youngest wave held in RGROW traps; its allotment is unchanged (01 R24). -/
def breakDeadlock (s : State) (c : CoreNum) (p : PartNum) : State :=
  if poolDeadlock s c p then
    match youngestOf (growing s c p) with
    | none => s
    | some w =>
      let k := heldSlot w
      let pc := ((slotPath (getSlot w k)).getD blankPath).pc
      let i : TrapInfo := { cause := .regAllotment, code := 0, deliv := .issue, slot := 2, fkind := 0, flane := 0,
                            faddr := 0, tpc := pc, resume := pc, iter := 0, res := 0 }
      trapWave s w.id k i
  else s

/-- What the pool does when granules return or requests arrive (01 R24 R25). -/
def poolStep (s : State) (c : CoreNum) (p : PartNum) : State := breakDeadlock (grantGrows s c p s.waves.length) c p

/-- RGROW: nothing where n is at most WALLOT; else a request, granted at once or held (01 R24). -/
def effGrow (n : Nat) (s : State) : State :=
  let w := curWave s
  if n ≤ w.allot.toNat then s
  else
    let s := setWave s (askGrow w s.iss.pcSlot n)
    let s' := grantGrows s w.core w.part s.waves.length
    if n ≤ (curWave s').allot.toNat then s' else breakDeadlock (holdSlot s') w.core w.part

/-- RGROW n (10 R291). -/
def execRgrowImm (g : BitVec 6) (s : State) : Host.Outcome State Fault Refusal :=
  match firstFault (.rgrowImm g) s none with
  | some f => finish (takeTrap s f)
  | none => finish (effGrow (8 * g.toNat) s)
def faultSize (a : SReg) (s : State) : Option OpFault :=
  whenFault (!growSizeOk (readS (srcWave s) a.toNat)) .regAllotment
/-- RGROW sa (10 R291). -/
def execRgrowReg (a : SReg) (s : State) : Host.Outcome State Fault Refusal :=
  match firstFault (.rgrowReg a) s (faultSize a s) with
  | some f => finish (takeTrap s f)
  | none => finish (effGrow (readS (srcWave s) a.toNat).toNat s)

/-- The registers an instruction writes, each with its file. -/
def destRegs (ix : Nat) (i : Instr) : List (RegFile × Nat) :=
  ((uses ix i).filter (fun u => u.dst)).flatMap (fun u => (List.range u.count).map (fun k => (u.file, u.num + k)))
/-- Registers that the wave's engine operations will write (07 R204). -/
def engineDests (s : State) (w : Wave) : List (RegFile × Nat) :=
  (getEngine s (coreCluster w.core)).entries.flatMap (fun e =>
    if e.parts.any (fun p => decide (p.wave = w.id)) then destRegs 0 e.instr else [])
/-- An outstanding operation writes a register at or above n. -/
def writesAbove (n : Nat) (p : PendOp) : Bool :=
  p.fault.isNone && (uses 0 p.instr).any (fun u => u.dst && decide (u.file = .v) && decide (n < u.num + u.count))
/-- RSHRINK waits for outstanding writes at or above n (01 R25). -/
def shrinkWaits (s : State) (w : Wave) (n : Nat) : Bool :=
  decide (n < w.allot.toNat) && ((w.pend ++ w.nets ++ w.tests).any (writesAbove n) ||
    (engineDests s w).any (fun r => decide (r.1 = .v) && decide (n ≤ r.2)))
/-- RSHRINK: the top granules return and the pool grants waiting grows (01 R25). -/
def effShrink (n : Nat) (s : State) : State :=
  let w := curWave s
  if w.allot.toNat ≤ n then s
  else
    poolStep (setWave s { w with allot := BitVec.ofNat 9 n,
                                 vr := cellsClear w.vr (32 * n) (32 * (w.allot.toNat - n)) }) w.core w.part
/-- RSHRINK n (10 R291). -/
def execRshrinkImm (g : BitVec 6) (s : State) : Host.Outcome State Fault Refusal :=
  match firstFault (.rshrinkImm g) s none with
  | some f => finish (takeTrap s f)
  | none => if shrinkWaits s (curWave s) (8 * g.toNat) then .next (holdSlot s) else finish (effShrink (8 * g.toNat) s)
/-- RSHRINK sa (10 R291). -/
def execRshrinkReg (a : SReg) (s : State) : Host.Outcome State Fault Refusal :=
  match firstFault (.rshrinkReg a) s (faultSize a s) with
  | some f => finish (takeTrap s f)
  | none =>
    let n := (readS (srcWave s) a.toNat).toNat
    if shrinkWaits s (curWave s) n then .next (holdSlot s) else finish (effShrink n s)

/-! ### The format register (01 R36, 10 R292) -/

def setFmt (s : State) (f : BitVec 14) : State := updPath s (fun p => { p with fmt := f })
/-- SETFMT imm (10 R292). -/
def execSetfmtImm (fmt : BitVec 14) (s : State) : Host.Outcome State Fault Refusal :=
  run (.setfmtImm fmt) none false (fun s => setFmt s fmt) s
def fmtSource (a : SReg) (s : State) : BitVec 14 := (readS (srcWave s) a.toNat).extractLsb' 0 14
def faultSetfmt (a : SReg) (s : State) : Option OpFault := whenFault (!fmtOk (fmtSource a s)) .illegal
/-- SETFMT sa (10 R292). -/
def execSetfmtReg (a : SReg) (s : State) : Host.Outcome State Fault Refusal :=
  run (.setfmtReg a) (faultSetfmt a s) false (fun s => setFmt s (fmtSource a s)) s
/-- GETFMT (10 R292). -/
def execGetfmt (d : SReg) (s : State) : Host.Outcome State Fault Refusal :=
  run (.getfmt d) none false (fun s => putS s d ((issFmt s).setWidth 32)) s

/-! ### Traps raised on purpose (10 R301) -/

def raisedTrap (s : State) (c : Cause) (code : BitVec 12) (resume : Pc) : TrapInfo :=
  { cause := c, code := code, deliv := .completion, slot := s.iss.pipe, fkind := 0, flane := 0, faddr := 0,
    tpc := s.iss.pc, resume := resume, iter := 0, res := 0 }
/-- TRAP: after the other slots, resuming at PC + 32 (10 R301). -/
def execTrap (code : BitVec 12) (s : State) : Host.Outcome State Fault Refusal :=
  match firstFault (.trap code) s none with
  | some f => finish (takeTrap s f)
  | none => finish (trapWave s s.iss.wave s.iss.pcSlot (raisedTrap s .software code (s.iss.pc + 32)))
/-- BPT: a trap where BPTEN is 1, resuming at the BPT; otherwise nothing (10 R301, 15 R356). -/
def execBpt (code : BitVec 12) (s : State) : Host.Outcome State Fault Refusal :=
  match firstFault (.bpt code) s none with
  | some f => finish (takeTrap s f)
  | none =>
    if (getCtx s (waveCtx s (srcWave s))).bpten then
      finish (trapWave s s.iss.wave s.iss.pcSlot (raisedTrap s .breakpoint code s.iss.pc))
    else .next s

end Sys2Proof.Machine
end

