-- ==== Sys2Proof/Machine/FpArith.lean ====
section
/-! DEFINITION. FP32 and packed FP16 arithmetic (08 R230 to R232). -/

namespace Sys2Proof.Machine

/-! ### Element operations -/

/-- An FP32 result. -/
def res32 (r : Nat × FpFlags) : Word × FpFlags := (BitVec.ofNat 32 r.1, r.2)
/-- Element i of a packed FP16 register. -/
def half16 (x : Word) (i : Nat) : BitVec 16 := x.extractLsb' (16 * i) 16
/-- A packed result of two elements, with the OR of their flags (08 R231). -/
def pack16 (r0 r1 : Nat × FpFlags) : Word × FpFlags := (BitVec.ofNat 16 r1.1 ++ BitVec.ofNat 16 r0.1, r0.2 ||| r1.2)

/-- Arithmetic of one lane: FP32, or both FP16 elements. -/
def fadd32 (m : Round) (a b : Word) : Word × FpFlags := res32 (addF fmtFP32 m (f32 a) (f32 b))
def fsub32 (m : Round) (a b : Word) : Word × FpFlags := res32 (addF fmtFP32 m (f32 a) (negVal (f32 b)))
def fmul32 (m : Round) (a b : Word) : Word × FpFlags := res32 (mulF fmtFP32 m (f32 a) (f32 b))
def ffma32 (m : Round) (a b c : Word) : Word × FpFlags := res32 (fmaF fmtFP32 m (f32 a) (f32 b) (f32 c))
def fminmax32 (wantMax : Bool) (a b : Word) : Word × FpFlags :=
  (BitVec.ofNat 32 (minMaxF fmtFP32 wantMax a.toNat b.toNat), 0)
def hadd16 (m : Round) (a b : Word) : Word × FpFlags :=
  pack16 (addF fmtFP16 m (f16 (half16 a 0)) (f16 (half16 b 0))) (addF fmtFP16 m (f16 (half16 a 1)) (f16 (half16 b 1)))
def hmul16 (m : Round) (a b : Word) : Word × FpFlags :=
  pack16 (mulF fmtFP16 m (f16 (half16 a 0)) (f16 (half16 b 0))) (mulF fmtFP16 m (f16 (half16 a 1)) (f16 (half16 b 1)))
def hfma16 (m : Round) (a b c : Word) : Word × FpFlags :=
  pack16 (fmaF fmtFP16 m (f16 (half16 a 0)) (f16 (half16 b 0)) (f16 (half16 c 0)))
    (fmaF fmtFP16 m (f16 (half16 a 1)) (f16 (half16 b 1)) (f16 (half16 c 1)))
def hminmax16 (wantMax : Bool) (a b : Word) : Word × FpFlags :=
  pack16 (minMaxF fmtFP16 wantMax (half16 a 0).toNat (half16 b 0).toNat, 0)
    (minMaxF fmtFP16 wantMax (half16 a 1).toNat (half16 b 1).toNat, 0)

/-- The integral FP32 value a mode selects (08 R232): zeros and infinities unchanged, the sign kept, no flag. -/
def frnd32 (m : Round) (x : Word) : Word :=
  match f32 x with
  | .nan => nan32
  | .inf _ => x
  | .fin n num den e =>
    let r := roundInt m n num den e
    BitVec.ofNat 32 (withSign fmtFP32 n (roundCode fmtFP32 .ne n r.1.natAbs 1 0).1)

/-! ### Lane operations over operands -/

/-- A vector instruction of slot 0 with a flagged lane function (08 R221). -/
def vecFp (s : State) (pr : Pred) (d : VReg) (f : Nat → Word × FpFlags) : State :=
  let m := laneSet s pr
  raiseLanes (putVec s m d (fun l => (f l).1)) m (fun l => (f l).2)

def effF2 (op : Round → Word → Word → Word × FpFlags) (o : F2) (s : State) : State :=
  let w := srcWave s
  vecFp s o.pr o.d (fun l => op (effRound (issFmt s) o.rm) (applyMod o.ma 31 (readVReg w o.a l))
    (applyMod o.mb 31 (readVB w o.b l)))
def effH2 (op : Round → Word → Word → Word × FpFlags) (o : F2) (s : State) : State :=
  let w := srcWave s
  vecFp s o.pr o.d (fun l => op (effRound (issFmt s) o.rm) (applyMod2 o.ma (readVReg w o.a l))
    (applyMod2 o.mb (readVB w o.b l)))
def effFmm (op : Word → Word → Word × FpFlags) (o : FMinMax) (s : State) : State :=
  let w := srcWave s
  vecFp s o.pr o.d (fun l => op (applyMod o.ma 31 (readVReg w o.a l)) (applyMod o.mb 31 (readVB w o.b l)))
def effHmm (op : Word → Word → Word × FpFlags) (o : FMinMax) (s : State) : State :=
  let w := srcWave s
  vecFp s o.pr o.d (fun l => op (applyMod2 o.ma (readVReg w o.a l)) (applyMod2 o.mb (readVB w o.b l)))
def effFfma (o : F3) (s : State) : State :=
  let w := srcWave s
  vecFp s o.pr o.d (fun l => ffma32 (effRound (issFmt s) o.rm) (applyMod o.ma 31 (readVReg w o.a l))
    (applyMod o.mb 31 (readVB w o.b l)) (applyMod o.mc 31 (readVReg w o.c l)))
def effHfma (o : F3) (s : State) : State :=
  let w := srcWave s
  vecFp s o.pr o.d (fun l => hfma16 (effRound (issFmt s) o.rm) (applyMod2 o.ma (readVReg w o.a l))
    (applyMod2 o.mb (readVB w o.b l)) (applyMod2 o.mc (readVReg w o.c l)))
/-- FCMP: the condition of 08 R224 into a predicate. -/
def effFcmp (o : FCmp) (s : State) : State :=
  let w := srcWave s
  putPred s (laneSet s o.pr) o.d (fun l => fpCond o.cc (f32 (applyMod o.ma 31 (readVReg w o.a l)))
    (f32 (applyMod o.mb 31 (readVB w o.b l))))
def effFrnd (o : F1) (s : State) : State :=
  let w := srcWave s
  putVec s (laneSet s o.pr) o.d (fun l => frnd32 (effRound (issFmt s) o.rm) (applyMod o.ma 31 (readVReg w o.a l)))

/-! ### Meanings -/

/-- FADD: round(a + b, FP32) (08 R230). -/
def execFadd (o : F2) (s : State) : Host.Outcome State Fault Refusal := run (.fadd o) none false (effF2 fadd32 o) s
/-- FSUB: round(a - b, FP32) (08 R230). -/
def execFsub (o : F2) (s : State) : Host.Outcome State Fault Refusal := run (.fsub o) none false (effF2 fsub32 o) s
/-- FMUL: round(a x b, FP32) (08 R230). -/
def execFmul (o : F2) (s : State) : Host.Outcome State Fault Refusal := run (.fmul o) none false (effF2 fmul32 o) s
/-- FFMA: round(a x b + c, FP32), one rounding (08 R230). -/
def execFfma (o : F3) (s : State) : Host.Outcome State Fault Refusal := run (.ffma o) none false (effFfma o) s
/-- FMIN (08 R232). -/
def execFmin (o : FMinMax) (s : State) : Host.Outcome State Fault Refusal :=
  run (.fmin o) none false (effFmm (fminmax32 false) o) s
/-- FMAX (08 R232). -/
def execFmax (o : FMinMax) (s : State) : Host.Outcome State Fault Refusal :=
  run (.fmax o) none false (effFmm (fminmax32 true) o) s
/-- FCMP (08 R224). -/
def execFcmp (o : FCmp) (s : State) : Host.Outcome State Fault Refusal := run (.fcmp o) none false (effFcmp o) s
/-- FRND (08 R232). -/
def execFrnd (o : F1) (s : State) : Host.Outcome State Fault Refusal := run (.frnd o) none false (effFrnd o) s
/-- HADD2 (08 R230). -/
def execHadd2 (o : F2) (s : State) : Host.Outcome State Fault Refusal := run (.hadd2 o) none false (effH2 hadd16 o) s
/-- HMUL2 (08 R230). -/
def execHmul2 (o : F2) (s : State) : Host.Outcome State Fault Refusal := run (.hmul2 o) none false (effH2 hmul16 o) s
/-- HFMA2 (08 R230). -/
def execHfma2 (o : F3) (s : State) : Host.Outcome State Fault Refusal := run (.hfma2 o) none false (effHfma o) s
/-- HMIN2 (08 R232). -/
def execHmin2 (o : FMinMax) (s : State) : Host.Outcome State Fault Refusal :=
  run (.hmin2 o) none false (effHmm (hminmax16 false) o) s
/-- HMAX2 (08 R232). -/
def execHmax2 (o : FMinMax) (s : State) : Host.Outcome State Fault Refusal :=
  run (.hmax2 o) none false (effHmm (hminmax16 true) o) s

end Sys2Proof.Machine
end

