-- ==== Sys2Proof/Machine/LoadStore.lean ====
section
/-! DEFINITION. Loads and stores (09 R254 to R262): addresses, the checks made at issue, how a load is performed and how a
store leaves the store queue and enters the order M (03 R112, R116). -/

namespace Sys2Proof.Machine

/-! ### What a memory instruction accesses -/

/-- The spaces of 03 R97. -/
inductive Space
  | glob | loc | priv | weight | const
deriving DecidableEq, Repr

/-- The fields of a format M access: its space, whether it is of kind W, and ORD, SCOPE, SIZE, HINT and the offset. -/
structure MemInfo where
  space : Space
  wide : Bool
  sx : Bool
  ord : Ord
  scope : Scope
  size : Size
  hint : Hint
  ofs : DWord
deriving DecidableEq, Repr

def infoV (sp : Space) (o : MemV) : MemInfo :=
  { space := sp, wide := false, sx := o.sx, ord := o.ord, scope := o.scope, size := o.size, hint := o.hint,
    ofs := o.ofs.signExtend 64 }
def infoS (sp : Space) (o : MemS) : MemInfo :=
  { space := sp, wide := true, sx := false, ord := o.ord, scope := o.scope, size := o.size, hint := o.hint,
    ofs := o.ofs.signExtend 64 }
def infoAtom (sp : Space) (o : Atom) : MemInfo :=
  { space := sp, wide := false, sx := false, ord := o.ord, scope := o.scope, size := o.size, hint := o.hint,
    ofs := o.ofs.signExtend 64 }

/-- The access of an instruction, none where it is no load, store or atomic. -/
def memInfo : Instr → Option MemInfo
  | .ldG o => some (infoV .glob o) | .ldL o => some (infoV .loc o) | .ldP o => some (infoV .priv o)
  | .stG o => some (infoV .glob o) | .stL o => some (infoV .loc o) | .stP o => some (infoV .priv o)
  | .sldC o => some (infoS .const o) | .sldG o => some (infoS .glob o) | .ldw o => some (infoV .weight o)
  | .atomG o => some (infoAtom .glob o) | .atomL o => some (infoAtom .loc o)
  | .fatom o => some { space := .glob, wide := false, sx := false, ord := o.ord, scope := o.scope, size := .b4,
                       hint := o.hint, ofs := o.ofs.signExtend 64 }
  | .lr o => some { space := .glob, wide := false, sx := false, ord := o.ord, scope := o.scope, size := o.size,
                    hint := .none, ofs := o.ofs.signExtend 64 }
  | .sc o => some { space := .glob, wide := false, sx := false, ord := o.ord, scope := o.scope, size := o.size,
                    hint := .none, ofs := o.ofs.signExtend 64 }
  | .waitaddr o => some { space := if o.isLocal then .loc else .glob, wide := true, sx := false, ord := .acquire,
                          scope := o.scope, size := o.size, hint := .none, ofs := o.ofs.signExtend 64 }
  | _ => none

/-- The address of lane l (09 R254). -/
def opAddr (p : PendOp) (m : MemInfo) (l : Nat) : DWord :=
  if m.space = .glob ∨ m.space = .const then opPair p .a l + m.ofs
  else (opWord p .a 0 l + m.ofs.setWidth 32).setWidth 64

/-- The lanes of an access; kind W reads once for the wave. -/
def opLanes (p : PendOp) (m : MemInfo) : List Nat := if m.wide then [0] else lanesOf p.lanes

/-- A wave's team, or one with nothing in it. -/
def blankTeam : Team :=
  { id := 0, run := 0, node := 0, ctx := 0, stk := 0, status := .queued, pair := false, vendor := false, nwaves := 0,
    core := 0, winBase := 0, winSize := 0, copyBase := 0, pbase := 0,
    nl := 0, tiles := 0, tblocks := [], launch := 0, teamIdx := 0, batch := [], recsHeld := false, depth := 0, nbars := 0,
    barExpect := [], barCount := [], barPhase := 0, kregs := [], kwrites := [], copies := [], copyHead := 0, rsv := [], tdone := false, rings := [],
    task := none, faultedMark := false, placedAt := 0, rays := [], job := none, stopping := false, saved := none }
def teamOf (s : State) (w : Wave) : Team := (findTeam s w.team).getD blankTeam

/-! ### Checks at issue (09 R254, 03 R99 R101 R104 R106) -/

/-- The first lane of a list that a test fails, as a fault with its address. -/
def laneFault (c : Cause) (addr : Nat → DWord) (bad : Nat → Bool) : List Nat → Option OpFault
  | [] => none
  | l :: r => if bad l then some { cause := c, fkind := 0, lane := BitVec.ofNat 5 l, addr := addr l }
    else laneFault c addr bad r

/-- The end of the space, where the space has one, with the fault of an access past it. -/
def spaceBound (s : State) (w : Wave) : Space → Option (Cause × Nat)
  | .loc => some (.localBounds, (teamOf s w).winSize)
  | .priv => some (.privateBounds, (getCtx s (waveCtx s w)).psize.toNat)
  | .weight => some (.weightBounds, weightSize s (waveCtx s w))
  | _ => none

/-- The banks of the weight store an access reaches. -/
def weightBanks (s : State) (w : Wave) (a : DWord) (n : Nat) : List Nat :=
  let b := (getCtx s (waveCtx s w)).wbase.toNat + a.toNat
  [weightBank b, weightBank (b + n - 1)]

/-- The access names a powered-off location (03 R106). -/
def accessGated (s : State) (w : Wave) (sp : Space) (a : DWord) (n : Nat) : Bool :=
  match sp with
  | .loc => pairGated s (corePair (teamOf s w).core)
  | .weight => (weightBanks s w a n).any (bankGated s (coreStack w.core))
  | .priv => false
  | _ => (match translateAt s w.core (waveCtx s w) a .read with
    | .ok l => locGated s l
    | .error _ => false)

/-- A private access names a powered-off slice. -/
def privGated (s : State) (w : Wave) (p : PendOp) (l : Nat) (a n : Nat) : Bool :=
  (List.range ((n + 3) / 4)).any (fun k =>
    accessGated s w .glob (privAddr (teamOf s w) (cellsRead p.tlane l).toNat (a + 4 * k)) 4)

/-- The precise faults of an access. -/
def accessFault (s : State) (w : Wave) (p : PendOp) (m : MemInfo) : Option OpFault :=
  let n := sizeBytes m.size
  let ls := opLanes p m
  let a := opAddr p m
  orFault (laneFault .misaligned a (fun l => decide ((a l).toNat % n ≠ 0)) ls)
    (orFault (match spaceBound s w m.space with
      | none => none
      | some b => laneFault b.1 a (fun l => decide (b.2 < (a l).toNat + n)) ls)
      (laneFault .gated a (fun l =>
        if m.space = .priv then privGated s w p l (a l).toNat n else accessGated s w m.space (a l) n) ls))

/-- The operation an instruction would issue as. -/
def issueOp (s : State) (i : Instr) : PendOp := newPend s i (laneSet s (predOfInstr i))
/-- The precise faults of a memory instruction at issue. -/
def memFault (i : Instr) (s : State) : Option OpFault :=
  match memInfo i with
  | none => none
  | some m => accessFault s (srcWave s) (issueOp s i) m

/-! ### Places of an access -/

/-- The virtual addresses of a lane's access: one for a global access, one for each word of a private one (03 R101), of the lane
that issued it (01 R41). -/
def vaPieces (t : Team) (p : PendOp) (sp : Space) (l : Nat) (a : DWord) (n : Nat) : List (DWord × Nat) :=
  if sp = .priv then
    let tl := (cellsRead p.tlane l).toNat
    if n ≤ 4 then [(privAddr t tl a.toNat, n)]
    else (List.range (n / 4)).map (fun k => (privAddr t tl (a.toNat + 4 * k), 4))
  else [(a, n)]

/-- Translates the pieces of one lane. -/
def placePieces (s : State) (core : CoreNum) (c : CtxNum) (acc : Access) : List (DWord × Nat) → Except (BitVec 3) (List (Loc × Nat))
  | [] => .ok []
  | x :: r => match translateAt s core c x.1 acc with
    | .error k => .error k
    | .ok l => match placePieces s core c acc r with
      | .error k => .error k
      | .ok q => .ok ((l, x.2) :: q)

/-- Translates every lane before any access (09 R258); FADDR is the address the instruction forms. -/
def placeLanes (s : State) (w : Wave) (p : PendOp) (m : MemInfo) (acc : Access) :
    List Nat → Except OpFault (List (Nat × List (Loc × Nat)))
  | [] => .ok []
  | l :: r =>
    let t := teamOf s w
    match placePieces s w.core t.ctx acc (vaPieces t p m.space l (opAddr p m l) (sizeBytes m.size)) with
    | .error k => .error { cause := .translation, fkind := k, lane := BitVec.ofNat 5 l, addr := opAddr p m l }
    | .ok x => match placeLanes s w p m acc r with
      | .error f => .error f
      | .ok q => .ok ((l, x) :: q)

/-! ### The store queue (03 R112, 09 R262) -/

/-- The lanes of a store, an atomic or an SC that act: helper lanes do not (06 R199). -/
def actingLanes (p : PendOp) : List Nat := lanesOf (p.lanes &&& ~~~p.helper)

/-- The bytes a store writes in a lane. -/
def storeData (p : PendOp) (n l : Nat) : List Byte :=
  (wordBytes ((List.range ((n + 3) / 4)).map (fun k => opWord p .d k l))).take n

/-- Bytes spread over the pieces of a lane. -/
def spread : List (Loc × Nat) → List Byte → List (Loc × List Byte)
  | [], _ => []
  | x :: r, bs => (x.1, bs.take x.2) :: spread r (bs.drop x.2)

/-- Single bytes of runs of bytes. -/
def byteRuns (l : List (Loc × List Byte)) : List (Loc × Byte) :=
  l.flatMap (fun e => (List.range e.2.length).zip e.2 |>.map (fun x => ({ e.1 with addr := e.1.addr + x.1 }, x.2)))

/-- The bytes a queued global or private store will write, in lane order. -/
def queuedGlobal (s : State) (w : Wave) (p : PendOp) : List (Loc × Byte) :=
  match memInfo p.instr with
  | none => []
  | some m =>
    if m.space = .loc then []
    else match placeLanes s w p m .write (actingLanes p) with
      | .error _ => []
      | .ok q => q.flatMap (fun e => byteRuns (spread e.2 (storeData p (sizeBytes m.size) e.1)))
/-- The bytes a queued local store will write: keys of the local store. -/
def queuedLocal (s : State) (w : Wave) (p : PendOp) : List (Nat × Byte) :=
  match memInfo p.instr with
  | none => []
  | some m =>
    if m.space = .loc then
      (actingLanes p).flatMap (fun l =>
        let bs := storeData p (sizeBytes m.size) l
        (List.range bs.length).zip bs |>.map (fun x => (localKey (teamOf s w) ((opAddr p m l).toNat + x.1), x.2)))
    else []

/-- The latest entry of a list with a key. -/
def latestOf {k : Type} [DecidableEq k] (a : k) (old : Byte) : List (k × Byte) → Byte
  | [] => old
  | e :: r => latestOf a (if e.1 = a then e.2 else old) r

/-- An access that 03 R112 keeps in the wave's order: a load, an atomic, an LR, an SC or a sample. -/
def memOrdered : Instr → Bool
  | .ldG _ => true | .ldL _ => true | .ldP _ => true | .sldG _ => true | .atomG _ => true | .atomL _ => true
  | .fatom _ => true | .lr _ => true | .sc _ => true | .texG _ => true | .texL _ => true | _ => false
/-- An earlier access has not been performed. -/
def earlierOpen (w : Wave) (seq : Nat) : Bool :=
  w.pend.any (fun q => memOrdered q.instr && !q.performed && q.fault.isNone && decide (q.seq < seq))
/-- A store that faulted has stopped the queue (15 R374). -/
def queueStopped (w : Wave) : Bool := w.pend.any (fun q => isStore q.instr && q.fault.isSome)

/-! ### Releases (03 R116 R117) -/

/-- An ordered access is performed at the home (03 R114). -/
def atHome (t : Team) (ord : Ord) (sc : Scope) : Bool := decide (ord ≠ .plain) && wideScope t.pair sc
def isRelease : Ord → Bool
  | .release => true | .acqRel => true | .sc => true | _ => false
def isAcquire : Ord → Bool
  | .acquire => true | .acqRel => true | .sc => true | _ => false

/-- The release effect of an access at a location: lazy where 03 R117 R119 allow, else an eager clean. -/
def releaseAt (s : State) (c : CoreNum) (x : CtxNum) (sc : Scope) (l : Loc) : State :=
  if sc = .sys ∨ l.host = true ∨ tagRoom s c (l.addr / 64) = false then eagerClean s c
  else lazyTag s c x none (.line (l.addr / 64))

/-- One write performed at the home: the core's own dirty bytes first, its copy valid and clean after
(03 R116, notes/assumptions/15.md). -/
def writeHome (s : State) (w : Wave) (x : CtxNum) (h : Hint) (l : Loc) (bs : List Byte) : State :=
  let s := cleanRange s w.core l bs.length
  enterEvents (setClean (touchL2 (homeWrite s l bs) h l) w.core x h l bs) w.id w.core l

/-- A .sc access takes a ticket of the sequencer on stack 0 (03 R120); one of stack 1 crosses the hinge link (03 R121,
16 R399). -/
def takeTickets (s : State) (c : CoreNum) (ord : Ord) (n : Nat) : State :=
  if ord = .sc then
    { s with scTicket := s.scTicket + BitVec.ofNat 48 n,
             hinge := if coreStack c = 1 then cellsWrite s.hinge 4 (cellsRead s.hinge 4 + BitVec.ofNat 64 n) else s.hinge }
  else s

/-! ### Stores leave the queue -/

/-- The runs of a store that enter M in the column cache, or are performed at the home. -/
def storeRuns (w : Wave) (t : Team) (m : MemInfo) (s : State) : List (Loc × List Byte) → State
  | [] => s
  | e :: r =>
    let s :=
      if m.space = .glob ∧ atHome t m.ord m.scope = true then
        writeHome (if isRelease m.ord then releaseAt s w.core t.ctx m.scope e.1 else s) w t.ctx m.hint e.1 e.2
      else enterEvents (cacheStore s w.core t.ctx m.hint (decide (m.space = .priv)) e.1 e.2) w.id w.core e.1
    storeRuns w t m s r

/-- The lanes of a local store at the banks. -/
def storeLocal (w : Wave) (t : Team) (p : PendOp) (m : MemInfo) (s : State) : List Nat → State
  | [] => s
  | l :: r => storeLocal w t p m
      (localWrite s (localKey t (opAddr p m l).toNat) (storeData p (sizeBytes m.size) l)) r

/-- A local access at .team scope or wider, which has the effect of .team (03 R111). -/
def wideLocal : Scope → Bool
  | .team => true | .dev => true | .sys => true | _ => false

/-- A store enters M (09 R262), or faults with no byte written (09 R258). -/
def enterStore (s : State) (w : Wave) (p : PendOp) : Except OpFault State :=
  match memInfo p.instr with
  | none => .ok s
  | some m =>
    let t := teamOf s w
    let ls := actingLanes p
    if m.space = .loc then
      let s := if isRelease m.ord ∧ t.pair = true ∧ wideLocal m.scope = true then eagerClean s w.core else s
      .ok (storeLocal w t p m s ls)
    else match placeLanes s w p m .write ls with
      | .error f => .error f
      | .ok q =>
        let s := if isRelease m.ord ∧ atHome t m.ord m.scope = true ∧ q.isEmpty then eagerClean s w.core else s
        let s := takeTickets s w.core m.ord q.length
        .ok (storeRuns w t m s (q.flatMap (fun e => spread e.2 (storeData p (sizeBytes m.size) e.1))))

/-- The oldest queued store leaves the queue. A fault stops the queue; where the wave has exited, the queue is discarded
(15 R374). -/
def drainOne (s : State) (w : Wave) : State :=
  match w.sq with
  | [] => s
  | p :: r =>
    match enterStore s w p with
    | .ok s => updWave s w.id (fun w => { w with sq := r })
    | .error f =>
      let i := opTrap p f .boundary 0 p.pc
      if w.status = .exited then exitedFault (updWave s w.id (fun w => { w with sq := [] })) w i
      else updWave s w.id (fun w => { w with sq := r, pend := w.pend ++ [{ p with fault := some f }],
                                             bfaults := w.bfaults ++ [i] })

/-- Stores older than an access leave the queue before it is performed (03 R112 item 5, R116). -/
def drainBefore (s : State) (wid seq : Nat) : Nat → State
  | 0 => s
  | n + 1 => match findWave s wid with
    | none => s
    | some w =>
      match w.sq with
      | [] => s
      | p :: _ => if p.seq < seq ∧ queueStopped w = false then drainBefore (drainOne s w) wid seq n else s

/-- Whether an older store is still queued. -/
def storeBefore (s : State) (wid seq : Nat) : Bool :=
  match findWave s wid with
  | none => false
  | some w => w.sq.any (fun p => decide (p.seq < seq))

/-! ### Performing a load -/

/-- A read at the home slice, or at the host: the core's own dirty bytes first, then the pull (03 R114 R118). -/
def readHome (s : State) (c : CoreNum) (h : Hint) (l : Loc) (n : Nat) : List Byte × State :=
  let s := pullTags (cleanRange s c l n) (some c) l
  (homeRead s l n, touchL2 s h l)

/-- The bytes of the pieces of one lane: every access is made in one step, a 16-byte one too, which 03 R110 lets tear between
its 8-byte halves (DESIGN CHOICE, notes/assumptions/97.md). -/
def loadPieces (c : CoreNum) (x : CtxNum) (h : Hint) (priv home : Bool) (s : State) : List (Loc × Nat) → List Byte × State
  | [] => ([], s)
  | e :: r =>
    let q := if home then readHome s c h e.1 e.2 else cacheLoad s c x h priv e.1 e.2
    let v := loadPieces c x h priv home q.2 r
    (q.1 ++ v.1, v.2)

/-- Bytes of the lanes of a load, with the wave's own queued bytes over them (03 R112 item 4). -/
def loadLanes (c : CoreNum) (x : CtxNum) (h : Hint) (priv home : Bool) (queued : List (Loc × Byte)) (s : State) :
    List (Nat × List (Loc × Nat)) → List (Nat × List Byte) × State
  | [] => ([], s)
  | e :: r =>
    let q := loadPieces c x h priv home s e.2
    let locs := e.2.flatMap (fun y => (List.range y.2).map (fun k => ({ y.1 with addr := y.1.addr + k } : Loc)))
    let bs := (locs.zip q.1).map (fun y => latestOf y.1 y.2 queued)
    let v := loadLanes c x h priv home queued q.2 r
    ((e.1, bs) :: v.1, v.2)

/-- Some byte of a lane lies in a sector with an uncorrectable error that the load would read (18 R428). -/
def piecesPoisoned (s : State) (c : CoreNum) (home : Bool) (l : List (Loc × Nat)) : Bool :=
  l.any (fun e => if home then rangePoisoned s e.1 e.2 else loadPoisoned s c e.1 e.2)
def poisonFault (s : State) (c : CoreNum) (home : Bool) (p : PendOp) (m : MemInfo) :
    List (Nat × List (Loc × Nat)) → Option OpFault
  | [] => none
  | e :: r => if piecesPoisoned s c home e.2 then
      some { cause := .softError, fkind := 0, lane := BitVec.ofNat 5 e.1, addr := opAddr p m e.1 }
    else poisonFault s c home p m r

/-- A loaded value in the registers of 09 R255. -/
def loadWords (m : MemInfo) (bs : List Byte) : List Word :=
  let x := wordAt bs 0
  match m.size with
  | .b1 => [if m.sx then (x.extractLsb' 0 8).signExtend 32 else x]
  | .b2 => [if m.sx then (x.extractLsb' 0 16).signExtend 32 else x]
  | .b4 => [x]
  | .b8 => [x, wordAt bs 4]
  | .b16 => [x, wordAt bs 4, wordAt bs 8, wordAt bs 12]
def loadWrs (p : PendOp) (m : MemInfo) (l : Nat) (bs : List Byte) : List Wr :=
  let ws := loadWords m bs
  (List.range ws.length).zip ws |>.map (fun e =>
    if m.wide then .s (dstNum p .s + e.1) e.2 else .v (dstNum p .v + e.1) l e.2)

/-- An operation with its results fixed, and one that has faulted. -/
def donePend (p : PendOp) (r : List Wr) : PendOp := { p with performed := true, results := r }
def failPend (p : PendOp) (f : OpFault) : PendOp := { p with fault := some f }

/-- What an acquire does to the column cache (03 R116). -/
def acquireEffect (s : State) (t : Team) (c : CoreNum) (ord : Ord) (sc : Scope) : State :=
  if isAcquire ord ∧ atHome t ord sc = true then invalidate s c else s

/-- A load of global or private memory performed (09 R259 R260). -/
def performGlobal (s : State) (w : Wave) (p : PendOp) (m : MemInfo) : State × PendOp :=
  let t := teamOf s w
  let home := decide (m.space = .glob) && atHome t m.ord m.scope
  match placeLanes s w p m .read (opLanes p m) with
  | .error f => (s, failPend p f)
  | .ok q =>
    match poisonFault s w.core home p m q with
    | some f => (s, failPend p f)
    | none =>
      let queued := (w.sq.filter (fun x => decide (x.seq < p.seq))).flatMap (queuedGlobal s w)
      let s := takeTickets s w.core m.ord q.length
      let r := loadLanes w.core t.ctx m.hint (decide (m.space = .priv)) home queued s q
      (acquireEffect r.2 t w.core m.ord m.scope, donePend p (r.1.flatMap (fun e => loadWrs p m e.1 e.2)))

/-- A scalar load from constant space performed, through the constant cache of the core's pair (09 R260, 03 R103). -/
def performConst (s : State) (w : Wave) (p : PendOp) (m : MemInfo) : State × PendOp :=
  let a := opAddr p m 0
  match translateAt s w.core (teamOf s w).ctx a .read with
  | .error k => (s, failPend p { cause := .translation, fkind := k, lane := 0, addr := a })
  | .ok l =>
    if constPoisoned s (corePair w.core) l then (s, failPend p { cause := .softError, fkind := 0, lane := 0, addr := a })
    else
      let r := constLoad s (corePair w.core) m.hint l (sizeBytes m.size)
      (r.2, donePend p (loadWrs p m 0 r.1))

/-- A load of the local store performed: at the banks, with the wave's own queued bytes over them. -/
def performLocal (s : State) (w : Wave) (p : PendOp) (m : MemInfo) : State × PendOp :=
  let t := teamOf s w
  let queued := (w.sq.filter (fun x => decide (x.seq < p.seq))).flatMap (queuedLocal s w)
  let one := fun (l : Nat) =>
    let k := localKey t (opAddr p m l).toNat
    (List.range (sizeBytes m.size)).map (fun j => latestOf (k + j) (cellsRead s.lstore (k + j)) queued)
  let wide := isAcquire m.ord && t.pair && wideLocal m.scope
  (if wide then invalidate s w.core else s, donePend p ((opLanes p m).flatMap (fun l => loadWrs p m l (one l))))

/-- LDW performed (09 R261). -/
def performWeight (s : State) (w : Wave) (p : PendOp) (m : MemInfo) : State × PendOp :=
  (s, donePend p ((opLanes p m).flatMap (fun l =>
    loadWrs p m l (weightRead s (coreStack w.core) (waveCtx s w) (opAddr p m l).toNat (sizeBytes m.size)))))

/-- A load performed. An ordered load drains the store queue first (03 R116); a queue that a fault has stopped leaves it
unperformed. -/
def performLoad (s : State) (w : Wave) (p : PendOp) (m : MemInfo) : State × PendOp :=
  let s := if isAcquire m.ord then drainBefore s w.id p.seq 17 else s
  if isAcquire m.ord ∧ storeBefore s w.id p.seq = true then (s, p)
  else
    let w := (findWave s w.id).getD w
    match m.space with
    | .loc => performLocal s w p m
    | .weight => performWeight s w p m
    | .const => performConst s w p m
    | _ => performGlobal s w p m

/-! ### The instructions -/

/-- A flagged memory operation issues. -/
def issueMem (i : Instr) (s : State) : State := issuePend s (issueOp s i)

/-- LD.g (09 R259). -/
def execLdG (o : MemV) (s : State) : Host.Outcome State Fault Refusal :=
  run (.ldG o) (memFault (.ldG o) s) false (issueMem (.ldG o)) s
/-- LD.l (09 R259). -/
def execLdL (o : MemV) (s : State) : Host.Outcome State Fault Refusal :=
  run (.ldL o) (memFault (.ldL o) s) false (issueMem (.ldL o)) s
/-- LD.p (09 R259). -/
def execLdP (o : MemV) (s : State) : Host.Outcome State Fault Refusal :=
  run (.ldP o) (memFault (.ldP o) s) false (issueMem (.ldP o)) s
/-- SLD.c (09 R260). -/
def execSldC (o : MemS) (s : State) : Host.Outcome State Fault Refusal :=
  run (.sldC o) (memFault (.sldC o) s) false (issueMem (.sldC o)) s
/-- SLD.g (09 R260). -/
def execSldG (o : MemS) (s : State) : Host.Outcome State Fault Refusal :=
  run (.sldG o) (memFault (.sldG o) s) false (issueMem (.sldG o)) s

/-- A lane of an LDW reads a bank in its refresh window: the slot is HELD (09 R261, 03 R105). -/
def ldwHeld (o : MemV) (s : State) : Bool :=
  let p := issueOp s (.ldw o)
  let m := infoV .weight o
  (opLanes p m).any (fun l => (weightBanks s (srcWave s) (opAddr p m l) (sizeBytes m.size)).any
    (bankRefreshing s (coreStack (srcWave s).core)))
/-- LDW (09 R261). -/
def execLdw (o : MemV) (s : State) : Host.Outcome State Fault Refusal :=
  run (.ldw o) (memFault (.ldw o) s) (ldwHeld o s) (issueMem (.ldw o)) s

/-- A store issues into the store queue; it is a progress act where an active lane that is no helper lane stores
(09 R262, 01 R58). -/
def issueStore (i : Instr) (s : State) : State :=
  let p := issueOp s i
  updCur s (fun w =>
    let w := { w with sq := w.sq ++ [p], opSeq := w.opSeq + 1 }
    if p.lanes &&& ~~~p.helper ≠ 0 then progress w else w)
/-- ST.g (09 R262). -/
def execStG (o : MemV) (s : State) : Host.Outcome State Fault Refusal :=
  run (.stG o) (memFault (.stG o) s) false (issueStore (.stG o)) s
/-- ST.l (09 R262). -/
def execStL (o : MemV) (s : State) : Host.Outcome State Fault Refusal :=
  run (.stL o) (memFault (.stL o) s) false (issueStore (.stL o)) s
/-- ST.p (09 R262). -/
def execStP (o : MemV) (s : State) : Host.Outcome State Fault Refusal :=
  run (.stP o) (memFault (.stP o) s) false (issueStore (.stP o)) s

end Sys2Proof.Machine
end

