-- ==== Sys2Proof/Machine/Atomics.lean ====
section
/-! DEFINITION. ATOM, FATOM, LR and SC (09 R263 to R267, 03 R114 R115). -/

namespace Sys2Proof.Machine

/-! ### New values -/

/-- The signed value of an n-bit unsigned integer. -/
def signedOf (bits x : Nat) : Int := if x < 2 ^ (bits - 1) then (x : Int) else (x : Int) - (2 ^ bits : Nat)

/-- The new value of ATOM at bits of width 32 or 64 (09 R263). -/
def atomNew (op : AtomOp) (bits old c d : Nat) : Nat :=
  match op with
  | .add => (old + c) % 2 ^ bits
  | .min => if signedOf bits c < signedOf bits old then c else old
  | .max => if signedOf bits old < signedOf bits c then c else old
  | .minu => if c < old then c else old
  | .maxu => if old < c then c else old
  | .and => old &&& c
  | .or => old ||| c
  | .xor => old ^^^ c
  | .exch => c
  | .cas => if old = d then c else old
  | .inc => if c ≤ old then 0 else old + 1
  | .dec => if old = 0 ∨ c < old then c else old - 1

/-- Sums of the two elements of a packed register of a format, rounded to nearest even (09 R265). -/
def addPair (f : FloatFmt) (x y : Word) : Word :=
  (pack16 (addF f .ne (decodeFloat f (half16 x 0).toNat) (decodeFloat f (half16 y 0).toNat))
    (addF f .ne (decodeFloat f (half16 x 1).toNat) (decodeFloat f (half16 y 1).toNat))).1

/-- The new word of FATOM (09 R265): the flags of the operation are not kept. -/
def fatomNew (op : FatomOp) (old c : Word) : Word :=
  match op with
  | .addF32 => (fadd32 .ne old c).1
  | .addF16x2 => addPair fmtFP16 old c
  | .addBf16x2 => addPair fmtBF16 old c
  | .minF32 => (fminmax32 false old c).1
  | .maxF32 => (fminmax32 true old c).1

/-- An operand of a lane as an unsigned integer of the access's size. -/
def opNat (p : PendOp) (o : Opnd) (size : Size) (l : Nat) : Nat :=
  if size = .b8 then (opPair p o l).toNat else (opWord p o 0 l).toNat

/-- The value an atomic writes in a lane, given the old one. -/
def newValue (p : PendOp) (size : Size) (l old : Nat) : Nat :=
  match p.instr with
  | .atomG o => atomNew o.op (8 * sizeBytes size) old (opNat p .c size l) (opNat p .d size l)
  | .atomL o => atomNew o.op (8 * sizeBytes size) old (opNat p .c size l) (opNat p .d size l)
  | .fatom o => (fatomNew o.op (BitVec.ofNat 32 old) (opWord p .c 0 l)).toNat
  | _ => old

/-- Whether an operation at the host raises the host-atomic fault: it has no AtomicOp, or the host does not complete it (03 R115,
09 R258 R265). -/
def hostRefuses (answers home : Bool) : Instr → Bool
  | .atomG o => home && (!answers || (match o.op with
    | .add => false | .exch => false | .cas => false | _ => true))
  | .fatom _ => true
  | _ => false
def hostFault (answers : Bool) (p : PendOp) (m : MemInfo) (home : Bool) : List (Nat × List (Loc × Nat)) → Option OpFault
  | [] => none
  | e :: r => if hostRefuses answers home p.instr && e.2.any (fun x => x.1.host) then
      some { cause := .hostAtomic, fkind := 0, lane := BitVec.ofNat 5 e.1, addr := opAddr p m e.1 }
    else hostFault answers p m home r

/-! ### Performing -/

/-- One lane of an atomic: at the bank, at the home, or in the column cache in the order M (03 R114, 09 R264). -/
def atomLane (w : Wave) (p : PendOp) (m : MemInfo) (s : State) (e : Nat × Bool × Nat) : List Wr × State :=
  let t := teamOf s w
  let n := sizeBytes m.size
  let home := atHome t m.ord m.scope
  let x : Loc := { host := e.2.1, addr := e.2.2 }
  if m.space = .loc then
    let old := localRead s e.2.2 n
    (loadWrs p m e.1 old, localWrite s e.2.2 (leBytes (newValue p m.size e.1 (leNat old)) n))
  else
    let s := if home && isRelease m.ord then releaseAt s w.core t.ctx m.scope x else s
    let q := if home then readHome s w.core m.hint x n else cacheLoad s w.core t.ctx m.hint false x n
    let bs := leBytes (newValue p m.size e.1 (leNat q.1)) n
    let s := if home then writeHome q.2 w t.ctx m.hint x bs
      else enterEvents (cacheStore q.2 w.core t.ctx m.hint false x bs) w.id w.core x
    (loadWrs p m e.1 q.1, s)

/-- An atomic that writes by an active lane that is no helper lane is a progress act (01 R58). -/
def progressIf (s : State) (wid : Nat) (b : Bool) : State := if b then updWave s wid progress else s

/-- An atomic begins: earlier stores enter M, and every lane's place is fixed before any lane performs (09 R258 R264). -/
def beginAtomic (s : State) (w : Wave) (p : PendOp) (m : MemInfo) : State × PendOp :=
  let s := drainBefore s w.id p.seq 17
  if storeBefore s w.id p.seq then (s, p)
  else
    let w := (findWave s w.id).getD w
    let t := teamOf s w
    let ls := actingLanes p
    if m.space = .loc then
      (if t.pair && wideLocal m.scope && isRelease m.ord then eagerClean s w.core else s,
       { p with begun := true, todo := ls.map (fun l => (l, false, localKey t (opAddr p m l).toNat)) })
    else
      let home := atHome t m.ord m.scope
      match placeLanes s w p m .write ls with
      | .error f => (s, failPend p f)
      | .ok q =>
        match orFault (hostFault s.hostAtomics p m home q) (poisonFault s w.core home p m q) with
        | some f => (s, failPend p f)
        | none =>
          let s := if home && isRelease m.ord && q.isEmpty then eagerClean s w.core else s
          (takeTickets s w.core m.ord q.length,
           { p with begun := true, todo := q.filterMap (fun e => e.2.head?.map (fun x => (e.1, x.1.host, x.1.addr))) })
/-- Every lane has performed: the acquire of the atomic, and its progress act. -/
def endAtomic (s : State) (w : Wave) (p : PendOp) (m : MemInfo) : State × PendOp :=
  let t := teamOf s w
  let s := if m.space = .loc then (if t.pair && wideLocal m.scope && isAcquire m.ord then invalidate s w.core else s)
    else acquireEffect s t w.core m.ord m.scope
  (progressIf s w.id (!(actingLanes p).isEmpty), { p with performed := true })
/-- The lanes of an atomic that are still to come, in ascending position. -/
def atomLanes (w : Wave) (p : PendOp) (m : MemInfo) (s : State) : List (Nat × Bool × Nat) → List Wr × State
  | [] => ([], s)
  | e :: r =>
    let q := atomLane w p m s e
    let v := atomLanes w p m q.2 r
    (q.1 ++ v.1, v.2)
/-- At most n further lanes of an atomic, which ends with its last. -/
def atomSome (s : State) (w : Wave) (p : PendOp) (m : MemInfo) (n : Nat) : State × PendOp :=
  let q := if p.begun then (s, p) else beginAtomic s w p m
  if q.2.begun then
    let r := atomLanes w q.2 m q.1 (q.2.todo.take n)
    let p := { q.2 with todo := q.2.todo.drop n, results := q.2.results ++ r.1 }
    if p.todo.isEmpty then endAtomic r.2 w p m else (r.2, p)
  else q
/-- ATOM and FATOM performed (09 R264): what is left of them. -/
def performAtomic (s : State) (w : Wave) (p : PendOp) (m : MemInfo) : State × PendOp := atomSome s w p m 32

/-- The granule of a place (09 R266). -/
def granuleOf (l : Loc) : Granule := { host := l.host, line := l.addr / 64 }

/-- Lanes set reservations; a new one replaces the lane's old one. -/
def reserveLane (l : Nat) (g : Granule) (w : Wave) : Wave :=
  { w with resv := (BitVec.ofNat 5 l, g) :: w.resv.filter (fun r => decide (r.1.toNat ≠ l)) }
def unreserveLane (l : Nat) (w : Wave) : Wave := { w with resv := w.resv.filter (fun r => decide (r.1.toNat ≠ l)) }
def holdsGranule (w : Wave) (l : Nat) (g : Granule) : Bool := w.resv.contains (BitVec.ofNat 5 l, g)

/-- The lanes of an LR at the home slice. -/
def lrLanes (wid : Nat) (p : PendOp) (m : MemInfo) (s : State) : List (Nat × List (Loc × Nat)) → List Wr × State
  | [] => ([], s)
  | e :: r =>
    match findWave s wid, e.2 with
    | some w, x :: _ =>
      let q := readHome s w.core .none x.1 x.2
      let s := if inMask p.helper e.1 then q.2 else updWave q.2 wid (reserveLane e.1 (granuleOf x.1))
      let v := lrLanes wid p m s r
      (loadWrs p m e.1 q.1 ++ v.1, v.2)
    | _, _ => lrLanes wid p m s r

/-- LR performed (09 R266). -/
def performLr (s : State) (w : Wave) (p : PendOp) (m : MemInfo) : State × PendOp :=
  let s := drainBefore s w.id p.seq 17
  if storeBefore s w.id p.seq then (s, p)
  else
    let w := (findWave s w.id).getD w
    match placeLanes s w p m .read (lanesOf p.lanes) with
    | .error f => (s, failPend p f)
    | .ok q =>
      match poisonFault s w.core true p m q with
      | some f => (s, failPend p f)
      | none =>
        let r := lrLanes w.id p m s q
        (acquireEffect r.2 (teamOf s w) w.core m.ord m.scope, donePend p r.1)

/-- The lanes of an SC, in ascending position (09 R266). -/
def scLanes (wid : Nat) (p : PendOp) (m : MemInfo) (s : State) : List (Nat × List (Loc × Nat)) → List Wr × State
  | [] => ([], s)
  | e :: r =>
    match findWave s wid, e.2 with
    | some w, x :: _ =>
      let t := teamOf s w
      let won := holdsGranule w e.1 (granuleOf x.1)
      let s := if won then
          let s := if isRelease m.ord then releaseAt s w.core t.ctx m.scope x.1 else s
          progressIf (writeHome s w t.ctx m.hint x.1 (leBytes (opNat p .c m.size e.1) x.2)) wid true
        else s
      let v := scLanes wid p m (updWave s wid (unreserveLane e.1)) r
      (.v (dstNum p .v) e.1 (if won then 1 else 0) :: v.1, v.2)
    | _, _ => scLanes wid p m s r

/-- SC performed: a helper lane writes nothing and returns 0 (06 R199). -/
def performSc (s : State) (w : Wave) (p : PendOp) (m : MemInfo) : State × PendOp :=
  let s := drainBefore s w.id p.seq 17
  if storeBefore s w.id p.seq then (s, p)
  else
    let w := (findWave s w.id).getD w
    match placeLanes s w p m .write (actingLanes p) with
    | .error f => (s, failPend p f)
    | .ok q =>
      let r := scLanes w.id p m s q
      (r.2, donePend p (r.1 ++ (lanesOf (p.lanes &&& p.helper)).map (fun l => .v (dstNum p .v) l 0)))

/-! ### The instructions -/

/-- ATOM.g (09 R263). -/
def execAtomG (o : Atom) (s : State) : Host.Outcome State Fault Refusal :=
  run (.atomG o) (memFault (.atomG o) s) false (issueMem (.atomG o)) s
/-- ATOM.l (09 R263). -/
def execAtomL (o : Atom) (s : State) : Host.Outcome State Fault Refusal :=
  run (.atomL o) (memFault (.atomL o) s) false (issueMem (.atomL o)) s
/-- FATOM (09 R265). -/
def execFatom (o : Fatom) (s : State) : Host.Outcome State Fault Refusal :=
  run (.fatom o) (memFault (.fatom o) s) false (issueMem (.fatom o)) s
/-- LR (09 R266). -/
def execLr (o : LoadRes) (s : State) : Host.Outcome State Fault Refusal :=
  run (.lr o) (memFault (.lr o) s) false (issueMem (.lr o)) s
/-- SC (09 R266). -/
def execSc (o : StoreCond) (s : State) : Host.Outcome State Fault Refusal :=
  run (.sc o) (memFault (.sc o) s) false (issueMem (.sc o)) s

end Sys2Proof.Machine
end

