-- ==== Sys2Proof/Machine/Texture.lean ====
section
/-! DEFINITION. Derivatives and sampling: DDX, DDY, TEX.G and TEX.L (06 R196 to R198, 11 R329 to R331). -/

namespace Sys2Proof.Machine

/-! ### Derivatives -/

/-- The difference of two lanes, the lane with the bit set less the one with it clear (06 R196). -/
def derivLane (s : State) (o : Deriv) (bitv : Nat) (l : Nat) : Word × FpFlags :=
  let w := srcWave s
  let lo := if l / bitv % 2 = 1 then l - bitv else l
  fsub32 (effRound (issFmt s) o.rm) (readVReg w o.a (lo + bitv)) (readVReg w o.a lo)
/-- DDX (11 R329). -/
def execDdx (o : Deriv) (s : State) : Host.Outcome State Fault Refusal :=
  run (.ddx o) none false (fun s => vecFp s o.pr o.d (derivLane s o 1)) s
/-- DDY (11 R329). -/
def execDdy (o : Deriv) (s : State) : Host.Outcome State Fault Refusal :=
  run (.ddy o) none false (fun s => vecFp s o.pr o.d (derivLane s o 2)) s

/-! ### The sampler descriptor (06 R197) -/

/-- Texel formats. -/
inductive TexFmt
  | rgba8 | rgba16f | r32f | rg16f
deriving DecidableEq, Repr

/-- ADDR and FILT as their codes. -/
structure Sampler where
  levels : Nat
  filt : Nat
  addrMode : Nat
  fmt : TexFmt
  width : Nat
  height : Nat
  base : Nat
deriving DecidableEq, Repr

def texFmtOf (x : BitVec 4) : Option TexFmt :=
  match x.toNat with
  | 0 => some .rgba8 | 1 => some .rgba16f | 2 => some .r32f | 3 => some .rg16f | _ => none

/-- The descriptor of eight words, low word first; none where it holds a reserved value. -/
def samplerOf (ws : List Word) : Option Sampler :=
  let x : BitVec 256 := BitVec.ofNat 256 (ws.foldr (fun w n => w.toNat + 4294967296 * n) 0)
  let levels := (x.extractLsb' 220 4).toNat
  let filt := (x.extractLsb' 218 2).toNat
  let am := (x.extractLsb' 216 2).toNat
  let base := (x.extractLsb' 128 52).toNat
  if x.extractLsb' 224 32 ≠ 0 ∨ x.extractLsb' 180 4 ≠ 0 ∨ x.extractLsb' 0 128 ≠ 0 ∨ levels = 0 ∨ filt = 3 ∨ am = 3 ∨
      base % 256 ≠ 0 then none
  else (texFmtOf (x.extractLsb' 212 4)).map (fun f =>
    { levels := levels, filt := filt, addrMode := am, fmt := f, width := (x.extractLsb' 184 14).toNat + 1,
      height := (x.extractLsb' 198 14).toNat + 1, base := base })

def texelBytes : TexFmt → Nat
  | .rgba16f => 8 | _ => 4
def levelSize (w n : Nat) : Nat := if w / 2 ^ n = 0 then 1 else w / 2 ^ n
/-- Address of level n (11 R331). -/
def levelBase (d : Sampler) : Nat → Nat
  | 0 => d.base
  | n + 1 => (levelBase d n + levelSize d.width n * levelSize d.height n * texelBytes d.fmt + 255) / 256 * 256

/-! ### The level (06 R198) -/

/-- Largest integer at most an exact value times 2^k; 0 for what is not finite. -/
def floorScaled (k : Int) : Val → Int
  | .fin neg num den e =>
    let n : Int := (num * 2 ^ (e + k).toNat : Nat)
    let d : Int := (den * 2 ^ (-(e + k)).toNat : Nat)
    (if neg then -n else n) / d
  | _ => 0

/-- floor(128 log2 x) = floor(log2 (x^128)) of a positive dyadic value: 256 λ where x is the square of the footprint. -/
def log2Scaled (num : Nat) (e : Int) : Int := (Nat.log2 (num ^ 128) : Int) + 128 * e

/-- 256 λ, truncated toward minus infinity and clamped to the levels. -/
def clampLevel (d : Sampler) (x : Int) : Nat := (clampInt 0 (256 * (d.levels - 1)) x).1.toNat
/-- From an FP32 λ: NaN becomes 0. -/
def levelOf (d : Sampler) (x : Val) : Nat :=
  match x with
  | .nan => 0
  | .inf neg => if neg then 0 else 256 * (d.levels - 1)
  | v => clampLevel d (floorScaled 8 v)

/-- The sum of the squares of two gradients, each times its size. -/
def footprint (d : Sampler) (du dv : Val) : Val :=
  let a := (mulVal du (intVal d.width)).1
  let b := (mulVal dv (intVal d.height)).1
  (addVal false (mulVal a a).1 (mulVal b b).1).1
/-- From the gradients of TEX.G. -/
def levelOfGrad (d : Sampler) (ux vx uy vy : Val) : Nat :=
  let p := footprint d ux vx
  let q := footprint d uy vy
  if isNaN p || isNaN q then 0
  else match (if 0 ≤ cmpVal p q then p else q) with
    | .fin _ num _ e => if num = 0 then 0 else clampLevel d (log2Scaled num e)
    | _ => 256 * (d.levels - 1)

/-! ### Texels and weights -/

/-- Indices mapped by ADDR (06 R198). -/
def mapIndex (mode : Nat) (i : Int) (n : Nat) : Nat :=
  if mode = 0 then (i % (n : Int)).toNat
  else if mode = 1 then (clampInt 0 ((n : Int) - 1) i).1.toNat
  else
    let k := (i % (2 * (n : Int))).toNat
    if k < n then k else 2 * n - 1 - k

/-- A texel to read: its address, and its weight as a multiple of 2^-24. -/
abbrev Tap := Nat × Nat

def tapAddr (d : Sampler) (level : Nat) (x y : Int) : Nat :=
  levelBase d level + (mapIndex d.addrMode y (levelSize d.height level) * levelSize d.width level +
    mapIndex d.addrMode x (levelSize d.width level)) * texelBytes d.fmt

/-- A coordinate times the level's size, scaled by 2^k and rounded down; what is not finite counts as 0. -/
def texPos (k : Nat) (u : Val) (size : Nat) : Int :=
  match u with
  | .fin _ _ _ _ => floorScaled k (mulVal u (intVal size)).1
  | _ => 0

/-- The taps of one level with a level weight in units of 2^-8; those of weight 0 are not read. -/
def levelTaps (d : Sampler) (u v : Val) (level wt : Nat) : List Tap :=
  if d.filt = 0 then
    [(tapAddr d level (texPos 0 u (levelSize d.width level)) (texPos 0 v (levelSize d.height level)), 65536 * wt)]
  else
    let fx := texPos 8 u (levelSize d.width level) - 128
    let fy := texPos 8 v (levelSize d.height level) - 128
    let a := (fx % 256).toNat
    let b := (fy % 256).toNat
    let i := fx / 256
    let j := fy / 256
    ([(tapAddr d level i j, (256 - a) * (256 - b) * wt), (tapAddr d level (i + 1) j, a * (256 - b) * wt),
      (tapAddr d level i (j + 1), (256 - a) * b * wt), (tapAddr d level (i + 1) (j + 1), a * b * wt)] : List Tap).filter
      (fun t => decide (t.2 ≠ 0))

/-- The taps of a sample at 256 λ. -/
def sampleTaps (d : Sampler) (u v : Val) (lam : Nat) : List Tap :=
  if d.filt = 2 then
    levelTaps d u v (lam / 256) (256 - lam % 256) ++
      (if lam % 256 = 0 then [] else levelTaps d u v (lam / 256 + 1) (lam % 256))
  else levelTaps d u v ((lam + 128) / 256) 256

/-- The four channels of a texel (06 R197). -/
def texelVals (f : TexFmt) (bs : List Byte) : List Val :=
  let c := fun (k : Nat) => Val.fin false (bs.getD k 0).toNat 255 0
  let h := fun (k : Nat) => f16 (BitVec.ofNat 16 (leNat ((bs.drop (2 * k)).take 2)))
  match f with
  | .rgba8 => [c 0, c 1, c 2, c 3]
  | .rgba16f => [h 0, h 1, h 2, h 3]
  | .r32f => [f32 (wordAt bs 0), .fin false 0 1 0, .fin false 0 1 0, intVal 1]
  | .rg16f => [h 0, h 1, .fin false 0 1 0, intVal 1]

/-- The exact sum of weight times channel over the texels. -/
def weighted (ch : Nat) : List (Nat × List Val) → Option Val
  | [] => none
  | e :: r =>
    let x := (mulVal (Val.fin false e.1 1 (-24)) (e.2.getD ch .nan)).1
    match weighted ch r with
    | none => some x
    | some y => some (addVal false x y).1
def channelWord (ch : Nat) (l : List (Nat × List Val)) : Word :=
  match weighted ch l with
  | none => 0
  | some v => (toF32 .ne v).1

/-! ### Performing a sample -/

/-- The descriptor of an operation, and its taps in lane l. -/
def opSampler (p : PendOp) : Option Sampler := samplerOf ((List.range 8).map (fun k => opWord p .c k 0))
def opTaps (p : PendOp) (d : Sampler) (l : Nat) : List Tap :=
  let x := fun (o : Opnd) (k : Nat) => f32 (opWord p o k l)
  match p.instr with
  | .texG _ => sampleTaps d (x .a 0) (x .a 1) (levelOfGrad d (x .b 0) (x .b 1) (x .b 2) (x .b 3))
  | _ => sampleTaps d (x .a 0) (x .a 1) (levelOf d (x .b 0))

/-- The texels of a lane: places, or the fault of the first that does not translate. -/
def placeTaps (s : State) (core : CoreNum) (c : CtxNum) (l : Nat) : List Tap → Except OpFault (List (Loc × Nat))
  | [] => .ok []
  | t :: r => match translateAt s core c (BitVec.ofNat 64 t.1) .read with
    | .error k => .error { cause := .translation, fkind := k, lane := BitVec.ofNat 5 l, addr := BitVec.ofNat 64 t.1 }
    | .ok x => match placeTaps s core c l r with
      | .error f => .error f
      | .ok q => .ok ((x, t.2) :: q)
def placeSamples (s : State) (core : CoreNum) (c : CtxNum) (p : PendOp) (d : Sampler) : List Nat → Except OpFault (List (Nat × List (Loc × Nat)))
  | [] => .ok []
  | l :: r => match placeTaps s core c l (opTaps p d l) with
    | .error f => .error f
    | .ok x => match placeSamples s core c p d r with
      | .error f => .error f
      | .ok q => .ok ((l, x) :: q)

/-- The first lane whose texels meet an uncorrectable error. -/
def samplePoison (s : State) (c : CoreNum) (p : PendOp) (d : Sampler) (n : Nat) : List (Nat × List (Loc × Nat)) → Option OpFault
  | [] => none
  | e :: r =>
    match ((opTaps p d e.1).zip e.2).find? (fun x => loadPoisoned s c x.2.1 n) with
    | some x => some { cause := .softError, fkind := 0, lane := BitVec.ofNat 5 e.1, addr := BitVec.ofNat 64 x.1.1 }
    | none => samplePoison s c p d n r

/-- The texels of one lane as plain loads (11 R331). -/
def readTaps (c : CoreNum) (x : CtxNum) (d : Sampler) (queued : List (Loc × Byte)) (s : State) :
    List (Loc × Nat) → List (Nat × List Val) × State
  | [] => ([], s)
  | e :: r =>
    let n := texelBytes d.fmt
    let q := cacheLoad s c x .none false e.1 n
    let bs := (List.range n).zip q.1 |>.map (fun y => latestOf ({ e.1 with addr := e.1.addr + y.1 } : Loc) y.2 queued)
    let v := readTaps c x d queued q.2 r
    ((e.2, texelVals d.fmt bs) :: v.1, v.2)
def sampleLanes (c : CoreNum) (x : CtxNum) (p : PendOp) (d : Sampler) (queued : List (Loc × Byte)) (s : State) :
    List (Nat × List (Loc × Nat)) → List Wr × State
  | [] => ([], s)
  | e :: r =>
    let q := readTaps c x d queued s e.2
    let v := sampleLanes c x p d queued q.2 r
    ((List.range 4).map (fun k => .v (dstNum p .v + k) e.1 (channelWord k q.1)) ++ v.1, v.2)

/-- A sample performed (06 R198, 11 R330). -/
def performSample (s : State) (w : Wave) (p : PendOp) : State × PendOp :=
  match opSampler p with
  | none => (s, failPend p (plainFault .illegal))
  | some d =>
    let c := waveCtx s w
    match placeSamples s w.core (waveCtx s w) p d (lanesOf p.lanes) with
    | .error f => (s, failPend p f)
    | .ok q =>
      match samplePoison s w.core p d (texelBytes d.fmt) q with
      | some f => (s, failPend p f)
      | none =>
        let queued := (w.sq.filter (fun x => decide (x.seq < p.seq))).flatMap (queuedGlobal s w)
        let r := sampleLanes w.core c p d queued s q
        (r.2, donePend p r.1)

/-- A reserved value in the descriptor (06 R197). -/
def texFault (p : PendOp) : Option OpFault := whenFault (opSampler p).isNone .illegal
def faultTex (i : Instr) (s : State) : Option OpFault := texFault (issueOp s i)
/-- TEX.G (11 R330). -/
def execTexG (o : Tex) (s : State) : Host.Outcome State Fault Refusal :=
  run (.texG o) (faultTex (.texG o) s) false (issueMem (.texG o)) s
/-- TEX.L (11 R330). -/
def execTexL (o : Tex) (s : State) : Host.Outcome State Fault Refusal :=
  run (.texL o) (faultTex (.texL o) s) false (issueMem (.texL o)) s

end Sys2Proof.Machine
end

