-- ==== Sys2Proof/Machine/RecLoad.lean ====
section
/-! DEFINITION. Reading the records of a batch: RECLD and RECINFO (10 R293 to R296). -/

namespace Sys2Proof.Machine

/-- The record a lane names (10 R293 R295): its own, or by a register; none where it has no record. -/
def recordIx (w : Wave) (p : PendOp) (ri : RecIx) (l : Nat) : Option Nat :=
  match ri with
  | .self => (let r := (cellsRead w.recix l).toNat
    if r = 0 then none else some (r - 1))
  | .by _ => some (opWord p .b 0 l).toNat
/-- The record, where the team still holds it. -/
def recordAt (t : Team) (w : Wave) (p : PendOp) (ri : RecIx) (l : Nat) : Option Rec :=
  if t.tdone then none
  else match recordIx w p ri l with
    | none => none
    | some i => t.batch[i]?

/-- The byte offset of a RECLD in a lane, unbounded (10 R295). -/
def recOfs (p : PendOp) (o : RecLd) (l : Nat) : Nat :=
  (match o.ofsReg with
    | some _ => (opWord p .a 0 l).toNat
    | none => 0) + o.ofs.toNat

/-- The first lane of a list that a test fails. -/
def recFault (bad : Nat → Bool) : List Nat → Option OpFault
  | [] => none
  | l :: r => if bad l then some { plainFault .recordAccess with lane := BitVec.ofNat 5 l } else recFault bad r

/-- A RECLD of a lane lies outside its record. -/
def recldBad (t : Team) (w : Wave) (p : PendOp) (o : RecLd) (l : Nat) : Bool :=
  match recordAt t w p o.ri l with
  | none => true
  | some r => decide (recOfs p o l % sizeBytes o.size ≠ 0) || decide (r.bytes.length < recOfs p o l + sizeBytes o.size)
def recldFault (s : State) (w : Wave) (p : PendOp) (o : RecLd) : Option OpFault :=
  recFault (recldBad (teamOf s w) w p o) (lanesOf p.lanes)
def faultRecld (o : RecLd) (s : State) : Option OpFault := recldFault s (srcWave s) (issueOp s (.recld o)) o
/-- RECLD (10 R294 R295). -/
def execRecld (o : RecLd) (s : State) : Host.Outcome State Fault Refusal :=
  run (.recld o) (faultRecld o s) false (issueMem (.recld o)) s

def blankRec : Rec :=
  { run := 0, node := 0, stk := 0, slot := 0, tag := 0, bytes := [], edge := none, spilled := false, since := 0, transit := false,
    latch := 0 }
/-- RECLD performed: the batch as the team holds it (10 R295). -/
def recldWrs (w : Wave) (t : Team) (p : PendOp) (o : RecLd) : List Wr :=
  (lanesOf p.lanes).flatMap (fun l =>
    match recordIx w p o.ri l with
    | none => []
    | some i =>
      let bs := ((t.batch.getD i blankRec).bytes.drop (recOfs p o l)).take (sizeBytes o.size)
      (List.range (sizeRegs o.size)).map (fun k => .v (dstNum p .v + k) l (wordAt bs (4 * k))))
def performRecld (s : State) (w : Wave) (p : PendOp) (o : RecLd) : State × PendOp :=
  (s, donePend p (recldWrs w (teamOf s w) p o))

def faultRecinfo (o : RecInfo) (s : State) : Option OpFault :=
  let p := issueOp s (.recinfo o)
  recFault (fun l => (recordAt (teamOf s (srcWave s)) (srcWave s) p o.ri l).isNone) (lanesOf p.lanes)
/-- The word RECINFO reads (10 R296). -/
def recWord (sel : RecSel) (r : Rec) : Word :=
  match sel with
  | .lo => r.tag.extractLsb' 0 32
  | .hi => r.tag.extractLsb' 32 32
  | .len => BitVec.ofNat 32 r.bytes.length
def effRecinfo (o : RecInfo) (s : State) : State :=
  let p := issueOp s (.recinfo o)
  putVec s p.lanes o.d (fun l => match recordAt (teamOf s (srcWave s)) (srcWave s) p o.ri l with
    | some r => recWord o.sel r
    | none => 0)
/-- RECINFO (10 R296). -/
def execRecinfo (o : RecInfo) (s : State) : Host.Outcome State Fault Refusal :=
  run (.recinfo o) (faultRecinfo o s) false (effRecinfo o) s

end Sys2Proof.Machine
end

