-- ==== Sys2Proof/Machine/Special.lean ====
section
/-! DEFINITION. The special functions (08 R233, 04 R142). Outside the special values the bits are those of a free function
of Config, kept within the bound that 04 R142 gives (notes/assumptions/7.md). -/

namespace Sys2Proof.Machine

/-! ### Keeping a free value within a bound -/

/-- Exponent of one unit in the last place of FP32 at a non-zero value. -/
def ulpExp : Val → Int
  | .fin _ num den e => max (floorLog2 num den + e) (-126) - 23
  | _ => -149

/-- |r - v| is at most a bound. -/
def nearVal (v bound : Val) (r : Word) : Bool :=
  match f32 r with
  | .fin n a d e => decide (cmpVal (absVal (addVal false (.fin n a d e) (negVal v)).1) bound ≤ 0)
  | _ => false

/-- The free value where it lies within the bound, else the value rounded to nearest. -/
def keepNear (v bound : Val) (r : Word) : Word := if nearVal v bound r then r else (toF32 .ne v).1

/-- k units in the last place of an exact value; less a 2^-40 part of it where the value is an approximation. -/
def ulpBound (k : Nat) (v : Val) : Val := .fin false k 1 (ulpExp v)
def ulpBoundApprox (k : Nat) (v : Val) : Val := .fin false (k * (2 ^ 40 - 1)) 1 (ulpExp v - 40)
/-- 2^e less a 2^-40 part. -/
def absBoundApprox (e : Int) : Val := .fin false (2 ^ 40 - 1) 1 (e - 40)

/-! ### Approximations in units of 2^-100 -/

/-- 2^(f / 2^100) for f < 2^100, by the bits of f from the highest; c is 2^(2^-i). -/
def exp2From : Nat → Nat → Nat → Nat → Nat
  | 0, _, _, acc => acc
  | k + 1, f, c, acc =>
    let c := isqrtFrom (c * 2 ^ 100) 102 0
    exp2From k f c (if f.testBit k then acc * c / 2 ^ 100 else acc)
def exp2Fixed (f : Nat) : Nat := exp2From 100 f (2 ^ 101) (2 ^ 100)

/-- 2^x for a rational x as a value: num x 2^e of sign neg, exactly split into its floor and fraction. -/
def exp2Val (neg : Bool) (num : Nat) (e : Int) : Val :=
  let x : Int := (num * 2 ^ (e + 149).toNat : Nat)
  let y := (if neg then -x else x) * 2 ^ 100 / 2 ^ 149
  let fl := y / 2 ^ 100
  .fin false (exp2Fixed (y - fl * 2 ^ 100).toNat) 1 (fl - 100)

/-- 60 fraction bits of log2 y for y in [1, 2), y in units of 2^-100. -/
def log2From : Nat → Nat → Nat → Nat
  | 0, _, acc => acc
  | k + 1, y, acc =>
    let y := y * y / 2 ^ 100
    if 2 ^ 101 ≤ y then log2From k (y / 2) (2 * acc + 1) else log2From k y (2 * acc)

/-- log2 of a positive value num x 2^e. -/
def log2Val (num : Nat) (e : Int) : Val :=
  let l := Nat.log2 num
  let f : Int := log2From 60 (num * 2 ^ 100 / 2 ^ l) 0
  let x : Int := ((l : Int) + e) * 2 ^ 60 + f
  .fin (decide (x < 0)) x.natAbs 1 (-60)

/-- Pi and log2 of Euler's number in units of 2^-100. -/
def piFixed : Int := 3982441812995697363688351113952
def log2eFixed : Nat := 1828833234529184422442202814989

/-- The series a, -a^3/3!, … (from n = 1) or 1, -a^2/2!, … (from n = 0), in units of 2^-100. -/
def trigSeries (a : Int) : Nat → Int → Int → Int
  | 0, _, _ => 0
  | k + 1, t, n => t + trigSeries a k (-(t * a / 2 ^ 100 * a / 2 ^ 100) / ((n + 1) * (n + 2))) (n + 2)
/-- An angle num x 2^e of sign neg reduced modulo 2 pi. -/
def reduceAngle (neg : Bool) (num : Nat) (e : Int) : Int :=
  let x : Int := (num * 2 ^ (e + 149).toNat : Nat)
  (if neg then -x else x) * 2 ^ 100 / 2 ^ 149 % (2 * piFixed)
def fixedVal (x : Int) : Val := .fin (decide (x < 0)) x.natAbs 1 (-100)
def sinVal (neg : Bool) (num : Nat) (e : Int) : Val :=
  let a := reduceAngle neg num e
  fixedVal (trigSeries a 30 a 1)
def cosVal (neg : Bool) (num : Nat) (e : Int) : Val := fixedVal (trigSeries (reduceAngle neg num e) 30 (2 ^ 100) 0)

/-- tanh of a positive value below 9.5, by 2^(2 x log2 e). -/
def tanhVal (neg : Bool) (num : Nat) (e : Int) : Val :=
  let y := num * 2 ^ (e + 149).toNat * 2 * log2eFixed / 2 ^ 149
  let p := exp2Fixed (y % 2 ^ 100) * 2 ^ (y / 2 ^ 100)
  .fin neg (p - 2 ^ 100) (p + 2 ^ 100) 0

/-- A free word brought into [-1, 1] by its exponent bits. -/
def unitWord (r : Word) : Word :=
  if nearVal (.fin false 0 1 0) (pow2Val 0) r then r else r &&& 0xBF7FFFFF

/-! ### The functions (04 R142) -/

/-- RCP: within one ulp; an overflow gives the infinity with OF (DEDUCED from 04 R134, notes/assumptions/26.md). -/
def rcpFn (x : Word) : Word × FpFlags :=
  match f32 x with
  | .nan => (nan32, 0)
  | .inf n => (if n then 0x80000000 else 0, 0)
  | .fin n num den e =>
    if num = 0 then (if n then 0xFF800000 else inf32, flagDZ)
    else
      let v : Val := .fin n den num (-e)
      if fmtFP32.maxCode < (roundCode fmtFP32 .ne n den num (-e)).1 then (if n then 0xFF800000 else inf32, flagOF)
      else (keepNear v (ulpBound 1 v) (Config.rcp x), 0)

/-- 1 / sqrt(num x 2^e) with 60 bits. -/
def rsqVal (num : Nat) (e : Int) : Val :=
  let k : Nat := if e % 2 = 0 then 0 else 1
  let q := 2 ^ 200 / (num * 2 ^ k)
  .fin false (isqrtFrom q 101 0) 1 (-100 - (e - k) / 2)

/-- RSQ: within two ulp. -/
def rsqFn (x : Word) : Word × FpFlags :=
  match f32 x with
  | .nan => (nan32, 0)
  | .inf n => if n then (nan32, flagIV) else (0, 0)
  | .fin n num _ e =>
    if num = 0 then (if n then 0xFF800000 else inf32, flagDZ)
    else if n then (nan32, flagIV)
    else let v := rsqVal num e
      (keepNear v (ulpBoundApprox 2 v) (Config.rsq x), 0)

/-- SQRT: correctly rounded under the effective mode. -/
def sqrtFn (m : Round) (x : Word) : Word × FpFlags :=
  match f32 x with
  | .nan => (nan32, 0)
  | .inf n => if n then (nan32, flagIV) else (inf32, 0)
  | .fin n num _ e =>
    if num = 0 then (x, 0)
    else if n then (nan32, flagIV)
    else toF32 m (sqrtVal num e)

/-- EX2: within two ulp; exact for integers in [-149, 127]. -/
def ex2Fn (x : Word) : Word × FpFlags :=
  match f32 x with
  | .nan => (nan32, 0)
  | .inf n => if n then (0, 0) else (inf32, 0)
  | .fin n num den e =>
    if num = 0 then (0x3F800000, 0)
    else if !n && decide (0 ≤ cmpVal (.fin false num den e) (pow2Val 7)) then (inf32, flagOF)
    else if n && decide (0 ≤ cmpVal (.fin false num den e) (pow2Val 12)) then
      let v : Val := .fin false 1 1 (-4096)
      (keepNear v (ulpBoundApprox 2 v) (Config.ex2 x), 0)
    else
      let r := roundInt .zero n num den e
      if !r.2 && decide (-149 ≤ r.1) then ((toF32 .ne (pow2Val r.1)).1, 0)
      else let v := exp2Val n num e
        (keepNear v (ulpBoundApprox 2 v) (Config.ex2 x), 0)

/-- LG2: exact for powers of 2; within two ulp outside [0.5, 2], within 2^-22 inside. -/
def lg2Fn (x : Word) : Word × FpFlags :=
  match f32 x with
  | .nan => (nan32, 0)
  | .inf n => if n then (nan32, flagIV) else (inf32, 0)
  | .fin n num _ e =>
    if num = 0 then (0xFF800000, flagDZ)
    else if n then (nan32, flagIV)
    else
      let l := Nat.log2 num
      if num = 2 ^ l then ((toF32 .ne (intVal ((l : Int) + e))).1, 0)
      else
        let v := log2Val num e
        let inside := decide ((l : Int) + e = -1) || decide ((l : Int) + e = 0)
        (keepNear v (if inside then absBoundApprox (-22) else ulpBoundApprox 2 v) (Config.lg2 x), 0)

/-- |x| at most 32,768. -/
def smallAngle (num : Nat) (e : Int) : Bool := decide (cmpVal (.fin false num 1 e) (pow2Val 15) ≤ 0)

/-- SIN: within 2^-21 up to 32,768, else in [-1, 1]. -/
def sinFn (x : Word) : Word × FpFlags :=
  match f32 x with
  | .nan => (nan32, 0)
  | .inf _ => (nan32, flagIV)
  | .fin n num _ e =>
    if num = 0 then (x, 0)
    else if smallAngle num e then (keepNear (sinVal n num e) (absBoundApprox (-21)) (Config.sin x), 0)
    else (unitWord (Config.sin x), 0)

/-- COS. -/
def cosFn (x : Word) : Word × FpFlags :=
  match f32 x with
  | .nan => (nan32, 0)
  | .inf _ => (nan32, flagIV)
  | .fin n num _ e =>
    if num = 0 then (0x3F800000, 0)
    else if smallAngle num e then (keepNear (cosVal n num e) (absBoundApprox (-21)) (Config.cos x), 0)
    else (unitWord (Config.cos x), 0)

/-- TANH: within 2^-22 below 0.5, two ulp otherwise, exactly 1 from 9.5. -/
def tanhFn (x : Word) : Word × FpFlags :=
  match f32 x with
  | .nan => (nan32, 0)
  | .inf n => (if n then 0xBF800000 else 0x3F800000, 0)
  | .fin n num den e =>
    if num = 0 then (x, 0)
    else if 0 ≤ cmpVal (.fin false num den e) (.fin false 19 1 (-1)) then (if n then 0xBF800000 else 0x3F800000, 0)
    else
      let v := tanhVal n num e
      let small := decide (cmpVal (.fin false num den e) (pow2Val (-1)) < 0)
      (keepNear v (if small then absBoundApprox (-22) else ulpBoundApprox 2 v) (Config.tanh x), 0)

/-! ### Performing a special function -/

/-- The function of an instruction and its operands. -/
def specialOf : Instr → Option ((Round → Word → Word × FpFlags) × F1)
  | .rcp o => some (fun _ => rcpFn, o) | .rsq o => some (fun _ => rsqFn, o) | .sqrt o => some (sqrtFn, o)
  | .ex2 o => some (fun _ => ex2Fn, o) | .lg2 o => some (fun _ => lg2Fn, o) | .sin o => some (fun _ => sinFn, o)
  | .cos o => some (fun _ => cosFn, o) | .tanh o => some (fun _ => tanhFn, o)
  | _ => none

/-- The results of a special function that has issued (08 R233). -/
def specialResults (p : PendOp) : List Wr :=
  match specialOf p.instr with
  | none => []
  | some (f, o) =>
    let r := fun l => f (effRound p.fmt o.rm) (applyMod o.ma 31 (opWord p .a 0 l))
    (lanesOf p.lanes).map (fun l => Wr.v (vnum 0 o.d) l (r l).1) ++
      [Wr.fpx (orFlags (fun l => (r l).2) (lanesOf (p.lanes &&& ~~~p.helper)))]

/-- A special function issues: its result is flagged (08 R233). -/
def effSpecial (i : Instr) (s : State) : State := issuePend s (newPend s i (laneSet s (predOfInstr i)))

/-- RCP (04 R142). -/
def execRcp (o : F1) (s : State) : Host.Outcome State Fault Refusal := run (.rcp o) none false (effSpecial (.rcp o)) s
/-- RSQ (04 R142). -/
def execRsq (o : F1) (s : State) : Host.Outcome State Fault Refusal := run (.rsq o) none false (effSpecial (.rsq o)) s
/-- SQRT (04 R142). -/
def execSqrt (o : F1) (s : State) : Host.Outcome State Fault Refusal := run (.sqrt o) none false (effSpecial (.sqrt o)) s
/-- EX2 (04 R142). -/
def execEx2 (o : F1) (s : State) : Host.Outcome State Fault Refusal := run (.ex2 o) none false (effSpecial (.ex2 o)) s
/-- LG2 (04 R142). -/
def execLg2 (o : F1) (s : State) : Host.Outcome State Fault Refusal := run (.lg2 o) none false (effSpecial (.lg2 o)) s
/-- SIN (04 R142). -/
def execSin (o : F1) (s : State) : Host.Outcome State Fault Refusal := run (.sin o) none false (effSpecial (.sin o)) s
/-- COS (04 R142). -/
def execCos (o : F1) (s : State) : Host.Outcome State Fault Refusal := run (.cos o) none false (effSpecial (.cos o)) s
/-- TANH (04 R142). -/
def execTanh (o : F1) (s : State) : Host.Outcome State Fault Refusal := run (.tanh o) none false (effSpecial (.tanh o)) s

end Sys2Proof.Machine
end

