-- ==== Sys2Proof/Machine/Perform.lean ====
section
/-! DEFINITION. Performing and completing the operations that have issued (07 R203 R204, 03 R112): one dispatch over the
kinds of flagged operation, the completion of a flag, and the drain that an ordering operation makes at its issue. -/

namespace Sys2Proof.Machine

/-- The effect of an operation on memory and its results, in program order with the wave's other accesses. -/
def performOp (s : State) (w : Wave) (p : PendOp) : State × PendOp :=
  match p.instr with
  | .recld o => performRecld s w p o
  | .texG _ => performSample s w p
  | .texL _ => performSample s w p
  | .lr _ => (match memInfo p.instr with
    | some m => performLr s w p m
    | none => (s, p))
  | .sc _ => (match memInfo p.instr with
    | some m => performSc s w p m
    | none => (s, p))
  | i =>
    match memInfo i with
    | some m => if isAtomic i then performAtomic s w p m else performLoad s w p m
    | none => (s, donePend p (specialResults p))

/-- The operation may be performed now: it is not yet, and no earlier access of the wave is open (03 R112). -/
def canPerform (w : Wave) (p : PendOp) : Bool :=
  !p.performed && p.fault.isNone && (!memOrdered p.instr || !earlierOpen w p.seq)

/-- Performs an outstanding operation of a wave, where it may be. -/
def performSeq (s : State) (wid seq : Nat) : State :=
  match findWave s wid with
  | none => s
  | some w => match findPend seq w.pend with
    | none => s
    | some p =>
      if canPerform w p then
        let r := performOp s w p
        updWave r.1 wid (fun w => { w with pend := replacePend r.2 w.pend })
      else s

/-- The next lane of an atomic of a wave is performed; another wave's accesses may stand between two lanes (09 R256). -/
def performLane (s : State) (wid seq : Nat) : State :=
  match findWave s wid with
  | none => s
  | some w => match findPend seq w.pend with
    | none => s
    | some p => match memInfo p.instr with
      | some m =>
        if canPerform w p && isAtomic p.instr && (match p.instr with
          | .sc _ => false
          | _ => true) then
          let r := atomSome s w p m 1
          updWave r.1 wid (fun w => { w with pend := replacePend r.2 w.pend })
        else s
      | none => s
/-- The atomics of a wave that are under way perform their other lanes: they do before it traps (15 R366). -/
def endAtomics (s : State) (wid : Nat) : State :=
  match findWave s wid with
  | none => s
  | some w => (w.pend.filter underWay).foldl (fun acc p => performSeq acc wid p.seq) s
/-- A trap of a wave whose atomics under way have ended. -/
def trapNow (s : State) (wid : Nat) (k : PcSlot) (i : TrapInfo) : State := trapWave (endAtomics s wid) wid k i

/-- A fault of an operation settles: its flags become FAULTED, or, with none named, it is raised at the wave's next bundle
boundary (07 R203); a wave that has exited logs it (15 R374). -/
def settleFault (s : State) (w : Wave) (p : PendOp) (f : OpFault) : State :=
  if w.status = .exited then
    exitedFault (setWave s { w with pend := dropPend p.seq w.pend }) w (opTrap p f .boundary 0 p.pc)
  else if p.flags.isEmpty then setWave s { w with bfaults := w.bfaults ++ [opTrap p f .boundary 0 p.pc] }
  else setWave s (setFlags w flagFaulted p.flags)

/-! ### Results of replayed operations (15 R371) -/

/-- Bytes of a wave's frame, and a store into it, through the core's column cache; nothing where the frame no longer
translates. -/
def frameRead (s : State) (w : Wave) (off n : Nat) : List Byte × State :=
  let c := waveCtx s w
  match vRead s w.core c .none (frameAddr (getCtx s c) (w.frame.getD 0) + BitVec.ofNat 64 off) n with
  | .ok r => r
  | .error _ => (List.replicate n 0, s)
def frameStore (s : State) (w : Wave) (off : Nat) (bs : List Byte) : State :=
  let c := waveCtx s w
  match vWrite s w.id w.core c .none (frameAddr (getCtx s c) (w.frame.getD 0) + BitVec.ofNat 64 off) bs with
  | .ok s => s
  | .error _ => s
/-- One register result of the trapped path while its wave is in the handler: s, p, v0 to v3 and FPX stand in the
frame. -/
def trappedWr (wid : Nat) (s : State) (r : Wr) : State :=
  match findWave s wid with
  | none => s
  | some w =>
    match r with
    | .v n l x => if n < 4 then frameStore s w (0x11400 + 128 * n + 4 * l) (leBytes x.toNat 4) else setWave s (applyWr w r)
    | .s n x => frameStore s w (0x100 + 4 * n) (leBytes x.toNat 4)
    | .p n l b =>
      let q := frameRead s w (0x300 + 4 * n) 4
      frameStore q.2 w (0x300 + 4 * n) (leBytes (setBit (wordAt q.1 0) l b).toNat 4)
    | .fpx f =>
      let q := frameRead s w 100 1
      frameStore q.2 w 100 [(q.1.headD 0) ||| f.setWidth 8]
/-- An operation that the trapped path issued, or that RPLAY issued for it, while its wave is in the handler. -/
def forTrapped (w : Wave) (seq : Nat) (replayed : Bool) : Bool := inHandler w && (replayed || decide (seq < w.trapSeq))
/-- Register results of an operation in a live wave: the trapped path's registers, or the wave's (15 R371; for operations
of the counter classes notes/assumptions/34.md). -/
def deliverWrs (s : State) (wid seq : Nat) (replayed : Bool) (rs : List Wr) : State :=
  match findWave s wid with
  | none => s
  | some w =>
    if !waveLive w then s
    else if forTrapped w seq replayed then rs.foldl (trappedWr wid) s
    else setWave s (applyWrs w rs)
/-- A replayed operation writes the trapped path's registers; any other writes the wave's (15 R371). -/
def writeResults (s : State) (w : Wave) (p : PendOp) : State :=
  if forTrapped w p.seq p.replayed then
    updWave (deliverWrs s w.id p.seq p.replayed (liveResults p)) w.id (fun w => completeOp w { p with results := [] })
  else setWave s (completeOp w p)

/-- A flagged operation completes, performed first where it has not been (07 R203). -/
def completeSeq (s : State) (wid seq : Nat) : State :=
  let s := performSeq s wid seq
  match findWave s wid with
  | none => s
  | some w => match findPend seq w.pend with
    | none => s
    | some p => match p.fault with
      | some f => if isStore p.instr || faultSettled w p then s else settleFault s w p f
      | none => if p.performed then writeResults s w p else s

/-- The oldest unfinished access of a wave: an unperformed ordered operation, or the head of its store queue. -/
def oldestAccess (w : Wave) : Option (Nat × Bool) :=
  let ops := (w.pend.filter (fun p => memOrdered p.instr && !p.performed && p.fault.isNone)).map (fun p => p.seq)
  match ops.foldl (fun (m : Option Nat) x => match m with
      | none => some x
      | some y => some (min x y)) none, w.sq with
  | none, [] => none
  | none, p :: _ => some (p.seq, true)
  | some x, [] => some (x, false)
  | some x, p :: _ => if p.seq < x then some (p.seq, true) else some (x, false)

/-- Every earlier access of the wave is performed and its store queue drains into M, in issue order (03 R112 item 5). A
store that faults stops the queue. -/
def drainWave (s : State) (wid : Nat) : Nat → State
  | 0 => s
  | n + 1 => match findWave s wid with
    | none => s
    | some w =>
      if queueStopped w then s
      else match oldestAccess w with
        | none => s
        | some (seq, store) => drainWave (if store then drainOne s w else performSeq s wid seq) wid n
/-- The drain of the issuing wave: a wave has at most 32 unfinished accesses (15 R364). -/
def drainCur (s : State) : State := drainWave s s.iss.wave 40
/-- The store queue is empty, or a fault has stopped it. -/
def drainedCur (s : State) : Bool := (curWave s).sq.isEmpty

end Sys2Proof.Machine
end

