-- ==== Sys2Proof/Machine/Sync.lean ====
section
/-! DEFINITION. Fences and cache maintenance, PREFETCH, WAITADDR, counter waits and named barriers (09 R268 to R270, R276 to
R279). -/

namespace Sys2Proof.Machine

/-- An ordering operation drains the store queue first; a queue that a fault has stopped leaves the slot HELD until the
wave traps (15 R374). -/
def drainThen (eff : State → State) (s : State) : State :=
  let s := drainCur s
  if drainedCur s then eff s else holdSlot s

/-! ### Fences (09 R268) -/

/-- The effect of a fence row of 03 R116 on the issuing core's column cache. -/
def fenceEffect (ord : Ord) (sc : Scope) (s : State) : State :=
  let w := curWave s
  if wideScope (teamOf s w).pair sc then
    let s := if isRelease ord then eagerClean s w.core else s
    if isAcquire ord then invalidate s w.core else s
  else s
/-- FENCE (09 R268). -/
def execFence (ord : Ord) (scope : Scope) (s : State) : Host.Outcome State Fault Refusal :=
  run (.fence ord scope) none false (drainThen (fenceEffect ord scope)) s
/-- CCLEAN (09 R268): the row of a release fence, which also removes the core's tags. -/
def execCclean (scope : Scope) (s : State) : Host.Outcome State Fault Refusal :=
  run (.cclean scope) none false (drainThen (fenceEffect .release scope)) s
/-- CINV (09 R268). -/
def execCinv (scope : Scope) (s : State) : Host.Outcome State Fault Refusal :=
  run (.cinv scope) none false (drainThen (fenceEffect .acquire scope)) s

/-! ### PREFETCH (09 R269) -/

/-- The sectors of a line are filled, but for those that hold an uncorrectable error. -/
def fillLine (s : State) (c : CoreNum) (x : CtxNum) (h : Hint) (l : Loc) : State :=
  let base := l.addr / 128 * 128
  (List.range 8).foldl (fun acc k =>
    let e : Loc := { l with addr := base + 16 * k }
    if loadPoisoned acc c e 16 then acc else (cacheLoad acc c x h false e 16).2) s
/-- The lanes of a PREFETCH; an address that does not translate is skipped. -/
def prefetchLanes (o : Prefetch) (p : PendOp) (c : CoreNum) (x : CtxNum) (s : State) : List Nat → State
  | [] => s
  | l :: r =>
    let s := match translateAt s c x (opPair p .a l + o.ofs.signExtend 64) .read with
      | .ok e => fillLine s c x o.hint e
      | .error _ => s
    prefetchLanes o p c x s r
def effPrefetch (o : Prefetch) (s : State) : State :=
  let p := issueOp s (.prefetch o)
  prefetchLanes o p (srcWave s).core (waveCtx s (srcWave s)) s (lanesOf p.lanes)
/-- PREFETCH (09 R269). -/
def execPrefetch (o : Prefetch) (s : State) : Host.Outcome State Fault Refusal :=
  run (.prefetch o) none false (effPrefetch o) s

/-! ### WAITADDR (09 R270) -/

/-- The watched word lies in a poisoned sector where the load reads it (18 R428, notes/assumptions/51.md). -/
def watchPoisoned (s : State) (w : Wave) (o : WaitAddr) (l : Loc) : Bool :=
  if wideScope (teamOf s w).pair o.scope then rangePoisoned s l (sizeBytes o.size) else loadPoisoned s w.core l (sizeBytes o.size)
/-- An acquire load of the watched word, or its fault. -/
def watchRead (s : State) (w : Wave) (o : WaitAddr) (a : DWord) : Except OpFault (DWord × State) :=
  let t := teamOf s w
  let n := sizeBytes o.size
  if o.isLocal then
    .ok (BitVec.ofNat 64 (leNat (localRead s (localKey t a.toNat) n)),
      if t.pair && wideLocal o.scope then invalidate s w.core else s)
  else match translateAt s w.core t.ctx a .read with
    | .error k => .error { cause := .translation, fkind := k, lane := 0, addr := a }
    | .ok l =>
      if watchPoisoned s w o l then .error { cause := .softError, fkind := 0, lane := 0, addr := a } else
      let home := wideScope t.pair o.scope
      let r := if home then readHome s w.core .none l n else cacheLoad s w.core t.ctx .none false l n
      .ok (BitVec.ofNat 64 (leNat r.1), if home then invalidate r.2 w.core else r.2)

/-- The word the wave last saw, in its data register (09 R255 R270). -/
def writeWatch (o : WaitAddr) (v : DWord) (w : Wave) : Wave :=
  if o.size = .b8 then writeSP o.d.toNat v w else writeS o.d.toNat (v.extractLsb' 0 32) w

def waitOp (o : WaitAddr) (s : State) : PendOp := issueOp s (.waitaddr o)
def waitAddrOf (o : WaitAddr) (s : State) : DWord :=
  let p := waitOp o s
  if o.isLocal then (opWord p .a 0 0 + o.ofs.signExtend 32).setWidth 64 else opPair p .a 0 + o.ofs.signExtend 64
/-- The expected value C. -/
def waitExpect (o : WaitAddr) (s : State) : DWord :=
  if o.size = .b8 then readSP (srcWave s) o.c.toNat else (readS (srcWave s) o.c.toNat).setWidth 64
/-- T, in cluster clocks (09 R270). -/
def waitTimeout (o : WaitAddr) (s : State) : Nat :=
  let t := (readS (srcWave s) o.d.toNat).toNat
  if t = 0 ∨ 1048576 < t then 1048576 else t

/-- The translation of WAITADDR is precise at the PC (09 R258). -/
def faultWaitaddr (o : WaitAddr) (s : State) : Option OpFault :=
  orFault (memFault (.waitaddr o) s)
    (if o.isLocal then none
     else match translateAt s (srcWave s).core (waveCtx s (srcWave s)) (waitAddrOf o s) .read with
      | .error k => some { cause := .translation, fkind := k, lane := 0, addr := waitAddrOf o s }
      | .ok l => if watchPoisoned s (srcWave s) o l then
          some { cause := .softError, fkind := 0, lane := 0, addr := waitAddrOf o s } else none)

/-- WAITADDR after the drain: it continues with a value that differs, or parks. -/
def effWaitaddr (o : WaitAddr) (s : State) : State :=
  let w := curWave s
  let a := waitAddrOf o s
  match watchRead s w o a with
  | .error f => takeTrap s f
  | .ok (v, s') =>
    if v ≠ waitExpect o s then updCur s' (writeWatch o v)
    else park s' (.addr o a (waitExpect o s) (coreClock s w.core + waitTimeout o s) false
      (masterClock s (coreStack w.core)))
/-- WAITADDR (09 R270). -/
def execWaitaddr (o : WaitAddr) (s : State) : Host.Outcome State Fault Refusal :=
  run (.waitaddr o) (faultWaitaddr o s) false (drainThen (effWaitaddr o)) s

/-! ### Counter waits (09 R276) -/

/-- The wave's counter of a class (03 R122). -/
def counterOf (w : Wave) : CntClass → BitVec 8
  | .copy => w.cntCopy | .matrix => w.cntMatrix | .net => w.cntNet | .test => w.cntTest
def effWaitc (cls : CntClass) (cnt : BitVec 8) (s : State) : State :=
  if (counterOf (curWave s) cls).toNat ≤ cnt.toNat then s else park s (.counter cls cnt)
/-- WAITC (09 R276). -/
def execWaitc (cls : CntClass) (cnt : BitVec 8) (s : State) : Host.Outcome State Fault Refusal :=
  run (.waitc cls cnt) none false (effWaitc cls cnt) s

/-- The continuation of YIELD. -/
def yieldTarget (a : SReg) (s : State) : DWord := readSP (srcWave s) a.toNat
def faultYield (a : SReg) (s : State) : Option OpFault := whenFault (badTarget (yieldTarget a s)) .misTarget
def effYield (a : SReg) (cnt : BitVec 8) (s : State) : State :=
  let t := (yieldTarget a s).extractLsb' 0 52
  if (curWave s).cntCopy.toNat ≤ cnt.toNat then setPc s t else park s (.copyYield cnt t)
/-- YIELD.copy (09 R276). -/
def execYieldCopy (a : SReg) (cnt : BitVec 8) (s : State) : Host.Outcome State Fault Refusal :=
  run (.yieldCopy a cnt) (faultYield a s) false (effYield a cnt) s

/-! ### Named barriers (03 R124, 09 R277 R278) -/

/-- A barrier number at or above BARS (09 R277). -/
def faultBar (b : Bar) (s : State) : Option OpFault :=
  whenFault (decide ((teamOf s (srcWave s)).nbars ≤ b.toNat)) .illegal
def barOf (b : Bar) (s : State) : Nat × Nat :=
  (barExpected (teamOf s (srcWave s)) b, barCount (teamOf s (srcWave s)) b)

def initCount (a : SReg) (s : State) : BitVec 8 := (readS (srcWave s) a.toNat).extractLsb' 0 8
def faultBarInit (b : Bar) (a : SReg) (s : State) : Option OpFault :=
  orFault (faultBar b s) (whenFault (decide ((barOf b s).2 ≠ 0) || decide (initCount a s = 0)) .barrierState)
/-- BAR.INIT (09 R277). -/
def execBarInit (b : Bar) (a : SReg) (s : State) : Host.Outcome State Fault Refusal :=
  run (.barInit b a) (faultBarInit b a s) false
    (fun s => updTeam s (srcWave s).team (fun t => setBarExpect t b (initCount a s))) s

/-- The new expected count of BAR.EXPECT, exact. -/
def expectCount (b : Bar) (a : SReg) (s : State) : Int := ((barOf b s).1 : Int) + (initCount a s).toInt
def faultBarExpect (b : Bar) (a : SReg) (s : State) : Option OpFault :=
  let n := expectCount b a s
  orFault (faultBar b s)
    (whenFault (decide (n < 1) || decide (255 < n) || decide (n < ((barOf b s).2 : Int))) .barrierState)
/-- BAR.EXPECT (09 R277 R278). -/
def execBarExpect (b : Bar) (a : SReg) (s : State) : Host.Outcome State Fault Refusal :=
  run (.barExpect b a) (faultBarExpect b a s) false
    (fun s => phaseCheck (updTeam s (srcWave s).team (fun t => setBarExpect t b (BitVec.ofInt 8 (expectCount b a s))))
      (srcWave s).team b) s

/-- An arrival at a barrier whose expected count is 0 (09 R278). -/
def faultArrive (b : Bar) (s : State) : Option OpFault :=
  orFault (faultBar b s)
    (whenFault (!barBit (srcWave s).arrived b && decide ((barOf b s).1 = 0)) .barrierState)
/-- The release of an arrival: in a PAIR team the dirty global bytes of the core are cleaned (03 R124). -/
def arriveRelease (s : State) : State :=
  if (teamOf s (srcWave s)).pair then eagerClean s (srcWave s).core else s
/-- The acquire of an observed completion. -/
def observeAcquire (s : State) (w : Wave) : State := if (teamOf s w).pair then invalidate s w.core else s

/-- BAR.ARRIVE (09 R277); a progress act (01 R58). -/
def execBarArrive (b : Bar) (s : State) : Host.Outcome State Fault Refusal :=
  run (.barArrive b) (faultArrive b s) false
    (drainThen (fun s => updCur (waveArrives (arriveRelease s) s.iss.wave b) progress)) s

/-- A slot observes the completion of a phase: the pending bit is cleared. -/
def observe (s : State) (b : Bar) : State :=
  observeAcquire (updCur s (fun w => { w with pendingBit := putBarBit w.pendingBit b false })) (srcWave s)

/-- BAR.SYNC: the arrival, then the wait; an arrival that completes the phase is observed at once (09 R277, 01 R35). -/
def effBarSync (b : Bar) (s : State) : State :=
  let s := waveArrives (arriveRelease s) s.iss.wave b
  if barBit (curWave s).arrived b then park s (.barrier b false) else observe s b
/-- BAR.SYNC (09 R277). -/
def execBarSync (b : Bar) (s : State) : Host.Outcome State Fault Refusal :=
  run (.barSync b) (faultArrive b s) false (drainThen (effBarSync b)) s

def effBarWait (b : Bar) (s : State) : State :=
  if !barBit (curWave s).arrived b && barBit (curWave s).pendingBit b then observe s b else park s (.barrier b false)
/-- BAR.WAIT (09 R277, 03 R124). -/
def execBarWait (b : Bar) (s : State) : Host.Outcome State Fault Refusal :=
  run (.barWait b) (faultBar b s) false (effBarWait b) s

/-! ### The paths of an image (15 R368) -/

/-- What a path parked at its bundle waits for, as the instruction of slot 2 says. -/
def waitAt (s : State) (w : Wave) (k : PcSlot) : Option WaitFor :=
  let st := stageOf s w k []
  match slot2At s w.core (waveCtx s w) st.iss.pc with
  | some (.waitaddr o) => some (.addr o (waitAddrOf o st) (waitExpect o st) (coreClock s w.core + waitTimeout o st) true 0)
  | some (.waitc cls n) => some (.counter cls n)
  | some (.yieldCopy a n) => some (.copyYield n ((yieldTarget a st).extractLsb' 0 52))
  | some (.barSync b) => some (.barrier b (!barBit w.arrived b))
  | some (.barWait b) => some (.barrier b (!barBit w.arrived b && barBit w.pendingBit b))
  | some .regroup => some .regroup
  | _ => none
/-- Two waits of one instruction on the same thing. -/
def sameWait : WaitFor → WaitFor → Bool
  | .addr o a e _ _ _, y => (match y with
    | .addr p b f _ _ _ => decide (o = p) && decide (a = b) && decide (e = f)
    | _ => false)
  | .counter c n, y => (match y with
    | .counter d m => decide (c = d) && decide (n = m)
    | _ => false)
  | .copyYield n t, y => (match y with
    | .copyYield m u => decide (n = m) && decide (t = u)
    | _ => false)
  | .barrier b _, y => (match y with
    | .barrier c _ => decide (b = c)
    | _ => false)
  | .regroup, y => (match y with
    | .regroup => true
    | _ => false)
/-- A parked path waits on as it did, where its bundle is the same; one that an image or a handler has made waits for what its
bundle says, and is ready where that bundle parks nothing. -/
def parkedAs (s : State) (w : Wave) (k : PcSlot) (old : Option WaitFor) (p : Path) : SlotState :=
  match waitAt s (setSlot w k (.ready p)) k, old with
  | some v, some u => .parked p (if sameWait v u then u else v)
  | some v, none => .parked p v
  | none, some u => .parked p u
  | none, none => .ready p
/-- The slot that a path field stands for. -/
def slotOfField (s : State) (w : Wave) (k : PcSlot) (old : Option WaitFor) (x : BitVec 256) : SlotState :=
  let p := pathOfField x
  match (x.extractLsb' 194 2).toNat with
  | 0 => .empty
  | 1 => .ready p
  | 2 => parkedAs s w k old p
  | _ => .held p
/-- Both paths of an image and its current slot; a wave whose registers have been restored. -/
def pathsOfImage (s : State) (bs : List Byte) (oldA oldB : Option WaitFor) (w : Wave) : Wave :=
  let a : BitVec 256 := fieldAt bs 32 32 256
  let b : BitVec 256 := fieldAt bs 64 32 256
  { w with slotA := slotOfField s w .a oldA a, slotB := slotOfField s w .b oldB b, cur := if b.getLsbD 193 then .b else .a }
/-- Both paths of a frame; the trapped path's PC is RESUME, on the slot whose CUR is 1 (15 R368 R371). -/
def restorePaths (s : State) (bs : List Byte) (w : Wave) : Wave :=
  let resume : Pc := (dwordAt bs 24).extractLsb' 0 52
  let w := pathsOfImage s bs w.saveA w.saveB w
  let w := setSlot w w.cur (mapPath (fun p => { p with pc := resume }) (getSlot w w.cur))
  { w with saveA := none, saveB := none }

end Sys2Proof.Machine
end

