-- ==== Sys2Proof/Machine/CopyUnit.lean ====
section
/-! DEFINITION. Asynchronous copies: ACOPY and ACOPY.2D, and the copy unit's steps (09 R271 to R275). -/

namespace Sys2Proof.Machine

/-! ### The command entry (09 R271) -/

abbrev CopyEntry := BitVec 256
def ceGstride (e : CopyEntry) : Nat := (e.extractLsb' 224 32).toNat
def ceLstride (e : CopyEntry) : Nat := (e.extractLsb' 208 16).toNat
def ceRows (e : CopyEntry) : Nat := (e.extractLsb' 192 16).toNat
def ceLen (e : CopyEntry) : Nat := (e.extractLsb' 160 32).toNat
def ceStaddr (e : CopyEntry) : Nat := (e.extractLsb' 128 32).toNat
def ceLaddr (e : CopyEntry) : Nat := (e.extractLsb' 96 32).toNat
def ceSv (e : CopyEntry) : Bool := e.getLsbD 95
def ceBv (e : CopyEntry) : Bool := e.getLsbD 94
def ceBar (e : CopyEntry) : Bar := e.extractLsb' 89 5
def ceChk (e : CopyEntry) : Nat := (e.extractLsb' 85 4).toNat
def ceDir (e : CopyEntry) : Nat := (e.extractLsb' 83 2).toNat
def ceHint (e : CopyEntry) : Nat := (e.extractLsb' 81 2).toNat
def ceTwod (e : CopyEntry) : Bool := e.getLsbD 80
def ceGaddr (e : CopyEntry) : Nat := (e.extractLsb' 0 52).toNat

/-- The entry in the eight scalar registers from sa. -/
def entryOf (s : State) (a : SReg) : CopyEntry :=
  BitVec.ofNat 256 (((List.range 8).map (fun k => readS (srcWave s) (a.toNat + k))).foldr
    (fun w n => w.toNat + 4294967296 * n) 0)

/-- A reserved field or value, or a field outside its range or alignment (09 R271 R272). -/
def entryIllegal (e : CopyEntry) (twod : Bool) (nbars : Nat) : Bool :=
  decide (e.extractLsb' 52 28 ≠ 0) || decide (ceTwod e ≠ twod) || decide (ceHint e = 3) || decide (2 ≤ ceDir e) ||
  decide (ceLen e % 16 ≠ 0) || decide (ceLen e < 16) || decide (524288 < ceLen e) || decide (ceStaddr e % 4 ≠ 0) ||
  decide (ceLaddr e % 16 ≠ 0) || decide (ceGaddr e % 16 ≠ 0) || (ceBv e && decide (nbars ≤ (ceBar e).toNat)) ||
  (if twod then
    decide (ceGstride e % 16 ≠ 0) || decide (ceLstride e % 16 ≠ 0) || decide (ceLstride e < ceLen e) ||
      decide (ceChk e ≠ 0 ∧ ceChk e ≠ 15)
  else decide (ceGstride e ≠ 0) || decide (ceLstride e ≠ 0) || decide (ceRows e ≠ 0) || decide (8 < ceChk e))

/-- The checks at issue, in the order of 09 R272. -/
def faultCopy (a : SReg) (twod : Bool) (s : State) : Option OpFault :=
  let e := entryOf s a
  let t := teamOf s (srcWave s)
  let lend := ceLaddr e + ceRows e * ceLstride e + ceLen e
  orFault (whenFault (entryIllegal e twod t.nbars) .illegal)
    (orFault (if t.winSize < lend then
        some { cause := .localBounds, fkind := 0, lane := 0, addr := BitVec.ofNat 64 (ceLaddr e) } else none)
    (orFault (if ceSv e ∧ t.winSize < ceStaddr e + 4 then
        some { cause := .localBounds, fkind := 0, lane := 0, addr := BitVec.ofNat 64 (ceStaddr e) } else none)
      (whenFault (decide ((srcWave s).cntCopy = 255)) .engineCounter)))

/-- The copy ring of the team is full: the slot is HELD (09 R273). -/
def copyHeld (s : State) : Bool := decide (64 ≤ (teamOf s (srcWave s)).copies.length)

/-- The entry goes into the ring and the COPY counter rises; a progress act (09 R273, 01 R58). -/
def effCopy (a : SReg) (s : State) : State :=
  let e := entryOf s a
  let w := curWave s
  let c : CopyOp := { seq := w.opSeq, wave := w.id, pc := s.iss.pc, entry := e, units := 0, arrivals := 0,
                      waitPhase := false, code := 0, stopped := false, errUnits := 0, errFkind := 0, errAddr := 0,
                      finished := false, statusDone := false }
  let s := updTeam s w.team (fun t => { t with copies := t.copies ++ [c] })
  updCur s (fun w => progress { w with opSeq := w.opSeq + 1, cntCopy := w.cntCopy + 1 })
/-- ACOPY (09 R271). -/
def execAcopy (a : SReg) (s : State) : Host.Outcome State Fault Refusal :=
  run (.acopy a) (faultCopy a false s) (copyHeld s) (drainThen (effCopy a)) s
/-- ACOPY.2D (09 R271). -/
def execAcopy2d (a : SReg) (s : State) : Host.Outcome State Fault Refusal :=
  run (.acopy2d a) (faultCopy a true s) (copyHeld s) (drainThen (effCopy a)) s

/-! ### The copy unit (09 R273 R274) -/

/-- 16-byte units of a row, of the whole copy, and of a chunk. -/
def rowUnits (e : CopyEntry) : Nat := ceLen e / 16
def totalUnits (e : CopyEntry) : Nat := rowUnits e * (ceRows e + 1)
def chunkUnits (e : CopyEntry) : Nat :=
  if ceTwod e then (if ceChk e = 15 then rowUnits e else totalUnits e)
  else if ceChk e = 0 then totalUnits e else 2 ^ (ceChk e + 3)

/-- Global and team addresses of a unit. -/
def unitGlobal (e : CopyEntry) (j : Nat) : DWord :=
  BitVec.ofNat 64 (ceGaddr e + j / rowUnits e * ceGstride e + 16 * (j % rowUnits e))
def unitLocal (e : CopyEntry) (j : Nat) : Nat := ceLaddr e + j / rowUnits e * ceLstride e + 16 * (j % rowUnits e)

/-- HINT of the entry. -/
def entryHint (e : CopyEntry) : Hint := match ceHint e with
  | 1 => .evictFirst | 2 => .evictLast | _ => .none

/-- The core through which a wave's engine work reads and writes global memory (03 R123). -/
def waveCore (s : State) (wid : Nat) (t : Team) : CoreNum := match findWave s wid with
  | some w => w.core
  | none => t.core

/-- A store of the copy unit or an engine enters M of a core. -/
def coreEvents (s : State) (c : CoreNum) (l : Loc) : State := enterEvents s s.nextId c l

/-- A unit of the copy fails: it and every later one are not written. The copy's first error gives CODE, and the first failing
unit DONE, FKIND and the address (09 R274). -/
def copyError (c : CopyOp) (code : BitVec 4) (k : BitVec 3) : CopyOp :=
  if c.stopped then c
  else { c with code := if c.code = 0 then code else c.code, stopped := true, errUnits := c.units, errFkind := k,
                errAddr := unitGlobal c.entry c.units }
/-- The unit is passed over. -/
def skipUnit (c : CopyOp) : CopyOp := { c with units := c.units + 1 }

/-- One unit of a copy in which no unit has failed. -/
def copyUnit (s : State) (t : Team) (c : CopyOp) : State × CopyOp :=
  let e := c.entry
  let core := waveCore s c.wave t
  let va := unitGlobal e c.units
  let key := localKey t (unitLocal e c.units)
  match translateAt s core t.ctx va (if ceDir e = 0 then .read else .write) with
  | .error k => (s, skipUnit (copyError c 1 k))
  | .ok l =>
    if pairGated s (corePair t.core) || locGated s l then (s, skipUnit (copyError c 2 0))
    else if ceDir e = 0 then
      if loadPoisoned s core l 16 then (s, skipUnit (copyError c 3 0))
      else
        let r := cacheLoad s core t.ctx (entryHint e) false l 16
        (localWrite r.2 key r.1, skipUnit c)
    else (coreEvents (cacheStore s core t.ctx (entryHint e) false l (localRead s key 16)) core l, skipUnit c)

/-- A number of units; those after a failing one are passed over. -/
def copyUnits (s : State) (t : Team) (c : CopyOp) : Nat → State × CopyOp
  | 0 => (s, c)
  | n + 1 =>
    if c.stopped then (s, { c with units := c.units + (n + 1) })
    else
      let r := copyUnit s t c
      copyUnits r.1 t r.2 n

/-- Replaces a copy of a team. -/
def setCopy (s : State) (tid : Nat) (c : CopyOp) : State :=
  updTeam s tid (fun t => { t with copies := t.copies.map (fun x => if x.seq = c.seq ∧ x.wave = c.wave then c else x) })
def findCopy (t : Team) (wave seq : Nat) : Option CopyOp :=
  t.copies.find? (fun c => decide (c.wave = wave) && decide (c.seq = seq))

/-- Chunks of a copy, and the end of its next chunk in units. -/
def chunkEnd (c : CopyOp) : Nat :=
  let n := (c.arrivals + 1) * chunkUnits c.entry
  if n < totalUnits c.entry then n else totalUnits c.entry
def lastChunk (c : CopyOp) : Bool := decide (totalUnits c.entry ≤ (c.arrivals + 1) * chunkUnits c.entry)
/-- The end, in units, of the aligned 256-byte block under way, or of the chunk where that comes first (09 R275). -/
def blockEnd (c : CopyOp) : Nat := min (chunkEnd c) (16 * (c.units / 16 + 1))

/-- The arrival after a chunk: a release at .team scope; one due while the expected count is 0 is not made (09 R273). -/
def copyArrive (s : State) (t : Team) (c : CopyOp) : State :=
  let b := ceBar c.entry
  let fin := lastChunk c
  let c := { c with arrivals := c.arrivals + 1, finished := fin }
  if !ceBv c.entry then setCopy s t.id c
  else
    let s := if t.pair then eagerClean s (waveCore s c.wave t) else s
    if barExpected t b = 0 then
      setCopy s t.id (if c.code = 0 then { c with code := 4 } else c)
    else barArrival (setCopy s t.id { c with waitPhase := true }) t.id b

/-- The copy unit goes on by n units, 0 for as many as its block has left, and never past the block's end; at the end of a
chunk it arrives (09 R273 R275). A unit of 16 bytes is moved whole, so that a racing access sees all four of its words old or
all new (DESIGN CHOICE, notes/assumptions/88.md). -/
def stepChunk (s : State) (t : Team) (c : CopyOp) (n : Nat) : State :=
  if c.finished || c.waitPhase then s
  else
    let stop := if n = 0 then blockEnd c else min (blockEnd c) (c.units + n)
    let r := copyUnits s t c (stop - c.units)
    match findTeam r.1 t.id with
    | none => r.1
    | some t => if chunkEnd c ≤ stop then copyArrive r.1 t r.2 else setCopy r.1 t.id r.2
/-- COPY_CHUNK: the copy is named by its team, wave and sequence number, and the units to move by the count. -/
def execCopyChunk (s : State) : Host.Outcome State Fault Refusal :=
  match findTeam s s.who.team with
  | none => .next s
  | some t => match findCopy t s.who.wave s.who.seq with
    | none => .next s
    | some c => .next (if t.status = .running ∧ teamStopped s t = false then stepChunk s t c s.who.count else s)
/-- A copy under way completes its block, with the arrival that is due (09 R275). -/
def finishBlock (s : State) (tid wave seq : Nat) : State :=
  match findTeam s tid with
  | none => s
  | some t => match findCopy t wave seq with
    | none => s
    | some c => if c.units % 16 = 0 then s else stepChunk s t c 0
/-- Every copy of a team does. -/
def finishBlocks (s : State) (t : Team) : State := t.copies.foldl (fun acc c => finishBlock acc t.id c.wave c.seq) s

/-- The status word (09 R274). -/
def copyStatus (c : CopyOp) : Word :=
  let n := if c.code = 0 ∨ c.code = 4 then totalUnits c.entry else c.errUnits
  (0 : BitVec 4) ++ c.code ++ BitVec.ofNat 24 (if n < 16777216 then n else 16777215)

/-- The fault-log record of a copy whose CODE is not 0 (15 R375). -/
def copyRecord (t : Team) (w : Wave) (c : CopyOp) : LogRec :=
  let cause : Cause := match c.code.toNat with
    | 1 => .translation | 2 => .gated | 3 => .softError | _ => .barrierState
  let i : TrapInfo := { cause := cause, code := c.code.setWidth 12, deliv := .boundary, slot := 2, fkind := c.errFkind,
                        flane := 0, faddr := if c.code = 4 then 0 else c.errAddr, tpc := c.pc, resume := 0, iter := 0,
                        res := 0 }
  trapRecord t w i false false false

/-- After its last arrival the unit writes the status word (09 R273). -/
def writeStatus (s : State) (t : Team) (c : CopyOp) : State :=
  if c.statusDone then s
  else
    let s := if ceSv c.entry && !pairGated s (corePair t.core) then
      localWrite s (localKey t (ceStaddr c.entry)) (leBytes (copyStatus c).toNat 4) else s
    setCopy s t.id { c with statusDone := true }
/-- The ACOPY retires: the counter, the ring entry, and the record of an error. The entries behind it close up
(notes/assumptions/88.md). -/
def retireCopy (s : State) (t : Team) (c : CopyOp) : State :=
  let s := updTeam s t.id (fun t =>
    { t with copies := t.copies.filter (fun x => decide (x.seq ≠ c.seq) || decide (x.wave ≠ c.wave)),
             copyHead := t.copyHead + 1 })
  let s := updWave s c.wave (fun w => { w with cntCopy := w.cntCopy - 1 })
  if c.code = 0 then s
  else
    let s := updCtx s t.ctx (fun x => { x with copyerr := satCount x.copyerr 1 })
    writeLog s t.ctx (copyRecord t ((findWave s c.wave).getD blankWave) c)

/-- An older copy of the same wave has not retired (03 R122). -/
def olderCopy (t : Team) (c : CopyOp) : Bool := t.copies.any (fun x => decide (x.wave = c.wave) && decide (x.seq < c.seq))
/-- What becomes of a copy that has made its last arrival: its status word at once, and its retirement behind the wave's older
copies. -/
def endCopy (s : State) (t : Team) (c : CopyOp) : State :=
  let s := writeStatus s t c
  if olderCopy t c then s else retireCopy s t c
/-- COPY_RETIRE (09 R273). -/
def execCopyRetire (s : State) : Host.Outcome State Fault Refusal :=
  match findTeam s s.who.team with
  | none => .next s
  | some t => match findCopy t s.who.wave s.who.seq with
    | none => .next s
    | some c => finish (if c.finished && decide (t.status = .running) && !teamStopped s t then endCopy s t c else s)

end Sys2Proof.Machine
end

