-- ==== Sys2Proof/Machine/Convert.lean ====
section
/-! DEFINITION. Conversions and narrow packing (08 R234 to R237, 04 R130 R134 R135). -/

namespace Sys2Proof.Machine

/-- Width of a type code in bits (04 R126). -/
def typeWidth : NumType → Nat
  | .fp16 => 16 | .bf16 => 16 | .e4m3 => 8 | .e5m2 => 8 | .e2m1 => 4 | .int8 => 8 | .int4 => 4 | .uint8 => 8
  | .fp32 => 32 | .int32 => 32 | .uint32 => 32 | .int64 => 64 | .uint64 => 64 | .e8m0 => 8
def isSigned : NumType → Bool
  | .int8 => true | .int4 => true | .int32 => true | .int64 => true | _ => false

/-- The exact value of a source: a real, or an integer. -/
inductive SrcVal
  | real (v : Val)
  | int (x : Int)
deriving DecidableEq, Repr

/-- The integer of a code of a type. -/
def intOfCode (t : NumType) (x : Nat) : Int :=
  let w := typeWidth t
  let y := x % 2 ^ w
  if isSigned t && decide (2 ^ (w - 1) ≤ y) then (y : Int) - 2 ^ w else y

/-- Reads a code as a type (08 R235 step 1). -/
def readAs (t : NumType) (x : Nat) : SrcVal :=
  if isFloat t then .real (decodeFloat (floatFmt t) (x % 2 ^ typeWidth t))
  else if t = .e8m0 then .real (ofE8M0 (x % 256))
  else .int (intOfCode t x)

/-- Applies N and A to a floating-point code of a type: sign bit only (08 R221 R234). -/
def modCode (t : NumType) (m : Mod) (x : Nat) : Nat :=
  let h := 2 ^ (typeWidth t - 1)
  let y := x % (2 * h)
  let y := if m.abs then y % h else y
  if m.neg then (y + h) % (2 * h) else y

/-- An integer as a code of a type: the low bits. -/
def codeOfInt (t : NumType) (x : Int) : Nat := (x % (2 ^ typeWidth t : Int)).toNat

/-- A value of a source type converted to a type (08 R235 step 2): an integer saturates to a narrower or an unsigned target only,
and otherwise keeps its low bits (04 R135). -/
def convertTo (st t : NumType) (m : Round) (sat : Bool) (v : SrcVal) : Nat × FpFlags :=
  match v with
  | .real x =>
    if isFloat t then convertFloat (floatFmt t) m sat x
    else if t = .e8m0 then toE8M0 x
    else let r := floatToInt t m x
      (codeOfInt t r.1, r.2)
  | .int x =>
    if isFloat t then convertFloat (floatFmt t) m sat (intVal x)
    else if t = .e8m0 then toE8M0 (intVal x)
    else
      let c := clampInt (intBounds t).1 (intBounds t).2 x
      if sat && (decide (typeWidth t < typeWidth st) || !isSigned t) then (codeOfInt t c.1, flagIf c.2 flagSA) else (codeOfInt t x, 0)

/-- CVT of one code: two equal floating-point types return the value, a NaN the canonical one, without a flag. -/
def cvtCode (dt st : NumType) (m : Round) (sat : Bool) (md : Mod) (x : Nat) : Nat × FpFlags :=
  let y := if isFloat st then modCode st md x else x
  if isFloat st && decide (dt = st) then
    (if isNaN (decodeFloat (floatFmt st) y) then canonNaN (floatFmt st) else y, 0)
  else convertTo st dt m sat (readAs st y)

/-! ### CVT and SCVT -/

def effCvt (o : Cvt) (s : State) : State :=
  let w := srcWave s
  let m := laneSet s o.pr
  let fmt := issFmt s
  let src := fun l => (readV w (vnum w.ix.toNat o.a) l).toNat +
    (if is64 o.st then 4294967296 * (readV w (vnum w.ix.toNat o.a + 1) l).toNat else 0)
  let r := fun l => cvtCode o.dt o.st (effRound fmt o.rm) (o.sat || fmtSat fmt) o.ma (src l)
  let n := vnum w.ix.toNat o.d
  let s := updCur s (writeVec n (fun l => BitVec.ofNat 32 (r l).1) (lanesOf m))
  let s := if is64 o.dt then updCur s (writeVec (n + 1) (fun l => BitVec.ofNat 32 ((r l).1 / 4294967296)) (lanesOf m)) else s
  raiseLanes s m (fun l => (r l).2)

def effScvt (o : SCvt) (s : State) : State :=
  let w := srcWave s
  let fmt := issFmt s
  let x := (readS w o.a.toNat).toNat + (if is64 o.st then 4294967296 * (readS w (o.a.toNat + 1)).toNat else 0)
  let r := cvtCode o.dt o.st (effRound fmt o.rm) (o.sat || fmtSat fmt) o.ma x
  let s := if is64 o.dt then putSP s o.d (BitVec.ofNat 64 r.1) else putS s o.d (BitVec.ofNat 32 r.1)
  raiseFpx s r.2

/-! ### PACK and UNPACK -/

/-- The scale of a lane: 1 without an operand; NaN for code 0xFF (08 R237). -/
def packScale (w : Wave) (o : PackOps) (l : Nat) : Val :=
  match o.scale with
  | none => pow2Val 0
  | some b => ofE8M0 ((readVB w b l).toNat % 256)

/-- x / s and x x s, exactly. -/
def scaleDown (v : SrcVal) (s : Val) : SrcVal :=
  match v, s with
  | .int x, _ => .int x
  | .real x, .fin _ _ _ e => .real (mulVal x (pow2Val (-e))).1
  | .real _, _ => .real .nan
def scaleUp (v : SrcVal) (s : Val) : SrcVal :=
  match v, s with
  | .int x, _ => .int x
  | .real x, .fin _ _ _ e => .real (mulVal x (pow2Val e)).1
  | .real _, _ => .real .nan

/-- PACK of one lane: the packed register and the OR of the elements' flags. -/
def packLane (o : PackOps) (m : Round) (sat : Bool) (sc : Val) (x : Nat → Nat) : Nat → Nat × FpFlags
  | 0 => (0, 0)
  | k + 1 =>
    let r := packLane o m sat sc x k
    let e := convertTo o.st o.dt m sat (scaleDown (readAs o.st (x k)) sc)
    (r.1 + e.1 * 2 ^ (k * typeWidth o.dt), r.2 ||| e.2)

def effPack (o : PackOps) (s : State) : State :=
  let w := srcWave s
  let m := laneSet s o.pr
  let fmt := issFmt s
  let a := vnum w.ix.toNat o.a
  let r := fun l => packLane o (effRound fmt o.rm) (o.sat || fmtSat fmt) (packScale w o l)
    (fun k => (readV w (a + k) l).toNat) (packCount o.dt)
  raiseLanes (putVec s m o.d (fun l => BitVec.ofNat 32 (r l).1)) m (fun l => (r l).2)

/-- Element k of UNPACK. -/
def unpackElem (o : PackOps) (m : Round) (sat : Bool) (sc : Val) (x k : Nat) : Nat × FpFlags :=
  convertTo o.st o.dt m sat (scaleUp (readAs o.st (x / 2 ^ (k * typeWidth o.st))) sc)

def effUnpack (o : PackOps) (s : State) : State :=
  let w := srcWave s
  let m := laneSet s o.pr
  let fmt := issFmt s
  let e := fun l k => unpackElem o (effRound fmt o.rm) (o.sat || fmtSat fmt) (packScale w o l) (readVReg w o.a l).toNat k
  let n := vnum w.ix.toNat o.d
  let ks := List.range (packCount o.st)
  let s := ks.foldl (fun acc k => updCur acc (writeVec (n + k) (fun l => BitVec.ofNat 32 (e l k).1) (lanesOf m))) s
  raiseLanes s m (fun l => ks.foldl (fun f k => f ||| (e l k).2) 0)

/-! ### Meanings -/

/-- CVT (08 R235). -/
def execCvt (o : Cvt) (s : State) : Host.Outcome State Fault Refusal := run (.cvt o) none false (effCvt o) s
/-- SCVT (08 R235). -/
def execScvt (o : SCvt) (s : State) : Host.Outcome State Fault Refusal := run (.scvt o) none false (effScvt o) s
/-- PACK (08 R237). -/
def execPack (o : PackOps) (s : State) : Host.Outcome State Fault Refusal := run (.pack o) none false (effPack o) s
/-- UNPACK (08 R237). -/
def execUnpack (o : PackOps) (s : State) : Host.Outcome State Fault Refusal := run (.unpack o) none false (effUnpack o) s

end Sys2Proof.Machine
end

