-- ==== Sys2Proof/Machine/EngineArith.lean ====
section
/-! DEFINITION. The arithmetic of the matrix engine (04 R138 to R141, 05 R150 R151 R157 R170): passes over K-chunks,
conversions of a tile, and the residual. A matrix is a list of rows. -/

namespace Sys2Proof.Machine

/-- A matrix of 32-bit elements, and one of element codes. -/
abbrev Mat := List (List Word)
abbrev Codes := List (List Nat)

def matAt (m : Mat) (i j : Nat) : Word := (m.getD i []).getD j 0
def codeAt (m : Codes) (i j : Nat) : Nat := (m.getD i []).getD j 0
/-- A matrix from its elements. -/
def mkMat (f : Nat → Nat → Word) : Mat := (List.range 64).map (fun i => (List.range 64).map (f i))
def mkCodes (rows cols : Nat) (f : Nat → Nat → Nat) : Codes := (List.range rows).map (fun i => (List.range cols).map (f i))
def transposeCodes (m : Codes) : Codes := mkCodes 64 64 (fun i j => codeAt m j i)

/-- The matrix classes of 04 R126. -/
inductive MxClass
  | h | f8 | f4 | i8
deriving DecidableEq, Repr

def mxClass (f : BitVec 4) : Option MxClass :=
  match f.toNat with
  | 0 => some .h | 1 => some .h | 2 => some .f8 | 3 => some .f8 | 4 => some .f4 | 5 => some .i8 | _ => none
/-- Chunk length (04 R140). -/
def chunkLen : MxClass → Nat
  | .h => 16 | .f8 => 32 | .f4 => 64 | .i8 => 32
/-- Bits of an element. -/
def classWidth : MxClass → Nat
  | .h => 16 | .f8 => 8 | .f4 => 4 | .i8 => 8
/-- The floating-point format of a type code. -/
def codeFmt (f : BitVec 4) : FloatFmt :=
  match f.toNat with
  | 0 => fmtFP16 | 1 => fmtBF16 | 2 => fmtE4M3 | 3 => fmtE5M2 | _ => fmtE2M1

/-- Element k of packed bytes (04 R132). -/
def packedElem (width : Nat) (bits k : Nat) : Nat := bits / 2 ^ (k * width) % 2 ^ width
def unpackRow (width n : Nat) (bs : List Byte) : List Nat :=
  let x := leNat bs
  (List.range n).map (packedElem width x)

/-- A product with both block scales, 2^(sa + sb - 254); a NaN scale makes it NaN (04 R130 R139). -/
def scaleProduct (sa sb : Nat) (p : Val) : Val :=
  if sa = 0xFF ∨ sb = 0xFF then .nan
  else match p with
    | .fin n a d e => .fin n a d (e + (sa : Int) + sb - 254)
    | v => v

/-- accumulate into a tile: each chunk's group sum is added and the result flushed (04 R138 R139). -/
def tileAccumulate (acc : Word) : List (List Val) → Word
  | [] => acc
  | p :: r => tileAccumulate (flushF32 (accumulate1 .ne acc p).1) r
/-- accumulate without the flush, for a network (05 R170). -/
def netAccumulate (acc : Word) : List (List Val) → Word
  | [] => acc
  | p :: r => netAccumulate (accumulate1 .ne acc p).1 r

/-- The formats of a pass, and its scales where SCALE is 1: A's by row and k-block, B's by column and k-block. -/
structure Pass where
  cls : MxClass
  fa : BitVec 4
  fb : BitVec 4
  scales : Option (Codes × Codes)
deriving DecidableEq, Repr

/-- One product of a floating-point pass: element ka of a row of A with element kb of a column of B. -/
def passProduct (p : Pass) (i j : Nat) (a b : List Nat) (ka kb : Nat) : Val :=
  let v := (mulVal (decodeFloat (codeFmt p.fa) (a.getD ka 0)) (decodeFloat (codeFmt p.fb) (b.getD kb 0))).1
  match p.scales with
  | none => v
  | some x => scaleProduct (codeAt x.1 i (kb / 32)) (codeAt x.2 j (kb / 32)) v

/-- The elements that meet in a chunk of row i: every k, or the kept ones of 2:4 metadata (05 R151). -/
def chunkPairs (chunk c : Nat) (meta4 : Option (List Nat)) : List (Nat × Nat) :=
  match meta4 with
  | none => (List.range chunk).map (fun k => (c * chunk + k, c * chunk + k))
  | some m => (List.range (chunk / 4)).flatMap (fun g =>
      let g := c * chunk / 4 + g
      let x := m.getD g 0
      [(2 * g, 4 * g + x % 4), (2 * g + 1, 4 * g + x / 4 % 4)])

/-- One element of a floating-point pass. -/
def passFloat (p : Pass) (nc : Nat) (meta4 : Option (List Nat)) (i j : Nat) (c : Word) (a b : List Nat) : Word :=
  tileAccumulate c ((List.range nc).map (fun k =>
    (chunkPairs (chunkLen p.cls) k meta4).map (fun e => passProduct p i j a b e.1 e.2)))
/-- A signed 8-bit code. -/
def int8 (x : Nat) : Int := (BitVec.ofNat 8 x).toInt
/-- One element of a class I8 pass: exact, modulo 2^32 (04 R140). -/
def passInt (nc : Nat) (meta4 : Option (List Nat)) (c : Word) (a b : List Nat) : Word :=
  c + BitVec.ofInt 32 (((List.range nc).flatMap (fun k => chunkPairs 32 k meta4)).map
    (fun e => int8 (a.getD e.1 0) * int8 (b.getD e.2 0))).sum

/-- A pass: rows of A, columns of B, and the accumulator it starts from (05 R315). -/
def mmPass (p : Pass) (nc : Nat) (metas : Option Codes) (a bcols : Codes) (c : Mat) : Mat :=
  mkMat (fun i j =>
    let m := metas.map (fun x => x.getD i [])
    if p.cls = .i8 then passInt nc m (matAt c i j) (a.getD i []) (bcols.getD j [])
    else passFloat p nc m i j (matAt c i j) (a.getD i []) (bcols.getD j []))

/-- cvt of a tile to a format under FMT.SAT (05 R157). -/
def cvtMat (f : BitVec 4) (sat : Bool) (x : Mat) : Codes :=
  mkCodes 64 64 (fun i j => (convertFloat (codeFmt f) .ne sat (f32 (matAt x i j))).1)
def zeroMat : Mat := []
/-- k times the identity. -/
def diagMat (k : Word) : Mat := mkMat (fun i j => if i = j then k else 0)
def flushMat (x : Mat) : Mat := mkMat (fun i j => flushF32 (matAt x i j))

/-- mm of 05 R157: a product of two converted 64 x 64 matrices. -/
def mm64 (cls : MxClass) (fa fb : BitVec 4) (a b : Codes) (c : Mat) : Mat :=
  mmPass { cls := cls, fa := fa, fb := fb, scales := none } (64 / chunkLen cls) none a (transposeCodes b) c

/-- residual of 05 R157: squares of the rounded differences by rows, rows summed in ascending order. -/
def residual (y x : Mat) : Word :=
  let row := fun i => (groupSum .ne ((List.range 64).map (fun j =>
    let d := f32 (toF32 .ne (addVal false (f32 (matAt y i j)) (negVal (f32 (matAt x i j)))).1).1
    (mulVal d d).1))).1
  (List.range 64).foldl (fun acc i => (toF32 .ne (addVal false (f32 acc) (f32 (row i))).1).1) 0

/-- Horner's form by passes, from the coefficient of degree i - 1 down to 0; each result is flushed by its pass. -/
def horner (cls : MxClass) (fa fb : BitVec 4) (sat : Bool) (xb : Codes) (k : Nat → Word) : Nat → Mat → Mat
  | 0, y => y
  | i + 1, y => horner cls fa fb sat xb k i (mm64 cls fa fb (cvtMat fa sat y) xb (diagMat (k i)))
/-- The polynomial of degree d (05 R157 R320). -/
def polyMat (cls : MxClass) (fa fb : BitVec 4) (sat : Bool) (x : Mat) (k : Nat → Word) (d : Nat) : Mat :=
  horner cls fa fb sat (cvtMat fb sat x) k d (diagMat (k d))

/-- The update of NS mode: k0 X + k1 X X^T X, each element rounded once (05 R157). -/
def nsMat (cls : MxClass) (fa fb : BitVec 4) (sat : Bool) (x : Mat) (k0 k1 : Word) : Mat :=
  let xb := cvtMat fb sat x
  let p := mm64 cls fa fb (cvtMat fa sat x) (transposeCodes xb) zeroMat
  let q := mm64 cls fa fb (cvtMat fa sat p) xb zeroMat
  mkMat (fun i j => (toF32 .ne (addVal false (mulVal (f32 k0) (f32 (matAt x i j))).1
    (mulVal (f32 k1) (f32 (matAt q i j))).1).1).1)

/-- r > 4 x q of FP32 values, false for a NaN (05 R157). -/
def gt4 (r q : Word) : Bool :=
  let a := f32 r
  let b := (mulVal (pow2Val 2) (f32 q)).1
  !isNaN a && !isNaN b && decide (0 < cmpVal a b)
def leF32 (a b : Word) : Bool := !isNaN (f32 a) && !isNaN (f32 b) && decide (cmpVal (f32 a) (f32 b) ≤ 0)

end Sys2Proof.Machine
end

