-- ==== Sys2Proof/Machine/Tokens.lean ====
section
/-! DEFINITION. Tokens of the tumbler ring (01 R49 to R53, 17 R401 R402): where released tokens go, what a stop may grant,
and the effective graph priority (02 R88). -/

namespace Sys2Proof.Machine

/-- The population exceeds its target (17 R402). -/
def ringExcess (s : State) (k : StackNum) : Bool := decide ((getStack s k).target < (getStack s k).ringP)

/-- The starvation flag of a stack is up: some stop of it serves a starving wave or pass (01 R52 R53). -/
def starvationFlag (s : State) (k : StackNum) : Bool := (getStack s k).flag
/-- Whether a stop of the stack is serving. -/
def someServing (s : State) (k : StackNum) : Bool :=
  (List.range 16).any (fun j => (getCluster s (BitVec.ofNat 5 (16 * k.toNat + j))).serving.isSome)
/-- The flag as the stops leave it. -/
def setFlagOf (s : State) (k : StackNum) : State := updStack s k (fun t => { t with flag := someServing s k })

/-- Tokens into the ring of a stack. -/
def toRing (s : State) (k : StackNum) (n : Nat) : State := updStack s k (fun t => { t with free := t.free + n })

/-- The stop of a retired cluster passes tokens on without capturing them (18 R424). -/
def stopRetired (s : State) (cl : ClusterNum) : Bool := s.svc.retClusters.getLsbD cl.toNat
/-- Released tokens go back to the stop's pool, or into the ring while the flag is up or the population is in excess, or
past the pool's 1,024 (01 R51 R53, 17 R402). -/
def releaseTokens (s : State) (cl : ClusterNum) (n : Nat) : State :=
  let k := clusterStack cl
  if starvationFlag s k || ringExcess s k || stopRetired s cl then toRing s k n
  else
    let c := getCluster s cl
    let keep := min n (1024 - c.pool)
    toRing (updCluster s cl (fun c => { c with pool := c.pool + keep })) k (n - keep)

/-- The stop sends its ungranted pool into the ring while the flag is up or the population is in excess, or where it is
retired. -/
def emptyPool (s : State) (cl : ClusterNum) : State :=
  let k := clusterStack cl
  if starvationFlag s k || ringExcess s k || stopRetired s cl then
    toRing (updCluster s cl (fun c => { c with pool := 0 })) k (getCluster s cl).pool
  else s
def emptyPools (s : State) (k : StackNum) : State :=
  (List.range 16).foldl (fun acc j => emptyPool acc (BitVec.ofNat 5 (16 * k.toNat + j))) s

/-- Tokens an ordinary grant can take from the pool: none while the population is in excess (17 R402). -/
def poolFree (s : State) (cl : ClusterNum) : Nat :=
  if ringExcess s (clusterStack cl) then 0 else (getCluster s cl).pool

/-- A stop stops serving; what it holds apart returns (01 R52). -/
def endServing (s : State) (cl : ClusterNum) : State :=
  let n := (getCluster s cl).servedTokens
  let s := updCluster s cl (fun c => { c with serving := none, servedTokens := 0 })
  releaseTokens (setFlagOf s (clusterStack cl)) cl n

/-- Takes a price from a stop: from what it holds for whom it serves, or from its pool. -/
def takeTokens (s : State) (cl : ClusterNum) (who : Served) (n : Nat) : State :=
  let c := getCluster s cl
  if c.serving = some who ∧ n ≤ c.servedTokens then
    endServing (updCluster s cl (fun c => { c with servedTokens := c.servedTokens - n })) cl
  else updCluster s cl (fun c => { c with pool := c.pool - n })

/-- The stop can grant a price to someone, of a pool of which the given number is left; no price is granted while
THERMTRIP_N is low (17 R412). -/
def canTake (s : State) (cl : ClusterNum) (who : Served) (left n : Nat) : Bool :=
  let c := getCluster s cl
  decide (n = 0) || !s.thermtrip && (decide (c.serving = some who) && decide (n ≤ c.servedTokens) || decide (n ≤ left))

/-! ### Effective graph priority (02 R88) -/

/-- A node of a run is in drain priority: its input queue on either stack holds a spilled record. A record is held until the team
that took it ends (13 R346). -/
def drainPriority (s : State) (run : Nat) (node : BitVec 8) : Bool :=
  s.recs.any (fun r => decide (r.run = run) && decide (r.node = node) && r.spilled) ||
    s.teams.any (fun t => decide (t.run = run) && decide (t.node = node) && t.recsHeld && decide (t.task = none) &&
      t.batch.any (fun r => r.spilled)) ||
    s.runs.any (fun g => decide (g.id = run) && g.grids.any (fun x => decide (x.node = node) && x.record.spilled))
/-- PRIO with drain priority as the tie rule. -/
def nodePriority (s : State) (run : Nat) (node : BitVec 8) : Nat :=
  match findRun s run with
  | none => 0
  | some g => 2 * (runNode g node).prio.toNat + if drainPriority s run node then 1 else 0
def teamPriority (s : State) (t : Team) : Nat := nodePriority s t.run t.node
def wavePriority (s : State) (w : Wave) : Nat := match findTeam s w.team with
  | some t => teamPriority s t
  | none => 0

end Sys2Proof.Machine
end

