-- ==== Sys2Proof/Machine/Engine.lean ====
section
/-! DEFINITION. The matrix engine: tiles and side memory (05 R145), the reservation table and its arbiter (05 R152 R153), the
work of one operation (05 R150 to R160, 11 R311 to R321), and its retirement. -/

namespace Sys2Proof.Machine

/-! ### Tiles and side memory (05 R145) -/


def tileBase (cl : ClusterNum) (t : Nat) : Nat := 4096 * (32 * cl.toNat + t)
def readTile (s : State) (cl : ClusterNum) (t : Nat) : Mat :=
  let c := cellsRange s.tiles (tileBase cl t) 4096
  mkMat (fun i j => cellsRead c (tileBase cl t + 64 * i + j))
def writeTile (s : State) (cl : ClusterNum) (t : Nat) (m : Mat) : State :=
  { s with
    tiles := cellsFill s.tiles (tileBase cl t) ((List.range 4096).map (fun k => matAt m (k / 64) (k % 64))) }
/-- The engine's tile behind a tile name of a team, and the side-memory key behind its offset y. -/
def tileNum (t : Team) (k : Nat) : Nat := 8 * t.tblocks.getD (k / 8) 0 + k % 8
def sideKey (cl : ClusterNum) (t : Team) (y : Nat) : Nat := 32768 * cl.toNat + 8192 * t.tblocks.getD (y / 8192) 0 + y % 8192
def sideRead (s : State) (cl : ClusterNum) (t : Team) (y n : Nat) : List Byte :=
  (List.range n).map (fun k => cellsRead s.side (sideKey cl t (y + k)))
def sideWrite (s : State) (cl : ClusterNum) (t : Team) (y : Nat) (bs : List Byte) : State :=
  { s with side := cellsWriteAll s.side ((List.range bs.length).zip bs |>.map (fun e => (sideKey cl t (y + e.1), e.2))) }

/-- Wave numbers Q0 to Q3 of a QUAD value (05 R146). -/
def quadNum (q : BitVec 20) (k : Nat) : Nat := (q.extractLsb' (5 * k) 5).toNat

/-! ### Entries -/

/-- The team an entry works for; a network tile works for a context. -/
def entryTeam : EntryKind → Option Nat
  | .quad t _ => some t
  | .net _ => none
  | .job t => some t

/-- Product passes of an operation: of one iteration for MITER (11 R311). -/
def passCount : Instr → Nat
  | .miter o => (match o.mode with
    | .affine _ _ => 1 | .ns => 2 | .poly d => d.toNat)
  | .mpoly _ _ _ d => d.toNat
  | _ => 1
def isLoop : Instr → Bool
  | .miter _ => true | .mpoly _ _ _ _ => true | _ => false

/-- Effective graph priority of an entry; a network tile takes the highest among its lanes' waves (05 R153). -/
def entryPriority (s : State) (e : Entry) : Nat :=
  match entryTeam e.kind, e.kind with
  | some t, _ => (match findTeam s t with
    | some t => teamPriority s t
    | none => 0)
  | none, .net x => (x.rows.map (fun r => match findWave s r.wave with
        | some w => wavePriority s w
        | none => 0)).foldl max 0
  | none, _ => 0

/-- Every older entry of the same team has retired (05 R152). -/
def entryFirst (es : List Entry) (e : Entry) : Bool :=
  es.all (fun x => decide (entryTeam e.kind = none) || decide (entryTeam x.kind ≠ entryTeam e.kind) || decide (e.order ≤ x.order))
/-- READY entries that have become eligible begin to wait for the arbiter. -/
def markEligible (clk : Nat) (g : Engine) : Engine :=
  { g with entries := g.entries.map (fun e =>
      if e.state = .ready ∧ e.eligibleSince = none ∧ entryFirst g.entries e = true then { e with eligibleSince := some clk }
      else e) }
def clusterClk (s : State) (cl : ClusterNum) : Nat := (getCluster s cl).clk

/-- The lowest free entry number (05 R152). -/
def freeEntry (g : Engine) : Option (BitVec 4) :=
  ((List.range 16).map (BitVec.ofNat 4)).find? (fun i => g.entries.all (fun e => decide (e.idx ≠ i)))

/-- An entry at READY that holds no operation of a quad: a network tile, or a job. -/
def plainEntry (kind : EntryKind) (idx : BitVec 4) (age order : Nat) : Entry :=
  { idx := idx, kind := kind, state := .ready, instr := .nop, svals := [], fmt := 0, coeffs := [], parts := [],
    quad := 0, age := age, order := order, eligibleSince := none, starving := false, waitTokens := none,
    tokenStarving := false, tokens := 0, loop := { iter := 0, res := 0, rprev := inf32, product := 0 }, softError := false }
/-- The closed gather that has waited longest in its slot for an entry. -/
def waitingGather (g : Engine) : Option Gather :=
  (g.gathers.filter (fun x => x.closed)).foldl
    (fun m x => match m with
      | none => some x
      | some y => if x.opened < y.opened then some x else some y) none
/-- Closed gathers leave their slots for the table, at READY, as far as entries are free (05 R169). -/
def admitTiles : Nat → Engine → Engine
  | 0, g => g
  | n + 1, g => match waitingGather g, freeEntry g with
    | some x, some i =>
      admitTiles n { g with
        entries := g.entries ++ [plainEntry (.net x) i x.opened g.nextOrder], nextOrder := g.nextOrder + 1,
        gathers := g.gathers.filter (fun y => decide (y.idx ≠ x.idx)) }
    | _, _ => g
def refreshEngine (s : State) (cl : ClusterNum) : State :=
  updEngine s cl (fun g => markEligible (clusterClk s cl) (admitTiles 16 g))

def setEntry (e : Entry) : List Entry → List Entry
  | [] => []
  | x :: r => if x.idx = e.idx then e :: r else x :: setEntry e r
def putEntry (s : State) (cl : ClusterNum) (e : Entry) : State :=
  updEngine s cl (fun g => { g with entries := setEntry e g.entries })
def findEntry (s : State) (cl : ClusterNum) (idx : BitVec 4) : Option Entry :=
  (getEngine s cl).entries.find? (fun e => decide (e.idx = idx))

/-- A pass is under way, or waits for its tokens (05 R153 R155). -/
def engineBusy (g : Engine) : Bool := g.entries.any (fun e => decide (e.state = .running) && decide (e.eligibleSince = none))

def entryStarving (clk : Nat) (e : Entry) : Bool :=
  e.starving || (match e.eligibleSince with
    | some c => decide (c + 8192 ≤ clk)
    | none => false)
/-- The arbiter's order (05 R153): whether a goes before b. -/
def entryBefore (clk : Nat) (prio : Entry → Nat) (a b : Entry) : Bool :=
  let old := decide (a.age < b.age) || (decide (a.age = b.age) && decide (a.idx.toNat < b.idx.toNat))
  match entryStarving clk a, entryStarving clk b with
  | true, false => true
  | false, true => false
  | true, true => old
  | false, false => decide (prio b < prio a) || (decide (prio a = prio b) && old)
def bestEntry (clk : Nat) (prio : Entry → Nat) : List Entry → Option Entry
  | [] => none
  | e :: r => match bestEntry clk prio r with
    | none => some e
    | some x => if entryBefore clk prio e x then some e else some x

/-- Tokens of a pass that has ended return (05 R155). -/
def endPass (s : State) (cl : ClusterNum) (e : Entry) : State :=
  if e.tokens = 0 then s
  else
    let s := putEntry s cl { e with tokens := 0 }
    releaseTokens (updCluster s cl (fun c => { c with passTokens := c.passTokens - e.tokens })) cl e.tokens
/-- Passes of loops that wait for the arbiter have ended. -/
def endPasses (s : State) (cl : ClusterNum) : State :=
  (getEngine s cl).entries.foldl (fun acc e => if e.eligibleSince.isSome then endPass acc cl e else acc) s

/-! ### The work of single operations -/

/-- Captured FMT fields. -/
def entSat (e : Entry) : Bool := fmtSat e.fmt
def entClass (e : Entry) : MxClass := (mxClass (fmtAType e.fmt)).getD .h
def entVal (e : Entry) (k : Nat) : Nat := (e.svals.getD k 0).toNat
/-- A row stride: bits [15:0]. -/
def entStride (e : Entry) (k : Nat) : Nat := entVal e k % 65536

/-- Rows of A from the local store: n elements a row. -/
def readA (s : State) (t : Team) (base stride width n : Nat) : Codes :=
  (List.range 64).map (fun i => unpackRow width n (localRead s (localKey t (base + i * stride)) (n * width / 8)))

/-- The part of the wave that supplies quarter q. -/
def partOf (s : State) (e : Entry) (q : Nat) : Option QuadPart :=
  e.parts.find? (fun p => match findWave s p.wave with
    | some w => decide (w.num.toNat = quadNum e.quad q)
    | none => false)

/-- Element (k, j) of a quarter: lane and register of its chunk by 05 R150. -/
def quarterElem (width chunk : Nat) (b : List (List Word)) (k j : Nat) : Nat :=
  let per := 32 / width
  let h := k % chunk / (chunk / 2)
  let i := k % chunk % (chunk / 2)
  packedElem width ((b.getD (j + 16 * h) []).getD (4 * (k / chunk) + i / per) 0).toNat (i % per)
/-- Columns of B. -/
def readB (s : State) (e : Entry) (width chunk n : Nat) : Codes :=
  (List.range 64).map (fun j => match partOf s e (j / 16) with
    | some p => (List.range n).map (fun k => quarterElem width chunk p.b k (j % 16))
    | none => [])
/-- B's scales by column and k-block. -/
def readBScales (s : State) (e : Entry) (blocks : Nat) : Codes :=
  (List.range 64).map (fun j => match partOf s e (j / 16) with
    | some p => (List.range blocks).map (fun b =>
        packedElem 8 ((p.scales.getD (j % 16 + 16 * (b / 4 % 2)) []).getD (b / 8) 0).toNat (b % 4))
    | none => [])

/-- MMA and MMA.SP (11 R315). -/
def runMma (s : State) (cl : ClusterNum) (t : Team) (e : Entry) (o : Mma) (sparse : Bool) : Mat :=
  let cls := entClass e
  let chunk := chunkLen cls
  let width := classWidth cls
  let nc := o.nc1.toNat + 1
  let k := nc * chunk
  let scales := if fmtScaled e.fmt then
      some ((List.range 64).map (fun i => (localRead s (localKey t (entVal e 2 + i * (k / 32))) (k / 32)).map (fun b => b.toNat)),
        readBScales s e (k / 32))
    else none
  let metas := if sparse then
      some ((List.range 64).map (fun i => unpackRow 4 (k / 4) (sideRead s cl t (entVal e 3 + i * (k / 8)) (k / 8))))
    else none
  mmPass { cls := cls, fa := fmtAType e.fmt, fb := fmtBType e.fmt, scales := scales } nc metas
    (readA s t (entVal e 0) (entStride e 1) width (if sparse then k / 2 else k)) (readB s e width chunk k)
    (readTile s cl (tileNum t o.c.toNat))

/-- An element as MLOAD reads it (11 R316). -/
def loadElem (ty : TileTy) (x : Nat) : Word :=
  match ty with
  | .f32 => flushF32 (BitVec.ofNat 32 x)
  | .f16 => (toF32 .ne (decodeFloat fmtFP16 x)).1
  | .bf16 => flushF32 (toF32 .ne (decodeFloat fmtBF16 x)).1
  | .i32 => BitVec.ofNat 32 x
/-- An element as MSTORE writes it. -/
def storeElem (ty : TileTy) (sat : Bool) (x : Word) : Nat :=
  match ty with
  | .f32 => x.toNat
  | .f16 => (convertFloat fmtFP16 .ne sat (f32 x)).1
  | .bf16 => (convertFloat fmtBF16 .ne sat (f32 x)).1
  | .i32 => x.toNat
def elemBytes : TileTy → Nat
  | .f32 => 4 | .f16 => 2 | .bf16 => 2 | .i32 => 4
/-- What MSTORE writes after an uncorrectable error in its tile (11 R312). -/
def errorElem : TileTy → Nat
  | .f32 => 0x7FC00000 | .f16 => 0x7E00 | .bf16 => 0x7FC0 | .i32 => 0x7FC00000

def runMload (s : State) (t : Team) (e : Entry) (o : MMove) : Mat :=
  let n := elemBytes o.ty
  let rows := readA s t (entVal e 0) (entStride e 1) (8 * n) 64
  mkMat (fun i j => loadElem o.ty (codeAt rows i j))
/-- Rows are written in ascending order. -/
def runMstore (s : State) (cl : ClusterNum) (t : Team) (e : Entry) (o : MMove) : State :=
  let x := readTile s cl (tileNum t o.d.toNat)
  let n := elemBytes o.ty
  (List.range 64).foldl (fun acc i =>
    localWrite acc (localKey t (entVal e 0 + i * entStride e 1))
      ((List.range 64).flatMap (fun j =>
        leBytes (if e.softError then errorElem o.ty else storeElem o.ty (entSat e) (matAt x i j)) n))) s
/-- MSPLOAD (11 R317). -/
def runMspload (s : State) (cl : ClusterNum) (t : Team) (e : Entry) (nc1 : BitVec 3) : State :=
  let n := 8 * ((nc1.toNat + 1) * chunkLen (entClass e))
  sideWrite s cl t (entVal e 1) (localRead s (localKey t (entVal e 0)) n)

/-- The tile an operation writes, none where it writes none. -/
def destTile (e : Entry) : Option Tile :=
  match e.instr with
  | .mma o => some o.d | .mmaSp o => some o.d | .mload o => some o.d | .mzero _ d => some d
  | .miter o => some o.x | .mpoly _ d _ _ => some d | _ => none
def nanMat : Mat := mkMat (fun _ _ => nan32)

/-- The effect of a single-pass operation; after an uncorrectable error its destination is all NaN (11 R312). -/
def runSingle (s : State) (cl : ClusterNum) (t : Team) (e : Entry) : State :=
  let put := fun (d : Tile) (m : Mat) => writeTile s cl (tileNum t d.toNat) (if e.softError then nanMat else m)
  match e.instr with
  | .mma o => put o.d (runMma s cl t e o false)
  | .mmaSp o => put o.d (runMma s cl t e o true)
  | .mload o => put o.d (runMload s t e o)
  | .mstore o => runMstore s cl t e o
  | .mzero _ d => put d zeroMat
  | .mspload _ _ nc1 => runMspload s cl t e nc1
  | .mpoly _ d _ _ => if e.softError then put d nanMat else s
  | _ => s

/-- Scalar and predicate results of a retirement, the same in each quad wave (05 R158, 11 R321). -/
def retireWrs (s : State) (cl : ClusterNum) (t : Team) (e : Entry) : List Wr :=
  match e.instr with
  | .mnorm _ d c =>
    [.s d.toNat (if e.softError then nan32 else residual (readTile s cl (tileNum t c.toNat)) zeroMat)]
  | _ => []

/-! ### Loops (05 R156 to R160) -/

def coeff (e : Entry) (k : Nat) : Word := e.coeffs.getD k 0

/-- The product of MPOLY that starts as number p, counted from 1: acd holds the running value (11 R320). -/
def mpolyProduct (s : State) (cl : ClusterNum) (t : Team) (e : Entry) (p : Nat) : State :=
  match e.instr with
  | .mpoly _ d c deg =>
    let fa := fmtAType e.fmt
    let fb := fmtBType e.fmt
    let sb := cvtMat fb (entSat e) (readTile s cl (tileNum t c.toNat))
    let y := if p = 1 then diagMat (coeff e deg.toNat) else readTile s cl (tileNum t d.toNat)
    writeTile s cl (tileNum t d.toNat)
      (mm64 (entClass e) fa fb (cvtMat fa (entSat e) y) sb (diagMat (coeff e (deg.toNat - p))))
  | _ => s

/-- tol and CAP of a MITER: its last two captured scalars (11 R318). -/
def miterTol (e : Entry) : Word := e.svals.getD (e.svals.length - 2) 0
def miterCap (e : Entry) : Nat := (e.svals.getD (e.svals.length - 1) 0).toNat % 256

/-- The iterate Y of one iteration, before its flush (05 R157). -/
def iterate (s : State) (cl : ClusterNum) (t : Team) (e : Entry) (o : Miter) (x : Mat) : Mat :=
  let fa := fmtAType e.fmt
  let fb := fmtBType e.fmt
  let cls := entClass e
  match o.mode with
  | .affine _ bt => mm64 cls fa fb (readA s t (entVal e 0) (entStride e 1) (classWidth cls) 64)
      (cvtMat fb (entSat e) x) (readTile s cl (tileNum t bt.toNat))
  | .ns => nsMat cls fa fb (entSat e) x (coeff e 0) (coeff e 1)
  | .poly d => polyMat cls fa fb (entSat e) x (coeff e) d.toNat

/-- How an iteration leaves the loop: it goes on, or has converged, reached its cap or diverged (05 R157). -/
inductive LoopEnd
  | goesOn | converged | capped | diverged
deriving DecidableEq, Repr

def loopTest (tol : Word) (cap : Nat) (before : LoopRec) (r : Word) : LoopEnd :=
  let t2 := (toF32 .ne (mulVal (f32 tol) (f32 tol)).1).1
  let n := before.iter + 1
  if isNaN (f32 r) || isInf (f32 r) then .diverged
  else if 3 ≤ n ∧ gt4 r before.res = true ∧ gt4 before.res before.rprev = true then .diverged
  else if leF32 r t2 then .converged
  else if cap ≤ n then .capped
  else .goesOn

/-! ### Retirement -/

/-- A trap the engine raises in wave Q0 at its first bundle boundary (05 R158, 11 R312). -/
def trapQ0 (s : State) (e : Entry) (team : Nat) (c : Cause) : State :=
  match waveOfNum s team (quadNum e.quad 0) with
  | none => s
  | some w =>
    let part := e.parts.find? (fun p => decide (p.wave = w.id))
    let pc := (part.map (fun p => p.pc)).getD 0
    let i : TrapInfo := { cause := c, code := 0, deliv := .boundary, slot := 2, fkind := 0, flane := 0, faddr := 0,
                          tpc := pc, resume := 0, iter := if c = .matrixDivergence then BitVec.ofNat 8 e.loop.iter else 0,
                          res := if c = .matrixDivergence then e.loop.res else 0 }
    if w.status = .exited then exitedFault s w i
    else setWave s (raiseBoundary w ((part.map (fun p => p.seq)).getD 0) i)

/-- A wave's MATRIX counter falls, then its results are written (11 R319). -/
def retirePart (rs : List Wr) (s : State) (p : QuadPart) : State :=
  deliverWrs (updWave s p.wave (fun w => { w with cntMatrix := w.cntMatrix - 1 })) p.wave p.seq false rs

/-- The entry frees and the counters of its waves fall (11 R311). -/
def retireEntry (s : State) (cl : ClusterNum) (e : Entry) (rs : List Wr) : State :=
  let s := endPass s cl e
  let s := updEngine s cl (fun g => { g with entries := g.entries.filter (fun x => decide (x.idx ≠ e.idx)) })
  let s := refreshEngine s cl
  e.parts.foldl (retirePart rs) s

/-- The team of a quad entry. -/
def quadTeam (s : State) (e : Entry) : Option Team :=
  match e.kind with
  | .quad t _ => findTeam s t
  | _ => none

/-- MATRIX_RETIRE of an entry: a running single-pass operation, or MPOLY after its last product. -/
def retireQuad (s : State) (cl : ClusterNum) (e : Entry) : State :=
  match quadTeam s e with
  | none => s
  | some t =>
    let r := retireEntry (runSingle s cl t e) cl e (retireWrs s cl t e)
    if e.softError then trapQ0 r e t.id .engineError else r
def retirable (e : Entry) : Bool :=
  decide (e.state = .running) && decide (e.eligibleSince = none) && decide (e.waitTokens = none) &&
  (match e.kind with
    | .quad _ _ => true | _ => false) &&
  (match e.instr with
    | .miter _ => false | _ => decide (passCount e.instr ≤ e.loop.product))
/-- MATRIX_RETIRE (11 R311 R312): State.who names the engine. -/
def execMatrixRetire (s : State) : Host.Outcome State Fault Refusal :=
  match (getEngine s s.who.cl).entries.find? retirable with
  | some e => finish (retireQuad s s.who.cl e)
  | none => .next s

/-- One iteration of a MITER whose products have run (05 R157 R158). -/
def iterationOf (s : State) (cl : ClusterNum) (t : Team) (e : Entry) (o : Miter) : State :=
  let x := readTile s cl (tileNum t o.x.toNat)
  let y := iterate s cl t e o x
  let r := residual y x
  let out := if e.softError then .capped else loopTest (miterTol e) (miterCap e) e.loop r
  let e' := { e with loop := { iter := e.loop.iter + 1, res := r, rprev := e.loop.res, product := 0 } }
  let s := writeTile s cl (tileNum t o.x.toNat) (if e.softError then nanMat else flushMat y)
  let retire := fun (ok : Bool) =>
    retireEntry s cl e' (.s o.d.toNat (BitVec.ofNat 32 e'.loop.iter) :: allLanes.map (fun l => .p o.pd.toNat l ok))
  match out with
  | .goesOn => endPass (putEntry s cl { e' with eligibleSince := some (clusterClk s cl) }) cl
      { e' with eligibleSince := some (clusterClk s cl) }
  | .converged => retire true
  | .capped => if e.softError then trapQ0 (retire false) e' t.id .engineError else retire false
  | .diverged => trapQ0 (retire false) e' t.id .matrixDivergence
/-- The MITER whose iteration has made its products. -/
def iterationReady (e : Entry) : Bool :=
  decide (e.state = .running) && decide (e.eligibleSince = none) && decide (e.waitTokens = none) &&
  (match e.instr with
    | .miter _ => decide (passCount e.instr ≤ e.loop.product)
    | _ => false)
def finishIteration (s : State) (cl : ClusterNum) (e : Entry) : State :=
  match e.instr, quadTeam s e with
  | .miter o, some t => iterationOf s cl t e o
  | _, _ => s
/-- MITER_ITERATION (05 R157): State.who names the engine. -/
def execMiterIteration (s : State) : Host.Outcome State Fault Refusal :=
  match (getEngine s s.who.cl).entries.find? iterationReady with
  | some e => finish (finishIteration s s.who.cl e)
  | none => .next s

/-! ### Grants (05 R153 R155) -/

/-- A product pass of a loop starts: the arbiter is asked again for the next one. -/
def startProduct (s : State) (cl : ClusterNum) (e : Entry) : State :=
  let p := e.loop.product + 1
  let more := isLoop e.instr && decide (p < passCount e.instr)
  let e := { e with state := .running, waitTokens := none, tokenStarving := false, starving := false,
                    eligibleSince := if more then some (clusterClk s cl) else none, loop := { e.loop with product := p } }
  let s := putEntry s cl e
  match quadTeam s e with
  | some t => mpolyProduct s cl t e p
  | none => s

/-- The arbiter grants an entry: the first pass of a quad operation is paid; any other waits for 64 tokens (05 R155). -/
def grantEntry (s : State) (cl : ClusterNum) (e : Entry) : State :=
  let paid := decide (e.state = .ready) && (match e.kind with
    | .quad _ _ => true | _ => false)
  if paid then startProduct s cl e
  else putEntry s cl { e with state := .running, eligibleSince := none, starving := false,
                              waitTokens := some (clusterClk s cl) }

/-- A loop between two products of an iteration, which a stopped team's MITER still makes (05 R161). -/
def midIteration (e : Entry) : Bool := decide (e.loop.product ≠ 0) && match e.instr with
  | .miter _ => true
  | _ => false
/-- An entry whose next pass may start: not one of a stopped team that stands at a boundary where it stops (05 R161). -/
def mayStart (s : State) (e : Entry) : Bool :=
  midIteration e || (match (entryTeam e.kind).bind (findTeam s) with
    | some t => !teamStopped s t
    | none => true)
/-- ENGINE_GRANT (05 R153): State.who names the engine. -/
def effGrant (s : State) : State :=
  let cl := s.who.cl
  let s := refreshEngine (endPasses s cl) cl
  let g := getEngine s cl
  if engineBusy g then s
  else match bestEntry (clusterClk s cl) (entryPriority s) (g.entries.filter (fun e => e.eligibleSince.isSome && mayStart s e)) with
    | some e => grantEntry s cl e
    | none => s
def execEngineGrant (s : State) : Host.Outcome State Fault Refusal := .next (effGrant s)

/-- ENGINE_STARVING (05 R153): an entry has been eligible for 8,192 cluster clocks without a grant. -/
def execEngineStarving (s : State) : Host.Outcome State Fault Refusal :=
  .next (updEngine s s.who.cl (fun g =>
    { g with
      entries := g.entries.map (fun e => { e with starving := entryStarving (clusterClk s s.who.cl) e }) }))

/-- A pass that waits for tokens takes its 64: the charge of 17 R405 and the start of the pass. -/
def passStart (s : State) (cl : ClusterNum) (e : Entry) : State :=
  let s := takeTokens s cl .engine 64
  let s := updCluster s cl (fun c => { c with passTokens := c.passTokens + 64, acc := c.acc + 512 })
  match e.kind with
  | .quad _ _ => startProduct s cl { e with tokens := 64 }
  | _ => putEntry s cl { e with tokens := 64, waitTokens := none, tokenStarving := false }

end Sys2Proof.Machine
end

