-- ==== Sys2Proof/Machine/Neural.lean ====
section
/-! DEFINITION. Per-lane network evaluation (05 R163 to R172, 11 R322 R323): the network table, the checks and the gather of
NEVAL, layer passes, and retirement. -/

namespace Sys2Proof.Machine

/-! ### The network table (05 R164 R165) -/

abbrev NetEntry := BitVec 512
def neValid (e : NetEntry) : Bool := e.getLsbD 0
def neLayers (e : NetEntry) : Nat := (e.extractLsb' 1 2).toNat + 1
def neIn (e : NetEntry) : Nat := (e.extractLsb' 4 6).toNat + 1
def neWidth (e : NetEntry) (i : Nat) : Nat := (e.extractLsb' (64 * i + 112) 6).toNat + 1
def neAct (e : NetEntry) (i : Nat) : BitVec 2 := e.extractLsb' (64 * i + 118) 2
def neBias (e : NetEntry) (i : Nat) : Nat := 64 * (e.extractLsb' (64 * i + 88) 24).toNat
def neWeights (e : NetEntry) (i : Nat) : Nat := 64 * (e.extractLsb' (64 * i + 64) 24).toNat
/-- Input count of layer i. -/
def neInputs (e : NetEntry) (i : Nat) : Nat := if i = 0 then neIn e else neWidth e (i - 1)

def netBytes (s : State) (k : StackNum) (c : CtxNum) (a : Nat) : BitVec 512 := BitVec.ofNat 512 (leNat (weightRead s k c a 64))
def netEntry (s : State) (k : StackNum) (c : CtxNum) (h : Nat) : NetEntry := netBytes s k c (64 + 64 * h)

/-- A reserved field of an entry, or a field of a layer it does not use, is not zero. -/
def neReserved (e : NetEntry) : Bool :=
  decide (e.extractLsb' 320 192 ≠ 0) || decide (e.extractLsb' 10 54 ≠ 0) || e.getLsbD 3 ||
  (List.range 4).any (fun i => decide (e.extractLsb' (64 * i + 120) 8 ≠ 0) ||
    (decide (neLayers e ≤ i) && decide (e.extractLsb' (64 * i + 64) 56 ≠ 0)))
/-- Some byte of a used layer's weights or bias lies at or above the window size. -/
def neOutside (e : NetEntry) (size : Nat) : Bool :=
  (List.range (neLayers e)).any (fun i =>
    decide (size < neWeights e i + 2 * neWidth e i * neInputs e i) || decide (size < neBias e i + 2 * neWidth e i))

/-- A handle is valid for a lane (05 R165). -/
def handleValid (s : State) (k : StackNum) (c : CtxNum) (h ni no : Nat) : Bool :=
  let size := weightSize s c
  let hd := netBytes s k c 0
  let e := netEntry s k c h
  decide (64 ≤ size) && decide (128 + 64 * h ≤ size) && decide (h < (hd.extractLsb' 0 16).toNat) &&
    decide (hd.extractLsb' 16 496 = 0) && neValid e && !neReserved e && !neOutside e size &&
    decide (neIn e ≤ 2 * ni) && decide (neWidth e (neLayers e - 1) ≤ no)

/-! ### Issue (11 R323) -/

def nevalOp (o : Neval) (s : State) : PendOp :=
  { newPend s (.neval o) (laneSet s o.pr &&& ~~~(srcWave s).helper) with left := 0 }
def nevalHandle (p : PendOp) (l : Nat) : Nat := (opWord p .b 0 l).toNat % 65536
/-- Participating lanes whose handle is valid. -/
def validLanes (o : Neval) (s : State) (p : PendOp) : Mask :=
  maskOf (fun l => handleValid s (coreStack (srcWave s).core) (waveCtx s (srcWave s)) (nevalHandle p l)
    (o.ni1.toNat + 1) (o.no1.toNat + 1)) (lanesOf p.lanes)
/-- Input element e of a lane. -/
def nevalInput (p : PendOp) (l e : Nat) : BitVec 16 := (opWord p .a (e / 2) l).extractLsb' (16 * (e % 2)) 16

/-- The quota in force and the lanes already counted (05 R166, 15 R358). -/
def ctxStackOf (s : State) (c : CtxNum) (k : StackNum) : CtxStack :=
  if k = 0 then (getCtx s c).s0 else (getCtx s c).s1
def overQuota (q : CtxStack) (n : Nat) : Bool := decide (q.netQ ≠ 0) && decide (q.netQ.toNat < q.usedNet + n)

def faultNeval (o : Neval) (s : State) : Option OpFault :=
  let w := srcWave s
  let n := popcount (validLanes o s (nevalOp o s))
  orFault (whenFault (overQuota (ctxStackOf s (waveCtx s w) (coreStack w.core)) n) .quota)
    (whenFault (decide (w.cntNet = 255)) .engineCounter)

/-- A gather that can take a row: its window has lasted fewer than 256 cluster clocks (05 R169). -/
def gatherOpen (clk : Nat) (c : CtxNum) (h : BitVec 16) (g : Gather) : Bool :=
  decide (g.ctx = c) && decide (g.handle = h) && !g.closed && decide (clk < g.opened + 256)
/-- The lowest free gather slot. -/
def freeGather (g : Engine) : Option (BitVec 5) :=
  ((List.range 32).map (BitVec.ofNat 5)).find? (fun i => g.gathers.all (fun x => decide (x.idx ≠ i)))
def addRow (r : GatherRow) (x : Gather) : Gather :=
  { x with rows := x.rows ++ [r], closed := decide (63 ≤ x.rows.length) }
/-- A row joins the open gather of its context and handle; a 64th row closes it (05 R168 R169). -/
def joinOpen (clk : Nat) (c : CtxNum) (h : BitVec 16) (r : GatherRow) : List Gather → List Gather
  | [] => []
  | g :: gs => if gatherOpen clk c h g then addRow r g :: gs else g :: joinOpen clk c h r gs
/-- One lane joins a gather or opens one; none where no slot is free. -/
def joinLane (clk : Nat) (c : CtxNum) (h : BitVec 16) (r : GatherRow) (g : Engine) : Option Engine :=
  if g.gathers.any (gatherOpen clk c h) then some { g with gathers := joinOpen clk c h r g.gathers }
  else (freeGather g).map (fun i =>
    { g with gathers := g.gathers ++ [{ idx := i, ctx := c, handle := h, rows := [r], opened := clk, closed := false }] })
/-- The lanes in order; none where gather slots are short, so that the NEVAL does not issue (05 R168). -/
def joinLanes (clk : Nat) (c : CtxNum) (f : Nat → BitVec 16 × GatherRow) : List Nat → Engine → Option Engine
  | [], g => some g
  | l :: r, g => match joinLane clk c (f l).1 (f l).2 g with
    | some g => joinLanes clk c f r g
    | none => none

/-- The row a lane brings. -/
def nevalRow (s : State) (p : PendOp) (l : Nat) : BitVec 16 × GatherRow :=
  let w := srcWave s
  let h := nevalHandle p l
  let n := neIn (netEntry s (coreStack w.core) (waveCtx s w) h)
  (BitVec.ofNat 16 h, { wave := w.id, op := p.seq, lane := BitVec.ofNat 5 l, x := (List.range n).map (nevalInput p l) })
/-- The engine after a NEVAL; none where it does not issue: gather slots are short, or the cluster is being drained and
gathers no lane (18 R424). -/
def nevalEngine (o : Neval) (s : State) : Option Engine :=
  let w := srcWave s
  let p := nevalOp o s
  let cl := coreCluster w.core
  if (getCluster s cl).draining then none else
  joinLanes (clusterClk s cl) (waveCtx s w) (nevalRow s p) (lanesOf (validLanes o s p)) (getEngine s cl)

def updCtxStackOf (s : State) (c : CtxNum) (k : StackNum) (f : CtxStack → CtxStack) : State :=
  updCtx s c (fun x => if k = 0 then { x with s0 := f x.s0 } else { x with s1 := f x.s1 })

/-- NEVAL issues: the quota is charged, the counter rises and the valid lanes wait for their tiles. -/
def effNeval (o : Neval) (s : State) : State :=
  match nevalEngine o s with
  | none => holdSlot s
  | some g =>
    let w := srcWave s
    let v := validLanes o s (nevalOp o s)
    let p := { nevalOp o s with left := v }
    let s := updCtxStackOf s (waveCtx s w) (coreStack w.core) (fun q => { q with usedNet := q.usedNet + popcount v })
    let s := refreshEngine (updEngine s (coreCluster w.core) (fun _ => g)) (coreCluster w.core)
    updCur s (fun w => { w with nets := w.nets ++ [p], opSeq := w.opSeq + 1, cntNet := w.cntNet + 1 })
/-- NEVAL (11 R322 R323). -/
def execNeval (o : Neval) (s : State) : Host.Outcome State Fault Refusal :=
  run (.neval o) (faultNeval o s) (decide (nevalEngine o s = none)) (effNeval o) s

/-! ### Gathers close (05 R169) -/

/-- The gathers of an engine that a test names close. -/
def closeGathers (s : State) (cl : ClusterNum) (f : Gather → Bool) : State :=
  refreshEngine (updEngine s cl (fun g =>
    { g with gathers := g.gathers.map (fun x => if f x then { x with closed := true } else x) })) cl
/-- The window of a gather has lasted 256 cluster clocks. -/
def windowOver (s : State) (cl : ClusterNum) (x : Gather) : Bool := decide (x.opened + 256 ≤ clusterClk s cl)
/-- GATHER_CLOSE: the window of a gather has lasted 256 cluster clocks; State.who names the engine and the slot. -/
def execGatherClose (s : State) : Host.Outcome State Fault Refusal :=
  .next (closeGathers s s.who.cl (fun x => decide (x.idx = s.who.idx) && windowOver s s.who.cl x))
/-- Every gather of an engine whose window is over closes in its clock (05 R169). -/
def closeDue (s : State) (cl : ClusterNum) : State :=
  if (getEngine s cl).gathers.any (windowOver s cl) then closeGathers s cl (windowOver s cl) else s

/-! ### Layer passes (05 R170) -/

/-- An activation of an FP32 accumulator, exact but for TANH's own bits (05 R164). -/
def activate (act : BitVec 2) (a : Word) : Val :=
  let v := f32 a
  match act.toNat with
  | 0 => v
  | 1 => if isNaN v then .nan else if cmpVal v (.fin false 0 1 0) ≤ 0 then .fin false 0 1 0 else v
  | 2 => f32 (tanhFn a).1
  | _ => if isNaN v then .nan else if cmpVal v (.fin false 0 1 0) < 0 then (mulVal v (pow2Val (-3))).1 else v
/-- round_ne to FP16 saturated to 65,504 (05 R170). -/
def netRound (v : Val) : BitVec 16 :=
  match v with
  | .nan => 0x7E00
  | .inf n => if n then 0xFBFF else 0x7BFF
  | v => BitVec.ofNat 16 (convertFloat fmtFP16 .ne true v).1

/-- Elements of a row of weights. -/
def weightHalves (s : State) (k : StackNum) (c : CtxNum) (a n : Nat) : List Nat :=
  unpackRow 16 n (weightRead s k c a (2 * n))
/-- One output of a layer. -/
def netOutput (bias : Nat) (act : BitVec 2) (w : List Nat) (x : List (BitVec 16)) : BitVec 16 :=
  let n := x.length
  let groups := (List.range ((n + 15) / 16)).map (fun g =>
    ((List.range 16).filter (fun k => decide (16 * g + k < n))).map (fun k =>
      (mulVal (decodeFloat fmtFP16 (w.getD (16 * g + k) 0)) (f16 (x.getD (16 * g + k) 0))).1))
  netRound (activate act (netAccumulate (toF32 .ne (decodeFloat fmtFP16 bias)).1 groups))
/-- A layer over one row. -/
def netLayer (ws : List (List Nat)) (bs : List Nat) (act : BitVec 2) (x : List (BitVec 16)) : List (BitVec 16) :=
  (List.range ws.length).map (fun j => netOutput (bs.getD j 0) act (ws.getD j []) x)

/-- Layer i of a gather's network applied to its rows. -/
def layerRows (s : State) (k : StackNum) (g : Gather) (i : Nat) : List GatherRow :=
  let e := netEntry s k g.ctx g.handle.toNat
  let n := neInputs e i
  let ws := (List.range (neWidth e i)).map (fun j => weightHalves s k g.ctx (neWeights e i + 2 * n * j) n)
  let bs := weightHalves s k g.ctx (neBias e i) (neWidth e i)
  g.rows.map (fun r => { r with x := netLayer ws bs (neAct e i) r.x })

/-- The results of a completed row: the last layer's outputs widened, +0.0 above them (05 R170). -/
def rowResults (p : PendOp) (r : GatherRow) : List Wr :=
  match p.instr with
  | .neval o => (List.range (o.no1.toNat + 1)).map (fun j =>
      .v (vnum 0 o.d + j) r.lane.toNat (if j < r.x.length then (toF32 .ne (f16 (r.x.getD j 0))).1 else 0))
  | _ => []
/-- A row completes in its NEVAL; after an engine fault its lane counts as invalid (05 R171): it gets no result. -/
def completeRow (bad : Bool) (s : State) (r : GatherRow) : State :=
  updWave s r.wave (fun w =>
    { w with
      nets := w.nets.map (fun p => if p.seq = r.op then
        { p with left := p.left &&& ~~~(BitVec.twoPow 32 r.lane.toNat), results := if bad then p.results else p.results ++ rowResults p r }
      else p) })

/-- The tile whose layer pass is under way. -/
def layerEntry (g : Engine) : Option (Entry × Gather) :=
  g.entries.findSome? (fun e => match e.kind with
    | .net x => if e.state = .running ∧ e.tokens ≠ 0 then some (e, x) else none
    | _ => none)

/-- A layer's weights or bias lie in a bank in its refresh window: the engine's access waits (05 R154, 03 R105). -/
def layerWaits (s : State) (k : StackNum) (g : Gather) (i : Nat) : Bool :=
  let e := netEntry s k g.ctx g.handle.toNat
  let base := (getCtx s g.ctx).wbase.toNat
  let banks := fun (a n : Nat) => (List.range ((n + 63) / 64 + 1)).map (fun j => weightBank (base + a + min (64 * j) (n - 1)))
  (banks (neWeights e i) (2 * neWidth e i * neInputs e i) ++ banks (neBias e i) (2 * neWidth e i)).any (bankRefreshing s k)
/-- The tile leaves the table and its rows complete. -/
def finishTile (s : State) (cl : ClusterNum) (e : Entry) (rows : List GatherRow) : State :=
  rows.foldl (completeRow e.softError) (retireEntry s cl e [])
/-- LAYER_PASS (05 R170): State.who names the engine. -/
def effLayerPass (s : State) : State :=
  let cl := s.who.cl
  match layerEntry (getEngine s cl) with
  | none => s
  | some (e, g) =>
    let k := clusterStack cl
    if layerWaits s k g e.loop.product then s
    else
      let rows := layerRows s k g e.loop.product
      if neLayers (netEntry s k g.ctx g.handle.toNat) ≤ e.loop.product + 1 then finishTile s cl e rows
      else
        let e' := { e with kind := .net { g with rows := rows }, loop := { e.loop with product := e.loop.product + 1 },
                           eligibleSince := some (clusterClk s cl) }
        endPass (putEntry s cl e') cl e'
def execLayerPass (s : State) : Host.Outcome State Fault Refusal := .next (effLayerPass s)

/-! ### Retirement (05 R171) -/

/-- The lanes of an operation that have no result: invalid ones (05 R165). -/
def invalidLanes (p : PendOp) : Mask :=
  p.lanes &&& ~~~(p.results.foldl (fun m r => match r with
    | .v _ l _ => m ||| BitVec.twoPow 32 l
    | _ => m) 0)
/-- What an invalid lane's destination receives. -/
def nanResults (p : PendOp) : List Wr :=
  match p.instr with
  | .neval o => (lanesOf (invalidLanes p)).flatMap (fun l =>
      (List.range (o.no1.toNat + 1)).map (fun j => .v (vnum 0 o.d + j) l nan32))
  | _ => []
/-- The oldest NEVAL of a wave retires: results, NERR, and the NET counter. -/
def retireNet (s : State) (wid : Nat) : State :=
  match findWave s wid with
  | none => s
  | some w => match w.nets with
    | [] => s
    | p :: r =>
      if p.left = 0 then
        deliverWrs (setWave s { w with nets := r, cntNet := w.cntNet - 1, nerr := w.nerr ||| invalidLanes p }) wid p.seq
          p.replayed (p.results ++ nanResults p)
      else s
/-- NEVAL_RETIRE (05 R171): State.who names the wave. -/
def execNevalRetire (s : State) : Host.Outcome State Fault Refusal := .next (retireNet s s.who.wave)

end Sys2Proof.Machine
end

