-- ==== Sys2Proof/Machine/BranchStack.lean ====
section
/-! DEFINITION. The branch spill area (01 R33, 03 R101 R102): the entries of a wave's spill stack below the top four lie in private
memory. They are read before a bundle that uses the stack, and written after it (notes/assumptions/14.md). -/

namespace Sys2Proof.Machine

/-- Global address of entry i of a wave's spill stack, counted from the bottom: above the private limit of its team. -/
def spillAddr (s : State) (w : Wave) (i : Nat) : DWord :=
  let t := teamOf s w
  BitVec.ofNat 64 (t.pbase + t.nl * (getCtx s t.ctx).psize.toNat + 32768 * w.num.toNat + 32 * i)
/-- Entries that do not lie on chip, and entry i from the bottom. -/
def deepCount (w : Wave) : Nat := w.stack.length - 4
def entryAt (w : Wave) (i : Nat) : StackEntry := w.stack.getD (w.stack.length - 1 - i) blankEntry
def putEntryAt (w : Wave) (i : Nat) (e : StackEntry) : Wave := { w with stack := w.stack.set (w.stack.length - 1 - i) e }

/-- An entry is read from the spill area; one whose page does not translate keeps the wave's copy. -/
def loadEntry (wid : Nat) (s : State) (i : Nat) : State :=
  match findWave s wid with
  | none => s
  | some w => match translateAt s w.core (waveCtx s w) (spillAddr s w i) .read with
    | .error _ => s
    | .ok l =>
      let r := cacheLoad s w.core (waveCtx s w) .none true l 32
      updWave r.2 wid (fun w => putEntryAt w i (entryOfBits (BitVec.ofNat 256 (leNat r.1))))
/-- The deep entries of a wave as the spill area holds them. -/
def loadDeep (s : State) (wid : Nat) : State :=
  match findWave s wid with
  | none => s
  | some w => (List.range (deepCount w)).foldl (loadEntry wid) s

/-- An entry goes to the spill area. -/
def storeEntry (wid : Nat) (s : State) (i : Nat) : State :=
  match findWave s wid with
  | none => s
  | some w => match translateAt s w.core (waveCtx s w) (spillAddr s w i) .write with
    | .error _ => s
    | .ok l => enterEvents (cacheStore s w.core (waveCtx s w) .none true l (bitsBytes (entryBits (entryAt w i)) 32)) wid w.core l
/-- The deep entries that differ from an earlier state of the wave go to the spill area. -/
def storeDeep (old : Wave) (s : State) (wid : Nat) : State :=
  match findWave s wid with
  | none => s
  | some w => ((List.range (deepCount w)).filter (fun i =>
      decide (deepCount old ≤ i) || decide (entryAt old i ≠ entryAt w i))).foldl (storeEntry wid) s

/-- An instruction that reads or changes the spill stack (01 R29 to R32). -/
def usesStack : Instr → Bool
  | .bra _ => true | .brx _ => true | .ret _ => true | .join => true | .exit => true | _ => false

end Sys2Proof.Machine
end

