-- ==== Sys2Proof/Machine/SysReg.lean ====
section
/-! DEFINITION. Special registers and the clocks: RDSR, WRSR and CLOCK (08 R250 to R253, 15 R372, 10 R307). -/

namespace Sys2Proof.Machine

/-- WSCHED of a stack (03 R105). -/
def wsched (s : State) (k : StackNum) : Word :=
  (0 : BitVec 12) ++ BitVec.ofNat 4 (refreshBank s k) ++ BitVec.ofNat 16 (refreshPhase s k)
/-- PARTSLOT (08 R252). -/
def partSlot (w : Wave) : Word := (0 : BitVec 25) ++ w.part ++ w.wslot

/-- A special register of class S (08 R251, 15 R372). -/
def readSpecial (s : State) (n : Nat) : Word :=
  let w := srcWave s
  let t := (findTeam s w.team)
  if 0x10 ≤ n ∧ n ≤ 0x1F then (match t with
    | some t => cellsRead t.kregs (n - 0x10)
    | none => 0)
  else match n with
    | 0x02 => w.allot.setWidth 32
    | 0x03 => BitVec.ofNat 32 w.stack.length
    | 0x04 => w.fpx.setWidth 32
    | 0x05 => w.quad.setWidth 32
    | 0x06 => w.nerr
    | 0x07 => w.helper
    | 0x08 => w.tsbase.setWidth 32
    | 0x09 => wsched s (coreStack w.core)
    | 0x0A => w.num.setWidth 32
    | 0x0B => w.core.setWidth 32
    | 0x0C => partSlot w
    | 0x0D => (waveCtx s w).setWidth 32
    | 0x0E => (issPath s).mask
    | 0x0F => (flagsWord w).setWidth 32
    | 0x20 => w.cntCopy.setWidth 32
    | 0x21 => w.cntMatrix.setWidth 32
    | 0x22 => w.cntNet.setWidth 32
    | 0x23 => w.cntTest.setWidth 32
    | 0x24 => wsched s (~~~(coreStack w.core))
    | 0x101 => (w.frame.getD 0).setWidth 32
    | _ => 0

/-- Numbers without a register: 0x025 to 0x0FF, and 0x102 and above in a handler; privileged ones outside a handler
(08 R250, 15 R372). -/
def faultSr (sr : BitVec 9) (s : State) : Option OpFault :=
  let n := sr.toNat
  if n < 0x25 then none
  else if n < 0x100 then some (plainFault .illegal)
  else if !inHandler (srcWave s) then some (plainFault .privilege)
  else if n < 0x102 then none
  else some (plainFault .illegal)

/-- The virtual address of the wave's current frame. -/
def frameReg (s : State) : DWord :=
  let w := srcWave s
  frameAddr (getCtx s (waveCtx s w)) (w.frame.getD 0)

def effRdsr (d sr : BitVec 9) (s : State) : State :=
  let w := srcWave s
  if sr = 0 then putVec s (issPath s).mask (vregOf d) (fun l => BitVec.ofNat 32 l)
  else if sr = 1 then putVec s (issPath s).mask (vregOf d) (fun l => (cellsRead w.tlane l).setWidth 32)
  else if sr = 0x100 then putSP s (sregOf d) (frameReg s)
  else putS s (sregOf d) (readSpecial s sr.toNat)
/-- RDSR (08 R250). -/
def execRdsr (d sr : BitVec 9) (s : State) : Host.Outcome State Fault Refusal :=
  run (.rdsr d sr) (faultSr sr s) false (effRdsr d sr) s

/-- A WRSR of FPX replaces the flags of the wave's earlier bundles, those of operations still under way too; the flags of its own
bundle are ORed in (08 R253, 04 R137). -/
def writeFpx (x : BitVec 6) (seq : Nat) (w : Wave) : Wave :=
  { w with fpx := x, pend := w.pend.map (fun p => if p.seq < seq then { p with noFpx := true } else p) }

/-- A write of a special register: RZ bits are discarded, read-only registers ignore it (00 R10 R11). -/
def writeSpecial (s : State) (n : Nat) (x : Word) : State :=
  if 0x10 ≤ n ∧ n ≤ 0x1F then
    updTeam s (srcWave s).team (writeCoef (n - 0x10) (coreClock s (srcWave s).core) (srcWave s).num x)
  else match n with
    | 0x04 => updCur s (writeFpx (x.extractLsb' 0 6 ||| s.iss.raised) (srcWave s).opSeq)
    | 0x05 => updCur s (fun w => { w with quad := x.extractLsb' 0 20 })
    | 0x06 => updCur s (fun w => { w with nerr := x })
    | 0x08 => updCur s (fun w => { w with tsbase := x.extractLsb' 2 14 ++ (0 : BitVec 2) })
    | _ => s
/-- WRSR (08 R250 R253). -/
def execWrsr (sr : BitVec 9) (a : SReg) (s : State) : Host.Outcome State Fault Refusal :=
  run (.wrsr sr a) (faultSr sr s) false (fun s => writeSpecial s sr.toNat (readS (srcWave s) a.toNat)) s

/-- The count CLOCK reads (10 R307). -/
def clockCount (cl : Bool) (s : State) : DWord :=
  let c := (srcWave s).core
  BitVec.ofNat 64 (if cl then coreClock s c else masterClock s (coreStack c))
/-- CLOCK (10 R307). -/
def execClock (cl : Bool) (d : SReg) (s : State) : Host.Outcome State Fault Refusal :=
  run (.clock cl d) none false (fun s => putSP s d (clockCount cl s)) s

end Sys2Proof.Machine
end

