-- ==== Sys2Proof/Machine/RayTests.lean ====
section
/-! DEFINITION. The box and triangle tests of 06 R192 and R193 over the bits of 06 R191, in exact arithmetic. -/

namespace Sys2Proof.Machine

def zeroVal : Val := .fin false 0 1 0
def addX (a b : Val) : Val := (addVal false a b).1
def subX (a b : Val) : Val := (addVal false a (negVal b)).1
def mulX (a b : Val) : Val := (mulVal a b).1
/-- A quotient of finite values; an exact zero is +0 (notes/assumptions/29.md). -/
def divX (a b : Val) : Val := match divVal a b with
  | some (.fin n x d e) => .fin (n && decide (x ≠ 0)) x d e
  | some v => v
  | none => .nan
def ltX (a b : Val) : Bool := decide (cmpVal a b < 0)
def maxX (a b : Val) : Val := if ltX a b then b else a
def minX (a b : Val) : Val := if ltX b a then b else a
def finiteX (v : Val) : Bool := !isNaN v && !isInf v
/-- A value rounded to FP32 and read back. -/
def roundX (m : Round) (v : Val) : Val := f32 (toF32 m v).1

/-- The ray: ox, oy, oz, dx, dy, dz, tmin, tmax (11 R325). -/
structure Ray where
  o : List Val
  d : List Val
  tmin : Val
  tmax : Val
deriving DecidableEq, Repr

def rayOf (ws : List Word) : Ray :=
  { o := (ws.take 3).map f32, d := ((ws.drop 3).take 3).map f32, tmin := f32 (ws.getD 6 0), tmax := f32 (ws.getD 7 0) }
def axis (l : List Val) (a : Nat) : Val := l.getD a zeroVal

/-! ### Nodes (06 R191) -/

abbrev BvhNode := BitVec 1024
def nodeChild (n : BvhNode) (i : Nat) : Word := n.extractLsb' (32 * i + 704) 32
def childType (c : Word) : Nat := (c.extractLsb' 30 2).toNat
def nodeExp (n : BvhNode) (a : Nat) : Nat := (n.extractLsb' (96 + 8 * a) 8).toNat
def nodeOrigin (n : BvhNode) (a : Nat) : Val := f32 (n.extractLsb' (32 * a) 32)
/-- QL or QH of a child on an axis. -/
def nodeBound (n : BvhNode) (i a : Nat) (high : Bool) : Nat :=
  (n.extractLsb' (72 * i + 128 + 12 * a + if high then 36 else 0) 12).toNat

/-- A malformed node (06 R190). -/
def nodeMalformed (n : BvhNode) : Bool :=
  (List.range 8).any (fun i => decide (childType (nodeChild n i) = 3)) ||
  (List.range 3).any (fun a => decide (nodeExp n a = 0xFF) || !finiteX (nodeOrigin n a)) ||
  decide (n.extractLsb' 960 64 ≠ 0) || decide (n.extractLsb' 120 8 ≠ 0)

/-- One axis of a child's box: none where it rules the child out, else t0 and t1 (06 R192). -/
def slab (r : Ray) (n : BvhNode) (i a : Nat) : Option (Val × Val) :=
  let s := pow2Val ((nodeExp n a : Int) - 127)
  let ql := nodeBound n i a false
  let qh := nodeBound n i a true
  let lo := addX (nodeOrigin n a) (mulX (intVal ql) s)
  let hi := addX (nodeOrigin n a) (mulX (intVal (qh + 1)) s)
  let o := axis r.o a
  let d := axis r.d a
  if qh < ql then none
  else if isZero d then (if ltX o lo || ltX hi o then none else some (.inf true, .inf false))
  else
    let ta := divX (subX lo o) d
    let tb := divX (subX hi o) d
    some (roundX .down (minX ta tb), roundX .up (maxX ta tb))

/-- tn of a child that is hit, none of one that is missed. -/
def childHit (r : Ray) (n : BvhNode) (i : Nat) : Option Val :=
  if childType (nodeChild n i) = 0 then none
  else match slab r n i 0, slab r n i 1, slab r n i 2 with
    | some x, some y, some z =>
      let tn := maxX (maxX (maxX r.tmin x.1) y.1) z.1
      let tf := minX (minX (minX r.tmax x.2) y.2) z.2
      if ltX tf tn then none else some tn
    | _, _, _ => none

/-- Inserts a hit by ascending tn, ties by ascending child. -/
def insertHit (x : Val × Nat) : List (Val × Nat) → List (Val × Nat)
  | [] => [x]
  | y :: r => if ltX x.1 y.1 then x :: y :: r else y :: insertHit x r

/-- A ray that hits nothing: a component of o or d that is not finite, or a NaN bound. -/
def rayBad (r : Ray) : Bool := !(r.o.all finiteX && r.d.all finiteX) || isNaN r.tmin || isNaN r.tmax
/-- The hit children near to far. -/
def boxHits (r : Ray) (n : BvhNode) : List (Val × Nat) :=
  if rayBad r then []
  else (List.range 8).foldl (fun acc i => match childHit r n i with
    | some t => insertHit (t, i) acc
    | none => acc) []

/-- MALF, MASK and the order word (06 R192, 11 R326). -/
structure BoxResult where
  malf : Bool
  mask : BitVec 8
  order : Word
deriving DecidableEq, Repr

def orderWord (l : List Nat) : Word := BitVec.ofNat 32 (l.foldr (fun c acc => c + 16 * acc) 0)
def boxMiss (malf : Bool) : BoxResult := { malf := malf, mask := 0, order := 0x76543210 }
def boxTest (r : Ray) (n : BvhNode) : BoxResult :=
  if nodeMalformed n then boxMiss true
  else
    let hs := (boxHits r n).map (fun x => x.2)
    { malf := false, mask := BitVec.ofNat 8 ((hs.map (fun i => 2 ^ i)).sum),
      order := orderWord (hs ++ (List.range 8).filter (fun i => !hs.contains i)) }

/-! ### Triangles (06 R191 R193) -/

abbrev BvhTri := BitVec 512
def triVertex (t : BvhTri) (n c : Nat) : Val := f32 (t.extractLsb' (96 * n + 32 * c) 32)
def triId (t : BvhTri) : Word := t.extractLsb' 288 32
def triMalformed (t : BvhTri) : Bool := decide (t.extractLsb' 320 192 ≠ 0)

/-- A hit: its exact distance, T, U and V as FP32, and whether it is front-facing. -/
structure TriHit where
  t : Val
  tw : Word
  u : Word
  v : Word
  front : Bool
deriving DecidableEq, Repr

/-- The axis of the largest |d|, ties to the lower axis. -/
def mainAxis (d : List Val) : Nat :=
  let m := fun a => absVal (axis d a)
  if ltX (m 0) (m 1) then (if ltX (m 1) (m 2) then 2 else 1) else if ltX (m 0) (m 2) then 2 else 0

/-- A transformed vertex: px, py, pz, and whether every rounded value was finite. -/
def transformVertex (r : Ray) (t : BvhTri) (kx ky kz : Nat) (sx sy sz : Val) (n : Nat) : (Val × Val × Val) × Bool :=
  let p := fun a => roundX .ne (subX (triVertex t n a) (axis r.o a))
  let x := roundX .ne (subX (p kx) (mulX sx (p kz)))
  let y := roundX .ne (subX (p ky) (mulX sy (p kz)))
  let z := roundX .ne (mulX sz (p kz))
  ((x, y, z), [p 0, p 1, p 2, x, y, z].all finiteX)

def cross (ax ay bx by' : Val) : Val := subX (mulX ax by') (mulX ay bx)
def negX (v : Val) : Bool := ltX v zeroVal
def posX (v : Val) : Bool := ltX zeroVal v

/-- The test from the transformed vertices. -/
def edgeTest (r : Ray) (p0 p1 p2 : Val × Val × Val) : Option TriHit :=
  let u := cross p2.1 p2.2.1 p1.1 p1.2.1
  let v := cross p0.1 p0.2.1 p2.1 p2.2.1
  let w := cross p1.1 p1.2.1 p0.1 p0.2.1
  let det := addX (addX u v) w
  if ([u, v, w].any negX && [u, v, w].any posX) || isZero det then none
  else
    let t := divX (addX (addX (mulX u p0.2.2) (mulX v p1.2.2)) (mulX w p2.2.2)) det
    let tw := (toF32 .ne t).1
    let uo := (toF32 .ne (divX v det)).1
    let vo := (toF32 .ne (divX w det)).1
    if ltX t r.tmin || ltX r.tmax t || !([f32 tw, f32 uo, f32 vo].all finiteX) then none
    else some { t := t, tw := tw, u := uo, v := vo, front := posX det }

/-- TRV.TRI of one lane: none on a miss (06 R193). -/
def triTest (r : Ray) (t : BvhTri) : Option TriHit :=
  let vs := (List.range 9).map (fun k => triVertex t (k / 3) (k % 3))
  if triMalformed t || rayBad r || !vs.all finiteX || r.d.all isZero then none
  else
    let kz := mainAxis r.d
    let kx := (kz + 1) % 3
    let ky := (kx + 1) % 3
    let flip := ltX (axis r.d kz) zeroVal
    let ax := if flip then ky else kx
    let ay := if flip then kx else ky
    let dz := axis r.d kz
    let sx := roundX .ne (divX (axis r.d ax) dz)
    let sy := roundX .ne (divX (axis r.d ay) dz)
    let sz := roundX .ne (divX (pow2Val 0) dz)
    let q := transformVertex r t ax ay kz sx sy sz
    if [sx, sy, sz].all finiteX && (q 0).2 && (q 1).2 && (q 2).2 then edgeTest r (q 0).1 (q 1).1 (q 2).1 else none

end Sys2Proof.Machine
end

