-- ==== Sys2Proof/Machine/Traversal.lean ====
section
/-! DEFINITION. TRV.BOX and TRV.TRI through the TEST class, and the traversal stacks of TRV.PUSH and TRV.POP (06 R192 to
R195, 11 R325 to R328). -/

namespace Sys2Proof.Machine

/-! ### Tests (11 R325 R326) -/

/-- Bytes a test reads, which its address is a multiple of; 0 for an instruction that is no test. -/
def testBytes : Instr → Nat
  | .trvBox _ => 128 | .trvTri _ => 64 | _ => 0

/-- The precise faults of a test in any lane of L, then the counter (11 R325, 03 R122). -/
def testFault (w : Wave) (p : PendOp) : Option OpFault :=
  let a := fun l => opPair p .b l
  let ls := lanesOf p.lanes
  orFault (laneFault .misaligned a (fun l => decide ((a l).toNat % testBytes p.instr ≠ 0)) ls)
    (orFault ((laneFault .translation a (fun l => decide ((a l).extractLsb' 52 12 ≠ 0)) ls).map (fun f => { f with fkind := 3 }))
      (whenFault (decide (w.cntTest = 255)) .engineCounter))
def faultTest (i : Instr) (s : State) : Option OpFault := testFault (srcWave s) (issueOp s i)

/-- A test issues: its counter rises (03 R122). -/
def effTest (i : Instr) (s : State) : State :=
  let p := issueOp s i
  updCur s (fun w => { w with tests := w.tests ++ [p], opSeq := w.opSeq + 1, cntTest := w.cntTest + 1 })
def runTest (i : Instr) (s : State) : Host.Outcome State Fault Refusal :=
  run i (faultTest i s) false (drainThen (effTest i)) s
/-- TRV.BOX (11 R325). -/
def execTrvBox (o : Trv) (s : State) : Host.Outcome State Fault Refusal := runTest (.trvBox o) s
/-- TRV.TRI (11 R325). -/
def execTrvTri (o : Trv) (s : State) : Host.Outcome State Fault Refusal := runTest (.trvTri o) s

/-- The data of one lane through the core's column cache, or its fault (06 R195, 11 R327). -/
def testRead (s : State) (w : Wave) (l : Nat) (a : DWord) (n : Nat) : Except OpFault (Nat × State) :=
  match translateAt s w.core (waveCtx s w) a .read with
  | .error k => .error { cause := .translation, fkind := k, lane := BitVec.ofNat 5 l, addr := a }
  | .ok x =>
    if loadPoisoned s w.core x n then .error { cause := .softError, fkind := 0, lane := BitVec.ofNat 5 l, addr := a }
    else let r := cacheLoad s w.core (waveCtx s w) .none false x n
      .ok (leNat r.1, r.2)

/-- Results of one lane; a helper lane misses without a read (06 R199). -/
def boxWrs (d : Nat) (pd : PReg) (l : Nat) (r : BoxResult) : List Wr :=
  [.v d l ((0 : BitVec 23) ++ bit r.malf ++ r.mask), .v (d + 1) l r.order, .p pd.toNat l (decide (r.mask ≠ 0))]
def triWrs (d : Nat) (pd : PReg) (l : Nat) (malf : Bool) (id : Word) (h : Option TriHit) : List Wr :=
  match h with
  | some h => [.v d l h.tw, .v (d + 1) l h.u, .v (d + 2) l h.v, .v (d + 3) l id,
      .v (d + 4) l (if h.front then 3 else 1), .p pd.toNat l true]
  | none => [.v d l inf32, .v (d + 1) l 0, .v (d + 2) l 0, .v (d + 3) l 0, .v (d + 4) l (if malf then 4 else 0),
      .p pd.toNat l false]
def testWrs (i : Instr) (ray : Ray) (l : Nat) (data : Option Nat) : List Wr :=
  match i with
  | .trvBox o => boxWrs (vnum 0 o.d) o.pd l (match data with
    | some x => boxTest ray (BitVec.ofNat 1024 x)
    | none => boxMiss false)
  | .trvTri o => (match data with
    | some x => triWrs (vnum 0 o.d) o.pd l (triMalformed (BitVec.ofNat 512 x)) (triId (BitVec.ofNat 512 x))
        (triTest ray (BitVec.ofNat 512 x))
    | none => triWrs (vnum 0 o.d) o.pd l false 0 none)
  | _ => []

/-- The lanes of a test in ascending order: all results, or the first lane's fault. -/
def testLanes (w : Wave) (p : PendOp) (s : State) : List Nat → Except OpFault (List Wr × State)
  | [] => .ok ([], s)
  | l :: r =>
    let ray := rayOf ((List.range 8).map (fun k => opWord p .a k l))
    let one : Except OpFault (List Wr × State) := if inMask p.helper l then .ok (testWrs p.instr ray l none, s)
      else match testRead s w l (opPair p .b l) (testBytes p.instr) with
        | .error f => .error f
        | .ok x => .ok (testWrs p.instr ray l (some x.1), x.2)
    match one with
    | .error f => .error f
    | .ok x => match testLanes w p x.2 r with
      | .error f => .error f
      | .ok y => .ok (x.1 ++ y.1, y.2)

/-- The oldest test of a wave retires: results, or the fault at the wave's next bundle boundary with the operation in the
replay queue (11 R327, 15 R374). -/
def retireTest (s : State) (wid : Nat) : State :=
  match findWave s wid with
  | none => s
  | some w => match w.tests with
    | [] => s
    | p :: r =>
      let drop := fun (w : Wave) => { w with tests := r, cntTest := w.cntTest - 1 }
      match testLanes w p s (lanesOf p.lanes) with
      | .ok x => deliverWrs (updWave x.2 wid drop) wid p.seq p.replayed x.1
      | .error f =>
        let i := opTrap p f .boundary 0 p.pc
        if w.status = .exited then exitedFault (setWave s (drop w)) w i
        else setWave s (raiseBoundary { drop w with pend := w.pend ++ [{ p with fault := some f }] } p.seq i)
/-- TEST_RETIRE (11 R327): State.who names the wave. -/
def execTestRetire (s : State) : Host.Outcome State Fault Refusal := .next (retireTest s s.who.wave)

/-! ### Traversal stacks (06 R194, 11 R328) -/

/-- On-chip place of entry i of lane l. -/
def trvKey (i l : Nat) : Nat := 32 * (i % 16) + l
def trvDepth (w : Wave) (l : Nat) : Nat := (cellsRead w.tdepth l).toNat
/-- Private address of entry i. -/
def trvAddr (w : Wave) (i : Nat) : Nat := w.tsbase.toNat + 4 * i

/-- A push of a lane is past PSIZE, or past the greatest depth of 16,400. -/
def pushBad (s : State) (w : Wave) (l : Nat) : Bool :=
  let d := trvDepth w l
  decide (16400 ≤ d) || (decide (16 ≤ d) && decide ((getCtx s (waveCtx s w)).psize.toNat < trvAddr w (d - 16) + 4))
def pushFault (s : State) (w : Wave) (m : Mask) : Option OpFault :=
  laneFault .privateBounds (fun l => BitVec.ofNat 64 (trvAddr w (trvDepth w l - 16))) (pushBad s w) (lanesOf m)
def faultPush (pr : Pred) (s : State) : Option OpFault := pushFault s (srcWave s) (laneSet s pr)

/-- Lanes whose next push spills, and whose next pop fills. -/
def spillLanes (w : Wave) (m : Mask) : List Nat := (lanesOf m).filter (fun l => decide (16 ≤ trvDepth w l))
def fillLanes (w : Wave) (m : Mask) : List Nat := (lanesOf m).filter (fun l => decide (16 < trvDepth w l))

/-- The place of a private word of a lane, or its fault. -/
def privLoc (s : State) (w : Wave) (l a : Nat) (acc : Access) : Except OpFault Loc :=
  match translateAt s w.core (waveCtx s w) (privAddr (teamOf s w) (cellsRead w.tlane l).toNat a) acc with
  | .ok x => .ok x
  | .error k => .error { cause := .translation, fkind := k, lane := BitVec.ofNat 5 l, addr := BitVec.ofNat 64 a }
/-- Every spilled word translates before any is written. -/
def spillFault (s : State) (w : Wave) : List Nat → Option OpFault
  | [] => none
  | l :: r => match privLoc s w l (trvAddr w (trvDepth w l - 16)) .write with
    | .error f => some f
    | .ok _ => spillFault s w r
/-- Entries below the top 16 go to private memory. -/
def spillStacks (w : Wave) (s : State) : List Nat → State
  | [] => s
  | l :: r =>
    let i := trvDepth w l - 16
    let s := match privLoc s w l (trvAddr w i) .write with
      | .ok x => enterEvents (cacheStore s w.core (waveCtx s w) .none true x (leBytes (cellsRead w.tstk (trvKey i l)).toNat 4))
          w.id w.core x
      | .error _ => s
    spillStacks w s r
/-- A push in the lanes of a list. -/
def pushLanes (f : Nat → Word) : List Nat → Wave → Wave
  | [], w => w
  | l :: r, w =>
    let d := trvDepth w l
    pushLanes f r { w with tstk := cellsWrite w.tstk (trvKey d l) (f l), tdepth := cellsWrite w.tdepth l (BitVec.ofNat 16 (d + 1)) }
/-- The push of an operation: a spill that does not translate is a fault without a flag, with nothing pushed
(15 R363). -/
def pushOp (p : PendOp) (s : State) : State :=
  let w := curWave s
  let ls := spillLanes w p.lanes
  match spillFault s w ls with
  | some f => updCur s (fun w => { w with pend := w.pend ++ [{ p with fault := some f }], opSeq := w.opSeq + 1,
                                          bfaults := w.bfaults ++ [opTrap p f .boundary 0 p.pc] })
  | none => updCur (spillStacks w s ls) (pushLanes (fun l => opWord p .a 0 l) (lanesOf p.lanes))
/-- Moving entries is a private access in the wave's order (11 R328): earlier accesses are drained first. -/
def effPush (pr : Pred) (a : VReg) (s : State) : State :=
  let p := issueOp s (.trvPush pr a)
  if (spillLanes (curWave s) p.lanes).isEmpty then pushOp p s else drainThen (pushOp p) s
/-- TRV.PUSH (11 R328). -/
def execTrvPush (pr : Pred) (a : VReg) (s : State) : Host.Outcome State Fault Refusal :=
  run (.trvPush pr a) (faultPush pr s) false (effPush pr a) s

/-- The filled words of the lanes of a list, or the first fault. -/
def fillWords (s : State) (w : Wave) : List Nat → Except OpFault (List (Nat × Word) × State)
  | [] => .ok ([], s)
  | l :: r =>
    match privLoc s w l (trvAddr w (trvDepth w l - 17)) .read with
    | .error f => .error f
    | .ok x =>
      if loadPoisoned s w.core x 4 then
        .error { cause := .softError, fkind := 0, lane := BitVec.ofNat 5 l, addr := BitVec.ofNat 64 (trvAddr w (trvDepth w l - 17)) }
      else
        let q := cacheLoad s w.core (waveCtx s w) .none true x 4
        match fillWords q.2 w r with
        | .error f => .error f
        | .ok y => .ok ((l, wordAt q.1 0) :: y.1, y.2)
/-- Pops the lanes of a list; a filled word takes the place of the popped entry. -/
def popLanes (fills : List (Nat × Word)) : List Nat → Wave → Wave
  | [], w => w
  | l :: r, w =>
    let d := trvDepth w l
    let w := if d = 0 then w
      else { w with tdepth := cellsWrite w.tdepth l (BitVec.ofNat 16 (d - 1)),
                    tstk := match fills.find? (fun e => decide (e.1 = l)) with
                      | some e => cellsWrite w.tstk (trvKey (d - 1) l) e.2
                      | none => cellsWrite w.tstk (trvKey (d - 1) l) 0 }
    popLanes fills r w
/-- What a pop delivers: an empty stack sets the predicate to 0 and keeps the register (06 R194). -/
def popWrs (w : Wave) (d : VReg) (pd : PReg) : List Nat → List Wr
  | [] => []
  | l :: r =>
    let n := trvDepth w l
    (if n = 0 then [.p pd.toNat l false] else [.v (vnum 0 d) l (cellsRead w.tstk (trvKey (n - 1) l)), .p pd.toNat l true]) ++
      popWrs w d pd r
/-- The private address of the entry each lane pops, as a replay entry holds it (15 R370). -/
def popVals (w : Wave) (m : Mask) : List (List Word) :=
  allLanes.map (fun l => if inMask m l then [BitVec.ofNat 32 (if trvDepth w l = 0 then 0 else trvAddr w (trvDepth w l - 1))] else [])

/-- The pop of an operation moves the stacks at once and fixes its results; a faulted fill pops nothing
(notes/assumptions/30.md). -/
def popOp (pr : Pred) (d : VReg) (pd : PReg) (p : PendOp) (s : State) : State :=
  let w := curWave s
  let p := { p with vals := popVals w p.lanes }
  match fillWords s w (fillLanes w p.lanes) with
  | .error f => issuePend s { p with instr := .trvPop pr d pd, fault := some f }
  | .ok x =>
    let s := updCur x.2 (popLanes x.1 (lanesOf p.lanes))
    issuePend s (donePend { p with instr := .trvPop pr d pd } (popWrs w d pd (lanesOf p.lanes)))
def effPop (pr : Pred) (d : VReg) (pd : PReg) (s : State) : State :=
  let p := issueOp s (.trvPop pr d pd)
  let d' := resolveV (srcWave s).ix.toNat d
  if (fillLanes (curWave s) p.lanes).isEmpty then popOp pr d' pd p s else drainThen (popOp pr d' pd p) s
/-- TRV.POP (11 R328). -/
def execTrvPop (pr : Pred) (d : VReg) (pd : PReg) (s : State) : Host.Outcome State Fault Refusal :=
  run (.trvPop pr d pd) none false (effPop pr d pd) s

end Sys2Proof.Machine
end

