-- ==== Sys2Proof/Machine/Handler.lean ====
section
/-! DEFINITION. The handler's instructions RPLAY, TRAPRET, SAVEW, RESTW and HALTW (10 R302 to R306, 15 R371 R373) and the
re-issue of replay-queue entries. -/

namespace Sys2Proof.Machine

/-- Bytes of the issuing wave's frame, read through its column cache; none where a page does not translate. -/
def readFrame (s : State) : Option (List Byte × State) :=
  let w := curWave s
  vReadLong s w.core (waveCtx s w) (frameReg s) 40 frameSize
/-- The fault of a frame or image that does not translate. -/
def frameFault (a : DWord) : OpFault := { cause := .translation, fkind := 0, lane := 0, addr := a }

/-! ### Fields of a frame (15 R367) -/

def frNent (bs : List Byte) : Nat := ((dwordAt bs 0).extractLsb' 52 6).toNat
def frFaulted (bs : List Byte) : Word := wordAt bs 112
def frReplayed (bs : List Byte) : Word := wordAt bs 116
def frResume (bs : List Byte) : DWord := dwordAt bs 24

/-- An instruction that can be a replay entry: a flagged-result operation, a store, a test or a push (15 R366 R374). -/
def replayable : Instr → Bool
  | .trvBox _ => true | .trvTri _ => true | .trvPush _ _ => true | i => flagged i || isStore i
/-- Entry e decodes to an operation that a queue can hold; an edited ENC that holds any other instruction is illegal
(notes/assumptions/18.md). -/
def frEntry (bs : List Byte) (e : Nat) : Option PendOp :=
  (opOfEntry bs 0 e).filter (fun p => wellFormed p.raw && replayable p.raw)

/-! ### Re-issuing an entry (15 R371, 10 R303) -/

/-- The operation of an entry as it issues again, with the mask, format, ix and private lanes of the operation that made it
(notes/assumptions/13.md). -/
def entryOp (w : Wave) (e : Nat) (p : PendOp) : PendOp :=
  let o := w.replayOps[e]?
  let ix := (o.map (fun q => q.ix)).getD 0
  { p with seq := w.opSeq, mask := (o.map (fun q => q.mask)).getD p.lanes, fmt := (o.map (fun q => q.fmt)).getD 0x2000,
           ix := ix, instr := resolve ix.toNat p.raw, tlane := (o.map (fun q => q.tlane)).getD w.tlane,
           helper := (o.map (fun q => q.helper)).getD w.helper, fault := none, noFpx := (o.map (fun q => q.noFpx)).getD false,
           replayed := true }

/-- The conditions at issue of a replayed operation: its registers, and its access with the operands as they stand (10 R303,
07 R213, 09 R254, 10 R295, 11 R328). -/
def entryFault (s : State) (w : Wave) (q : PendOp) : Option OpFault :=
  let us := uses 0 q.instr
  if us.any useMisaligned then some (plainFault .illegal)
  else if us.any (useOutside w.allot.toNat) then some (plainFault .regBounds)
  else match q.instr with
    | .recld o => recldFault s w q o
    | .trvPush _ _ => pushFault s w q.lanes
    | .trvBox _ => testFault w q
    | .trvTri _ => testFault w q
    | .texG _ => texFault q
    | .texL _ => texFault q
    | i => match memInfo i with
      | some m => accessFault s w q m
      | none => none

/-- Lanes of a replayed TRV.POP whose address the handler has changed read the word it names; the others take the entry
that the pop had taken (notes/assumptions/30.md). -/
def popReplayWrs (s : State) (w : Wave) (d : VReg) (pd : PReg) (o p : PendOp) : List Nat → Except OpFault (List Wr)
  | [] => .ok []
  | l :: r =>
    let kept := fun x => match x with
      | Wr.v _ k _ => decide (k = l)
      | Wr.p _ k _ => decide (k = l)
      | _ => false
    let a := (p.vals.getD l []).getD 0 0
    let one : Except OpFault (List Wr) :=
      if (o.vals.getD l []).getD 0 0 = a then .ok (o.results.filter kept)
      else match privLoc s w l a.toNat .read with
        | .error f => .error f
        | .ok x => .ok [.v (vnum 0 d) l (wordAt (cacheLoad s w.core (waveCtx s w) .none true x 4).1 0), .p pd.toNat l true]
    match one with
    | .error f => .error f
    | .ok x => (popReplayWrs s w d pd o p r).map (fun y => x ++ y)

/-- A replayed TRV.POP: one whose fill had faulted pops now. -/
def replayPop (s : State) (d : VReg) (pd : PReg) (o p : PendOp) : State :=
  let w := curWave s
  if o.fault.isSome then
    match fillWords s w (fillLanes w p.lanes) with
    | .error f => updCur s (fun w => setFlags { w with pend := w.pend ++ [{ p with fault := some f }], opSeq := w.opSeq + 1 }
        flagPending p.flags)
    | .ok x =>
      let q := donePend { p with vals := popVals w p.lanes } (popWrs w d pd (lanesOf p.lanes))
      issuePend (updCur x.2 (popLanes x.1 (lanesOf p.lanes))) q
  else match popReplayWrs s w d pd o p (lanesOf p.lanes) with
    | .error f => issuePend s { p with fault := some f }
    | .ok rs => issuePend s (donePend p rs)

/-- One entry issues again: a store enters the store queue, a test its class, any other operation waits to be
performed. -/
def reissue (s : State) (e : Nat) (p : PendOp) : State :=
  let w := curWave s
  let q := entryOp w e p
  match q.instr with
  | .trvPop _ d pd => replayPop s d pd ((w.replayOps[e]?).getD q) q
  | .trvPush _ _ => pushOp q s
  | .trvBox _ => updCur s (fun w => { w with tests := w.tests ++ [q], opSeq := w.opSeq + 1, cntTest := w.cntTest + 1 })
  | .trvTri _ => updCur s (fun w => { w with tests := w.tests ++ [q], opSeq := w.opSeq + 1, cntTest := w.cntTest + 1 })
  | i => if isStore i then updCur s (fun w => { w with sq := w.sq ++ [q], opSeq := w.opSeq + 1 }) else issuePend s q

/-! ### RPLAY (10 R303) -/

def rplayIndex (a : SReg) (s : State) : Nat := (readS (srcWave s) a.toNat).toNat % 32
/-- An entry that does not exist, was replayed, no longer decodes, or fails the conditions of its instruction at issue; or a frame
that cannot be read: all are nested traps (10 R302 R303). -/
def faultRplay (a : SReg) (s : State) : Option OpFault :=
  orFault (privileged s) (match readFrame s with
    | none => some (frameFault (frameReg s))
    | some r =>
      let e := rplayIndex a s
      if frNent r.1 ≤ e ∨ inMask (frReplayed r.1) e = true then some (plainFault .illegal)
      else match frEntry r.1 e with
        | none => some (plainFault .illegal)
        | some p => entryFault s (curWave s) (entryOp (curWave s) e p))
/-- RPLAY has issued entry e. -/
def markReplayed (e : Nat) (w : Wave) : Wave :=
  { w with replayOps := match w.replayOps[e]? with
    | some o => w.replayOps.set e { o with replayed := true }
    | none => w.replayOps }
def effRplay (a : SReg) (s : State) : State :=
  match readFrame s with
  | none => s
  | some r => match frEntry r.1 (rplayIndex a s) with
    | none => r.2
    | some p =>
      let e := rplayIndex a s
      let s := frameStore r.2 (curWave r.2) 116 (leBytes (setBit (frReplayed r.1) e true).toNat 4)
      updCur (reissue s e p) (markReplayed e)

/-- How an instruction that reads the frame runs: the handler's stores drain first, and the frame is judged as it then stands
(15 R371). -/
def runOnFrame (i : Instr) (bad : State → Option OpFault) (eff : State → State) (s : State) : Host.Outcome State Fault Refusal :=
  match firstFault i s (privileged s) with
  | some f => finish (takeTrap s f)
  | none =>
    let d := drainCur s
    if drainedCur d then run i (bad d) false eff d else .next (holdSlot d)
/-- RPLAY (10 R303). -/
def execRplay (a : SReg) (s : State) : Host.Outcome State Fault Refusal := runOnFrame (.rplay a) (faultRplay a) (effRplay a) s

/-! ### TRAPRET (10 R304, 15 R371) -/

/-- Entries that are neither replayed nor marked faulted, in queue order. -/
def openEntries (bs : List Byte) : List Nat :=
  (List.range (frNent bs)).filter (fun e => !inMask (frReplayed bs) e && !inMask (frFaulted bs) e)
/-- Entries marked faulted and not replayed. -/
def faultedEntries (bs : List Byte) : List Nat :=
  (List.range (frNent bs)).filter (fun e => !inMask (frReplayed bs) e && inMask (frFaulted bs) e)
/-- The flags the replay queue names, by entry. -/
def entryFlags (bs : List Byte) (es : List Nat) : List (BitVec 4) :=
  es.flatMap (fun e => match frEntry bs e with
    | some p => p.flags
    | none => [])

/-- The boundary trap that a frame shows is that of an operation. -/
def frShows (bs : List Byte) (p : PendOp) : Bool :=
  decide ((dwordAt bs 0).extractLsb' 41 2 = delivCode .boundary) && decide ((dwordAt bs 16).extractLsb' 0 52 = p.pc) &&
    decide ((dwordAt bs 0).extractLsb' 39 2 = p.slotn)
/-- A faulted entry that stays: its flag is FAULTED and a bundle that waits on it raises its fault again. An entry the
handler marked, with no fault of its own, has cause 0x10 (notes/assumptions/31.md). An entry without a flag whose fault no frame
has shown raises it at the next boundary (notes/assumptions/56.md). -/
def keepFaulted (bs : List Byte) (w : Wave) (e : Nat) : Wave :=
  match frEntry bs e with
  | none => w
  | some p =>
    let q := entryOp w e p
    let own := (w.replayOps[e]?).bind (fun o => o.fault)
    if p.flags.isEmpty then
      (match own with
        | some f => if frShows bs p then w else { w with
            pend := w.pend ++ [{ q with fault := some f, replayed := false }], opSeq := w.opSeq + 1,
            laterFaults := w.laterFaults ++ [opTrap q f .boundary 0 q.pc] }
        | none => w)
    else
      let f := own.getD
        { cause := .translation, fkind := 0, lane := BitVec.ofNat 5 ((lanesOf p.lanes).headD 0), addr := 0 }
      setFlags { w with pend := w.pend ++ [{ q with fault := some f, replayed := false }], opSeq := w.opSeq + 1 } flagFaulted q.flags

/-- Flags that no entry names are CLEAR (15 R371). -/
def clearOtherFlags (named : List (BitVec 4)) (w : Wave) : Wave :=
  (List.range 12).foldl (fun w f => if named.contains (BitVec.ofNat 4 f) then w else setFlag w (BitVec.ofNat 4 f) flagClear) w

/-- The wave as the frame restores it. -/
def leaveHandler (s : State) (bs : List Byte) (w : Wave) : Wave :=
  let w := restorePaths s bs (restoreRegs bs w)
  { w with status := .running, frame := none, replayOps := [], trapSeq := 0, growA := 0, growB := 0,
           bfaults := w.bfaults ++ w.laterFaults, laterFaults := [] }

/-- The frame as TRAPRET reads it, with the effect of a .dev acquire. -/
def acquireFrame (s : State) : Option (List Byte × State) := readFrame (invalidate s (curWave s).core)
/-- The first condition at issue that an entry of a list fails. -/
def entriesFault (s : State) (bs : List Byte) : List Nat → Option OpFault
  | [] => none
  | e :: r => match frEntry bs e with
    | none => some (plainFault .illegal)
    | some p => orFault (entryFault s (curWave s) (entryOp (curWave s) e p)) (entriesFault s bs r)
def faultTrapret (s : State) : Option OpFault :=
  orFault (privileged s) (match acquireFrame s with
    | none => some (frameFault (frameReg s))
    | some r =>
      orFault (entriesFault s r.1 (openEntries r.1))
        (whenFault (decide ((frResume r.1).extractLsb' 0 5 ≠ 0)) .misTarget))
def effTrapret (s : State) : State :=
  let w := curWave s
  match acquireFrame s with
  | none => s
  | some (bs, s) =>
    let named := entryFlags bs (List.range (frNent bs))
    let s := (openEntries bs).foldl (fun acc e => match frEntry bs e with
      | some p => reissue acc e p
      | none => acc) s
    let s := updCur s (fun w => clearOtherFlags named ((faultedEntries bs).foldl (keepFaulted bs) w))
    updCur (freeFrame s (waveCtx s w) w.frame) (leaveHandler s bs)
/-- TRAPRET (10 R304): the handler's stores drain first. -/
def execTrapret (s : State) : Host.Outcome State Fault Refusal := runOnFrame .trapret faultTrapret effTrapret s

/-! ### SAVEW and RESTW (10 R305, 15 R373) -/

def imageAddr (a : SReg) (s : State) : DWord := readSP (srcWave s) a.toNat
/-- A slice of bytes. -/
def slice (bs : List Byte) (o n : Nat) : List Byte := (bs.drop o).take n

/-- The full image of the trapped wave: what the frame holds is taken from it, the rest from the wave. -/
def savedImage (t : Team) (w : Wave) (fr : List Byte) : List Byte :=
  let i : TrapInfo := { cause := .illegal, code := 0, deliv := .issue, slot := 3, fkind := 0, flane := 0, faddr := 0, tpc := 0,
                        resume := 0, iter := 0, res := 0 }
  let im := imageBytes t w i [] true w.allot.toNat
  slice fr 0 144 ++ slice im 144 112 ++ slice fr 0x100 0x180 ++ slice im 0x280 0x80 ++ slice fr 0x300 0x20 ++
    slice im 0x320 (0xC00 - 0x320) ++ slice fr 0xC00 (0x11600 - 0xC00) ++ im.drop 0x11600

/-- Pages of a range all translate for an access: the fault is that of the first byte of the range in the first page that does not. -/
def rangeFault (s : State) (core : CoreNum) (c : CtxNum) (a : DWord) (n : Nat) (acc : Access) : Option OpFault :=
  let first := fun (k : Nat) => max a.toNat (a.toNat / 4096 * 4096 + 4096 * k)
  let bad := (List.range (n / 4096 + 2)).find? (fun k =>
    decide (first k < a.toNat + n) && (match translateAt s core c (BitVec.ofNat 64 (first k)) acc with
      | .error _ => true
      | .ok _ => false))
  bad.map (fun k => match translateAt s core c (BitVec.ofNat 64 (first k)) acc with
    | .error f => { cause := .translation, fkind := f, lane := 0, addr := BitVec.ofNat 64 (first k) }
    | .ok _ => plainFault .translation)

def faultSavew (a : SReg) (s : State) : Option OpFault :=
  let w := srcWave s
  let x := imageAddr a s
  orFault (privileged s)
    (orFault (if x.toNat % 256 ≠ 0 then some { plainFault .misaligned with addr := x } else none)
      (orFault (rangeFault s w.core (waveCtx s w) x (imageSize w.allot.toNat) .write)
        (match readFrame s with
          | none => some (frameFault (frameReg s))
          | some _ => none)))
def effSavew (a : SReg) (s : State) : State :=
  match readFrame s with
  | none => s
  | some (fr, s) =>
    let w := curWave s
    match vWriteLong s w.id w.core (waveCtx s w) (imageAddr a s) 60 (savedImage (teamOf s w) w fr) with
    | none => s
    | some s => eagerClean s w.core
/-- SAVEW (10 R305). -/
def execSavew (a : SReg) (s : State) : Host.Outcome State Fault Refusal := runOnFrame (.savew a) (faultSavew a) (effSavew a) s

/-- The image at an address as an acquire reads it: its header gives its allotment. -/
def readImage (a : SReg) (s : State) : Option (List Byte × State) :=
  let w := curWave s
  let s := invalidate s w.core
  match vReadLong s w.core (waveCtx s w) (imageAddr a s) 3 256 with
  | none => none
  | some (hd, s) => vReadLong s w.core (waveCtx s w) (imageAddr a s) 60 (imageSize (min 256 (imageAllot hd)))

def faultRestw (a : SReg) (s : State) : Option OpFault :=
  let w := srcWave s
  let x := imageAddr a s
  orFault (privileged s)
    (orFault (if x.toNat % 256 ≠ 0 then some { plainFault .misaligned with addr := x } else none)
      (orFault (rangeFault s w.core (waveCtx s w) x 256 .read)
        (match vReadLong (invalidate s w.core) w.core (waveCtx s w) x 3 256 with
          | none => some (frameFault x)
          | some (hd, _) =>
            orFault (whenFault (decide (w.allot.toNat < imageAllot hd)) .regAllotment)
              (orFault (rangeFault s w.core (waveCtx s w) x (imageSize (imageAllot hd)) .read)
                (rangeFault s w.core (waveCtx s w) (frameReg s) frameSize .write)))))

/-- RESTW replaces all of the trapped wave's state that the image holds (10 R305, 15 R373, notes/assumptions/32.md); the frame's
replay queue is the image's, its operations issued by the image's current path with the image's ix (notes/assumptions/13.md). -/
def restoreTrapped (bs : List Byte) (w : Wave) : Wave :=
  let w := restoreImage bs w
  let p := pathOfField (fieldAt bs (if (fieldAt bs 32 32 256).getLsbD 193 then 32 else 64) 32 256)
  let ix := (dwordAt bs 96).extractLsb' 16 8
  let own := fun (q : PendOp) => { q with
    mask := q.lanes ||| p.mask, fmt := p.fmt, ix := ix, instr := resolve ix.toNat q.raw, tlane := w.tlane, helper := w.helper }
  { w with replayOps := (List.range (frNent bs)).map (fun e => ((opOfEntry bs e e).map own).getD nopEntry) }
where
  /-- An entry that does not decode. -/
  nopEntry : PendOp :=
    { seq := 0, raw := .nop, ix := 0, instr := .nop, pc := 0, slotn := 0, lanes := 0, mask := 0, fmt := 0, flags := [], svals := [],
      vals := [], tlane := [], helper := 0, begun := false, todo := [], performed := false, results := [], fault := none, noFpx := false, left := 0, replayed := false }
/-- The frame an image leaves: header words 0 to 17, scalars, spill entries, predicates, replay queue and v0 to v3. -/
def imageFrame (bs fr : List Byte) : List Byte :=
  slice bs 0 144 ++ slice fr 144 112 ++ slice bs 0x100 0x180 ++ slice fr 0x280 0x80 ++ slice bs 0x300 0x20 ++
    slice fr 0x320 (0xC00 - 0x320) ++ slice bs 0xC00 (0x11600 - 0xC00)
def effRestw (a : SReg) (s : State) : State :=
  match readImage a s with
  | none => s
  | some (bs, s) =>
    match readFrame s with
    | none => s
    | some (fr, s) =>
      let w := curWave s
      match vWriteLong s w.id w.core (waveCtx s w) (frameReg s) 40 (imageFrame bs fr) with
      | none => s
      | some s => updCur s (restoreTrapped bs)
/-- RESTW (10 R305). -/
def execRestw (a : SReg) (s : State) : Host.Outcome State Fault Refusal := runOnFrame (.restw a) (faultRestw a) (effRestw a) s

/-! ### HALTW (10 R306, 15 R375) -/

/-- The record of a team ended by HALTW: the trap its frame shows (notes/assumptions/33.md). -/
def haltRecord (t : Team) (w : Wave) (bs : List Byte) : LogRec :=
  { cause := dwordAt bs 0 &&& 0xFC0FFFFFFFFFFFFF, faddr := dwordAt bs 8, pc := (dwordAt bs 16).extractLsb' 0 52,
    team := headerWord16 t, ids := headerWord17 t w, nested := false, halted := true }
def effHaltw (s : State) : State :=
  let w := curWave s
  let t := teamOf s w
  let bs := match readFrame s with
    | some r => r.1
    | none => []
  writeLog (endTeamFaulted s t.id) t.ctx (haltRecord t w bs)
/-- HALTW (10 R306). -/
def execHaltw (s : State) : Host.Outcome State Fault Refusal :=
  match firstFault .haltw s (privileged s) with
  | some f => finish (takeTrap s f)
  | none => finish (effHaltw s)

end Sys2Proof.Machine
end

