-- ==== Sys2Proof/Machine/Latch.lean ====
section
/-! DEFINITION. Ordered sections: LATCH.B and LATCH.E (06 R187 R188, 11 R324). -/

namespace Sys2Proof.Machine

/-- The wave's node has an input edge from a RASTER node (06 R185). -/
def rasterFed (s : State) (t : Team) : Bool :=
  match findRun s t.run with
  | none => false
  | some r => r.edges.any (fun e => decide (e.dst = t.node.toNat) && decide ((r.nodes.getD e.src blankNode).kind = 4))

/-- The lanes of the set L that take part: they are no helper lanes. -/
def latchMask (pr : Pred) (s : State) : Mask := laneSet s pr &&& ~~~(srcWave s).helper
def latchLanes (m : Mask) (w : Wave) : List LatchLane := w.latch.filter (fun x => inMask m x.lane.toNat)

/-- Key sets intersect (06 R187). -/
def latchOverlap (x y : LatchLane) : Bool :=
  decide (x.run = y.run) && decide (x.node = y.node) && decide (x.px = y.px) && decide (x.py = y.py) &&
    (!x.perSample || decide (x.samples &&& y.samples ≠ 0))
/-- An overlapping lane with an earlier latch position has not released. -/
def latchBlocked (s : State) (x : LatchLane) : Bool :=
  s.waves.any (fun v => v.latch.any (fun y => !y.released && latchOverlap x y && decide (y.pos < x.pos)))

/-- A participating lane has already entered (06 R187). -/
def faultLatchB (pr : Pred) (s : State) : Option OpFault :=
  whenFault (rasterFed s (teamOf s (srcWave s)) &&
    (latchLanes (latchMask pr s) (srcWave s)).any (fun x => x.entered)) .illegal
def latchHeld (pr : Pred) (s : State) : Bool :=
  rasterFed s (teamOf s (srcWave s)) && (latchLanes (latchMask pr s) (srcWave s)).any (latchBlocked s)
/-- The lanes enter; the entry is an acquire at .dev (06 R188). With no participating lane nothing happens (11 R324). -/
def effLatchB (pr : Pred) (s : State) : State :=
  let m := latchMask pr s
  if rasterFed s (teamOf s (srcWave s)) && decide (m ≠ 0) then
    invalidate (updCur s (fun w =>
      { w with latch := w.latch.map (fun x => if inMask m x.lane.toNat then { x with entered := true } else x) }))
      (srcWave s).core
  else s
/-- LATCH.B (11 R324). -/
def execLatchB (pr : Pred) (s : State) : Host.Outcome State Fault Refusal :=
  run (.latchB pr) (faultLatchB pr s) (latchHeld pr s) (effLatchB pr) s

/-- The release at .dev, and the lanes that had entered release; they never enter again (06 R187 R188). -/
def effLatchE (pr : Pred) (s : State) : State :=
  let m := latchMask pr s
  updCur (eagerClean s (srcWave s).core) (fun w =>
    { w with latch := w.latch.map (fun x =>
        if inMask m x.lane.toNat && x.entered then { x with released := true } else x) })
/-- LATCH.E (11 R324): nothing in a wave of another node. -/
def execLatchE (pr : Pred) (s : State) : Host.Outcome State Fault Refusal :=
  run (.latchE pr) none false
    (fun s => if rasterFed s (teamOf s (srcWave s)) then drainThen (effLatchE pr) s else s) s

end Sys2Proof.Machine
end

