-- ==== Sys2Proof/Machine/Matrix.lean ====
section
/-! DEFINITION. The quad-collective matrix instructions (05 R145 to R151, 11 R309 to R321): the checks of a part at its issue
and the part itself. -/

namespace Sys2Proof.Machine

/-- Captured FMT: AFMT, BFMT, SCALE and SAT (11 R310). -/
def captureFmt (f : BitVec 14) : BitVec 14 := f &&& 0x27FF
/-- The captured encoding: the B field and VS masked out (11 R310). -/
def maskPart : Instr → Instr
  | .mma o => .mma { o with b := { ix := false, base := 0 }, vs := { ix := false, base := 0 } }
  | .mmaSp o => .mmaSp { o with b := { ix := false, base := 0 }, vs := { ix := false, base := 0 } }
  | .miter o => .miter { o with b := 0 }
  | i => i

/-- The scalar values a part reads (11 R310 R314). -/
def partVals (s : State) (i : Instr) : List Word :=
  let v := captureS (srcWave s) i
  match i with
  | .mma _ => if fmtScaled (issFmt s) then v.take 3 else v.take 2
  | .mmaSp _ => if fmtScaled (issFmt s) then v else [v.getD 0 0, v.getD 1 0, 0, v.getD 3 0]
  | _ => v
def partVal (s : State) (i : Instr) (k : Nat) : Nat := ((partVals s i).getD k 0).toNat

/-- The tiles an instruction names (05 R145). -/
def tilesOf : Instr → List Tile
  | .mma o => [o.d, o.c] | .mmaSp o => [o.d, o.c] | .mload o => [o.d] | .mstore o => [o.d] | .mzero _ d => [d]
  | .miter o => o.x :: (match o.mode with
    | .affine _ bt => [bt] | .ns => [] | .poly _ => [])
  | .mpoly _ d c _ => [d, c] | .mnorm _ _ c => [c] | _ => []

/-- A stride from lo to 65,520 in multiples of 16 (11 R314 R316 R318). -/
def strideOk (lo x : Nat) : Bool := decide (x % 16 = 0) && decide (lo ≤ x)

/-- The class of the issuing path's formats, none where 04 R127 makes the instruction illegal. -/
def partClass (s : State) : Option MxClass :=
  let f := issFmt s
  let c := mxClass (fmtAType f)
  if c ≠ mxClass (fmtBType f) ∨ (c = some .i8 ∧ fmtScaled f = true) then none else c

/-- Values outside the rules of the instruction's own entry. -/
def partIllegal (s : State) (c : MxClass) (i : Instr) : Bool :=
  let f := issFmt s
  let stride := partVal s i 1 % 65536
  match i with
  | .mma o => !strideOk 16 stride || (fmtScaled f && decide (c = .h) && decide (o.nc1.toNat % 2 = 0))
  | .mmaSp o => !strideOk 16 stride || (fmtScaled f && decide (c = .h) && decide (o.nc1.toNat % 2 = 0))
  | .mload o => !strideOk (64 * elemBytes o.ty) stride
  | .mstore o => !strideOk (64 * elemBytes o.ty) stride
  | .miter o =>
    decide (c = .f4) || decide (c = .i8) || (match o.mode with
      | .affine _ _ => !strideOk (8 * classWidth c) stride || decide (partVal s i 3 % 256 = 0)
      | _ => decide (fmtAType f ≠ fmtBType f) || decide (partVal s i 1 % 256 = 0))
  | .mpoly _ _ _ _ => decide (c = .f4) || decide (c = .i8) || decide (fmtAType f ≠ fmtBType f)
  | _ => false

/-- K of an MMA. -/
def mmaK (c : MxClass) (nc1 : BitVec 3) : Nat := (nc1.toNat + 1) * chunkLen c
/-- Registers of the B scales (11 R313). -/
def scaleRegs (c : MxClass) (nc1 : BitVec 3) : Nat := (mmaK c nc1 + 255) / 256
/-- The VS range reaches past the allotment while SCALE is 1 (11 R310). -/
def scalesOutside (s : State) (c : MxClass) (vs : VReg) (nc1 : BitVec 3) : Bool :=
  fmtScaled (issFmt s) &&
    useOutside (srcWave s).allot.toNat (useV (srcWave s).ix.toNat vs (scaleRegs c nc1) 1 .c true false)
/-- A tile at or above T, or a VS range outside the allotment. -/
def partBounds (s : State) (c : MxClass) (i : Instr) : Bool :=
  let t := (teamOf s (srcWave s)).tiles
  (tilesOf i).any (fun x => decide (t ≤ x.toNat)) || (match i with
    | .mma o => scalesOutside s c o.vs o.nc1
    | .mmaSp o => scalesOutside s c o.vs o.nc1
    | _ => false)

/-- The checks of 05 R147: a full set L, four distinct waves of the team that name the issuer, and equal QUAD values; a
wave that has exited fails them (11 R332). -/
def quadBad (s : State) (i : Instr) : Bool :=
  let w := srcWave s
  let t := teamOf s w
  let ns := (List.range 4).map (quadNum w.quad)
  decide (laneSet s (predOfInstr i) ≠ 0xFFFFFFFF) || !decide ns.Nodup || !ns.contains w.num.toNat ||
    ns.any (fun n => decide (t.nwaves ≤ n) || (match waveOfNum s t.id n with
      | none => true
      | some v => decide (v.quad ≠ w.quad) || !waveLive v))

def partEngine (s : State) : ClusterNum := coreCluster (teamOf s (srcWave s)).core
/-- The GATHERING entry of the wave's next part (05 R148). -/
def gathering (s : State) : Option Entry :=
  let w := srcWave s
  (getEngine s (partEngine s)).entries.find? (fun e =>
    decide (e.kind = .quad w.team w.mparts.toNat) && decide (e.quad = w.quad) && decide (e.state = .gathering))
/-- The entry's first part had another encoding, scalar value or format (05 R148, 11 R310). -/
def partMismatch (s : State) (i : Instr) : Bool :=
  match gathering s with
  | none => false
  | some e => decide (e.instr ≠ maskPart i) || decide (e.svals ≠ partVals s i) || decide (e.fmt ≠ captureFmt (issFmt s))

/-- The local-store ranges of a part: first byte, bytes, and whether the address must be a multiple of 16 (11 R314 R316
R317 R318). -/
def partRanges (s : State) (c : MxClass) (i : Instr) : List (Nat × Nat × Bool) :=
  let a := partVal s i 0
  let stride := partVal s i 1 % 65536
  let mma := fun (nc1 : BitVec 3) (row : Nat) => [(a, 63 * stride + row * (nc1.toNat + 1), true)] ++
    (if fmtScaled (issFmt s) then [(partVal s i 2, 64 * (mmaK c nc1 / 32), true)] else [])
  match i with
  | .mma o => mma o.nc1 32
  | .mmaSp o => mma o.nc1 16
  | .mload o => [(a, 63 * stride + 64 * elemBytes o.ty, true)]
  | .mstore o => [(a, 63 * stride + 64 * elemBytes o.ty, true)]
  | .mspload _ _ nc1 => [(a, 8 * mmaK c nc1, true)]
  | .miter o => (match o.mode with
    | .affine _ _ => [(a, 63 * stride + 8 * classWidth c, true)]
    | _ => [])
  | _ => []
/-- The side-memory range: offset and bytes (05 R151). -/
def partSide (s : State) (c : MxClass) (i : Instr) : List (Nat × Nat) :=
  match i with
  | .mmaSp o => [(partVal s i 3, 8 * mmaK c o.nc1)]
  | .mspload _ _ nc1 => [(partVal s i 1, 8 * mmaK c nc1)]
  | _ => []

/-- A fault at a team address or side-memory offset. -/
def addrFault (c : Cause) (a : Nat) : OpFault := { cause := c, fkind := 0, lane := 0, addr := BitVec.ofNat 64 a }
/-- Misaligned addresses and offsets, then ranges past the window and past T KiB (11 R310). -/
def partAddrFault (s : State) (c : MxClass) (i : Instr) : Option OpFault :=
  let t := teamOf s (srcWave s)
  let rs := partRanges s c i
  let ms := partSide s c i
  let mis := (rs.filter (fun r => r.2.2 && decide (r.1 % 16 ≠ 0))).map (fun r => r.1) ++
    (ms.filter (fun r => decide (r.1 % 16 ≠ 0))).map (fun r => r.1)
  let out := (rs.filter (fun r => decide (t.winSize < r.1 + r.2.1))).map (fun r => r.1) ++
    (ms.filter (fun r => decide (1024 * t.tiles < r.1 + r.2))).map (fun r => r.1)
  match mis, out with
  | a :: _, _ => some (addrFault .misaligned a)
  | [], a :: _ => some (addrFault .localBounds a)
  | [], [] => none

/-- The checks of a part at its issue (11 R310). -/
def faultPart (i : Instr) (s : State) : Option OpFault :=
  match partClass s with
  | none => some (plainFault .illegal)
  | some c =>
    orFault (whenFault (partIllegal s c i) .illegal)
      (orFault (whenFault (partBounds s c i) .regBounds)
        (orFault (whenFault (quadBad s i || partMismatch s i) .illConvergence)
          (orFault (partAddrFault s c i) (whenFault (decide ((srcWave s).cntMatrix = 255)) .engineCounter))))

/-- No free entry and no GATHERING entry of its sequence number: the part is HELD (05 R148). -/
def partHeld (s : State) : Bool :=
  decide (gathering s = none) && decide (freeEntry (getEngine s (partEngine s)) = none)

/-- The registers copied at issue: the B quarter and its scales, by lane (05 R149). -/
def partB (s : State) (i : Instr) : List (List Word) × List (List Word) :=
  let w := srcWave s
  let regs := fun (r : VReg) (n : Nat) => allLanes.map (fun l => (List.range n).map (fun k => readV w (vnum w.ix.toNat r + k) l))
  let both := fun (o : Mma) => (regs o.b (4 * (o.nc1.toNat + 1)), match partClass s with
    | some c => if fmtScaled (issFmt s) then regs o.vs (scaleRegs c o.nc1) else []
    | none => [])
  match i with
  | .mma o => both o
  | .mmaSp o => both o
  | _ => ([], [])

/-- The part joins its entry, or makes one (05 R148). -/
def effPart (i : Instr) (s : State) : State :=
  let w := curWave s
  let t := teamOf s w
  let cl := partEngine s
  let g := getEngine s cl
  let b := partB s i
  let p : QuadPart := { wave := w.id, seq := w.opSeq, pc := s.iss.pc, b := b.1, scales := b.2 }
  let s := updCur s (fun w => { w with mparts := w.mparts + 1, opSeq := w.opSeq + 1, cntMatrix := w.cntMatrix + 1 })
  match gathering s with
  | some e =>
    let ps := e.parts ++ [p]
    refreshEngine (putEntry s cl { e with parts := ps, state := if ps.length = 4 then .ready else .gathering }) cl
  | none => match freeEntry g with
    | none => s
    | some ix =>
      let e : Entry := { idx := ix, kind := .quad t.id w.mparts.toNat, state := .gathering, instr := maskPart i,
                         svals := partVals s i, fmt := captureFmt (issFmt s),
                         coeffs := coefsAt t (coreClock s w.core), parts := [p], quad := w.quad,
                         age := clusterClk s cl, order := g.nextOrder, eligibleSince := none, starving := false,
                         waitTokens := none, tokenStarving := false, tokens := 0,
                         loop := { iter := 0, res := 0, rprev := inf32, product := 0 }, softError := false }
      updEngine s cl (fun g => { g with entries := g.entries ++ [e], nextOrder := g.nextOrder + 1 })

/-- How each matrix instruction runs; earlier stores enter M first (03 R123). -/
def runPart (i : Instr) (s : State) : Host.Outcome State Fault Refusal :=
  run i (faultPart i s) (partHeld s) (drainThen (effPart i)) s

/-- MMA (11 R315). -/
def execMma (o : Mma) (s : State) : Host.Outcome State Fault Refusal := runPart (.mma o) s
/-- MMA.SP (11 R315). -/
def execMmaSp (o : Mma) (s : State) : Host.Outcome State Fault Refusal := runPart (.mmaSp o) s
/-- MLOAD (11 R316). -/
def execMload (o : MMove) (s : State) : Host.Outcome State Fault Refusal := runPart (.mload o) s
/-- MSTORE (11 R316). -/
def execMstore (o : MMove) (s : State) : Host.Outcome State Fault Refusal := runPart (.mstore o) s
/-- MZERO (11 R317). -/
def execMzero (pr : Pred) (d : Tile) (s : State) : Host.Outcome State Fault Refusal := runPart (.mzero pr d) s
/-- MSPLOAD (11 R317). -/
def execMspload (pr : Pred) (a : SReg) (nc1 : BitVec 3) (s : State) : Host.Outcome State Fault Refusal :=
  runPart (.mspload pr a nc1) s
/-- MITER (11 R318 R319). -/
def execMiter (o : Miter) (s : State) : Host.Outcome State Fault Refusal := runPart (.miter o) s
/-- MPOLY (11 R320). -/
def execMpoly (pr : Pred) (d c : Tile) (deg : BitVec 4) (s : State) : Host.Outcome State Fault Refusal :=
  runPart (.mpoly pr d c deg) s
/-- MNORM (11 R321). -/
def execMnorm (pr : Pred) (d : SReg) (c : Tile) (s : State) : Host.Outcome State Fault Refusal :=
  runPart (.mnorm pr d c) s

end Sys2Proof.Machine
end

