-- ==== Sys2Proof/Machine/Records.lean ====
section
/-! DEFINITION. Appending records and ring payloads, and the end of a team: QAPPEND, TASKEMIT, TEAMDONE and NODEEXIT
(10 R297 to R300, 02 R70 to R84 R95). -/

namespace Sys2Proof.Machine

/-! ### Tags and sequence numbers (02 R70 R71) -/

def mkTag (stk : BitVec 1) (depth : BitVec 8) (ctx : CtxNum) (seq : BitVec 48) : DWord :=
  stk ++ depth ++ ctx ++ (0 : BitVec 1) ++ seq
def tagDepth (t : DWord) : BitVec 8 := t.extractLsb' 55 8
def tagCtx (t : DWord) : CtxNum := t.extractLsb' 49 6

/-- A context's counts on a stack. -/
def ctxStack (x : Ctx) (k : StackNum) : CtxStack := if k = 0 then x.s0 else x.s1
def updCtxStack (x : Ctx) (k : StackNum) (f : CtxStack → CtxStack) : Ctx :=
  if k = 0 then { x with s0 := f x.s0 } else { x with s1 := f x.s1 }

/-- The next sequence number of a context on a stack, and the state with its counter advanced. -/
def nextSeq (s : State) (c : CtxNum) (k : StackNum) : BitVec 48 × State :=
  ((ctxStack (getCtx s c) k).seq, updCtx s c (fun x => updCtxStack x k (fun v => { v with seq := v.seq + 1 })))

/-! ### QAPPEND (10 R297) -/

/-- The edge that leaves the team's node on a port. -/
def teamEdge (s : State) (t : Team) (port : Nat) : Option (Nat × Edge) :=
  match findRun s t.run with
  | none => none
  | some r => match portEdge r t.node port with
    | none => none
    | some k => (r.edges[k]?).map (fun e => (k, e))
/-- Registers of one record of an edge's destination. -/
def edgeRegs (s : State) (t : Team) (e : Edge) : Nat :=
  match findRun s t.run with
  | none => 4
  | some r => (r.nodes.getD e.dst blankNode).rsize / 4

/-- The parent depth of a lane (02 R72). -/
def parentDepth (s : State) (t : Team) (w : Wave) (l : Nat) : Nat :=
  if (teamNode s t).kind = 0 ∧ t.task = none then
    let r := (cellsRead w.recix l).toNat
    if r = 0 then t.depth.toNat else (tagDepth (t.batch.getD (r - 1) blankRec).tag).toNat
  else t.depth.toNat

/-- The lanes that append (10 R297). -/
def appendMask (o : QAppend) (s : State) : Mask :=
  let w := srcWave s
  let t := teamOf s w
  let act := laneSet s o.pr &&& ~~~w.helper
  match teamEdge s t o.port.toNat with
  | none => 0
  | some (_, e) => maskOf (fun l => !e.back || decide (parentDepth s t w l + 1 ≤ e.depth)) (lanesOf act)

def blankRsv : PortRsv := { store := 0, spill := 0, cycle := 0, app := 0 }
/-- Slots still reserved on a port. -/
def rsvLeft (t : Team) (port : Nat) : Nat :=
  let v := t.rsv.getD port blankRsv
  v.store + v.spill + v.cycle

/-- The traps of QAPPEND in order. -/
def faultQappend (o : QAppend) (s : State) : Option OpFault :=
  let w := srcWave s
  let t := teamOf s w
  match teamEdge s t o.port.toNat with
  | none => some (plainFault .illegal)
  | some (_, e) =>
    if e.ring ∨ (teamNode s t).outs ≤ o.port.toNat then some (plainFault .illegal)
    else if min w.allot.toNat 256 < vnum w.ix.toNat o.a + edgeRegs s t e then some (plainFault .regBounds)
    else if t.tdone ∨ rsvLeft t o.port.toNat < popcount (appendMask o s) then some (plainFault .emissionOverrun)
    else none

/-- One reserved slot is used: the queue store first, then spill slots, then the cycle reserve. -/
def useSlot (v : PortRsv) : PortRsv :=
  if v.store ≠ 0 then { v with store := v.store - 1, app := v.app + 1 }
  else if v.spill ≠ 0 then { v with spill := v.spill - 1, app := v.app + 1 }
  else { v with cycle := v.cycle - 1, app := v.app + 1 }

/-- The bytes of a record from the registers of a lane. -/
def recordBytes (w : Wave) (a : VReg) (n l : Nat) : List Byte :=
  wordBytes ((List.range n).map (fun k => readV w (vnum w.ix.toNat a + k) l))

/-- One lane's append (10 R297): its record slot is the location of a lazy release (02 R74, 03 R118). -/
def appendLane (s : State) (w : Wave) (t : Team) (o : QAppend) (k : Nat) (e : Edge) (l : Nat) : State :=
  let q := nextSeq s t.ctx t.stk
  let depth := parentDepth s t w l + e.back.toNat
  let v := ((findTeam q.2 t.id).getD t).rsv.getD o.port.toNat blankRsv
  let spilled := decide (v.store = 0)
  let r : Rec := { run := t.run, node := BitVec.ofNat 8 e.dst, stk := t.stk, slot := t.stk, tag := mkTag t.stk (BitVec.ofNat 8 depth) t.ctx q.1,
                   bytes := recordBytes w o.a (edgeRegs s t e) l, edge := some k, spilled := spilled,
                   since := masterClock s t.stk, transit := false, latch := 0 }
  let s := updTeam q.2 t.id (fun t => { t with rsv := t.rsv.set o.port.toNat (useSlot v) })
  let s := updStack s t.stk (fun x => { x with appended := x.appended + 1,
                                               spilledCount := if spilled then x.spilledCount + 1 else x.spilledCount })
  lazyTag { s with recs := s.recs ++ [r] } w.core t.ctx none (.record r.tag)
def appendLanes (w : Wave) (t : Team) (o : QAppend) (k : Nat) (e : Edge) (s : State) : List Nat → State
  | [] => s
  | l :: r => appendLanes w t o k e (appendLane s w t o k e l) r

/-- The append is a release at .dev of each appending lane, after the queue has drained (02 R74, 03 R116). -/
def effQappend (o : QAppend) (s : State) : State :=
  let w := srcWave s
  let t := teamOf s w
  let m := appendMask o s
  let s := if m = 0 then s else drainCur s
  let s := match teamEdge s t o.port.toNat with
    | none => s
    | some (k, e) => appendLanes w t o k e s (lanesOf m)
  let s := putPred s (issPath s).mask o.d (inMask m)
  if laneSet s o.pr &&& ~~~w.helper = 0 then s else updCur s progress
/-- QAPPEND (10 R297). -/
def execQappend (o : QAppend) (s : State) : Host.Outcome State Fault Refusal :=
  run (.qappend o) (faultQappend o s) false (effQappend o) s

/-! ### TASKEMIT (10 R298, 02 R95) -/

/-- Slot bytes of a RING port, none where the port is no RING port. -/
def ringSlot (s : State) (t : Team) (port : Nat) : Option Nat :=
  match teamEdge s t port with
  | none => none
  | some (_, e) => if e.ring then some (e.slotKb * 1024) else none
def emitAddr (a : SReg) (s : State) : Nat := (readS (srcWave s) a.toNat).toNat
def faultTaskemit (port : BitVec 3) (a b : SReg) (s : State) : Option OpFault :=
  let t := teamOf s (srcWave s)
  let x := emitAddr a s
  let n := emitAddr b s
  match ringSlot s t port.toNat with
  | none => some (plainFault .illegal)
  | some z =>
    if n % 16 ≠ 0 ∨ n < 16 ∨ z < n then some (plainFault .illegal)
    else if x % 16 ≠ 0 then some { plainFault .misaligned with addr := BitVec.ofNat 64 x }
    else if t.winSize < x + n then some { plainFault .localBounds with addr := BitVec.ofNat 64 x }
    else none

/-- The ring of a port of a task team. -/
def ringOf (t : Team) (port : BitVec 3) : Option Ring := t.rings.find? (fun r => decide (r.port = port))
def updRing (t : Team) (port : BitVec 3) (f : Ring → Ring) : Team :=
  { t with rings := t.rings.map (fun r => if r.port = port then f r else r) }
/-- A free slot of a ring. -/
def freeRingSlot (t : Team) (port : BitVec 3) : Option (BitVec 2) :=
  match ringOf t port with
  | none => none
  | some g => ((List.range 4).map (BitVec.ofNat 2)).find? (fun k => g.pays.all (fun p => decide (p.slot ≠ k)))

/-- The payload goes into a free slot; its mesh team is ready for placement. TASKEMIT is a release at .dev whose location is
the ring slot (10 R298, 03 R118). -/
def effTaskemit (port : BitVec 3) (a b : SReg) (s : State) : State :=
  let w := curWave s
  let t := teamOf s w
  match freeRingSlot t port, ringOf t port with
  | some k, some g =>
    let bs := localRead s (localKey t (emitAddr a s)) (emitAddr b s)
    let s := localWrite s (524288 * corePair t.core + g.base + k.toNat * g.slotBytes) bs
    let q := nextSeq s t.ctx t.stk
    let p : Payload :=
      { slot := k, bytes := bs, tag := mkTag t.stk t.depth t.ctx q.1, since := masterClock s t.stk, team := none }
    let s := lazyTag q.2 w.core t.ctx none (.record p.tag)
    updCur (updTeam s t.id (fun t => updRing t port (fun g => { g with pays := g.pays ++ [p] }))) progress
  | _, _ => holdSlot s
/-- TASKEMIT (10 R298): HELD while all four slots are full. -/
def execTaskemit (port : BitVec 3) (a b : SReg) (s : State) : Host.Outcome State Fault Refusal :=
  run (.taskemit port a b) (faultTaskemit port a b s) (freeRingSlot (teamOf s (srcWave s)) port).isNone
    (drainThen (effTaskemit port a b)) s

/-! ### The end of a team (10 R299 R300) -/

/-- A RECLD of the team has not read its record: it waits to be performed, or stands in the replay queue of a wave in its
handler, where RPLAY has not issued it again (15 R366). -/
def recldOpen (s : State) (tid : Nat) : Bool :=
  let isRecld := fun (p : PendOp) => match p.instr with
    | .recld _ => true
    | _ => false
  (teamWaves s tid).any (fun w => w.pend.any (fun p => isRecld p && !p.performed && p.fault.isNone) ||
    w.replayOps.any (fun p => isRecld p && p.fault.isNone && !p.replayed))
/-- TEAMDONE (10 R299). -/
def execTeamdone (s : State) : Host.Outcome State Fault Refusal :=
  run .teamdone none (recldOpen s (srcWave s).team) (fun s => teamDone s (srcWave s).team false) s
/-- NODEEXIT (10 R300). -/
def execNodeexit (s : State) : Host.Outcome State Fault Refusal :=
  run .nodeexit none false (fun s => teamDone (endWaves s (srcWave s).team) (srcWave s).team false) s

end Sys2Proof.Machine
end

