-- ==== Sys2Proof/Machine/Issue.lean ====
section
/-! DEFINITION. The issue of a bundle: what makes it wait, trap or hold (07 R202 to R206 R212 R213, 01 R43), selection and
grants (01 R46 to R51), the price (01 R49), and the issue itself. -/

namespace Sys2Proof.Machine

/-! ### Traps and holds of an instruction -/

/-- The first condition of an instruction's own entry at issue. -/
def faultOf (i : Instr) (s : State) : Option OpFault :=
  match i with
  | .bra o => faultBra o s
  | .brx o => faultBrx o s
  | .ret a => faultRet a s
  | .regroup => faultRegroup s
  | .rgrowReg a => faultSize a s
  | .rshrinkReg a => faultSize a s
  | .setfmtReg a => faultSetfmt a s
  | .waitaddr o => faultWaitaddr o s
  | .yieldCopy a _ => faultYield a s
  | .barInit b a => faultBarInit b a s
  | .barExpect b a => faultBarExpect b a s
  | .barArrive b => faultArrive b s
  | .barSync b => faultArrive b s
  | .barWait b => faultBar b s
  | .acopy a => faultCopy a false s
  | .acopy2d a => faultCopy a true s
  | .qappend o => faultQappend o s
  | .recld o => faultRecld o s
  | .recinfo o => faultRecinfo o s
  | .taskemit port a b => faultTaskemit port a b s
  | .mma _ => faultPart i s
  | .mmaSp _ => faultPart i s
  | .mload _ => faultPart i s
  | .mstore _ => faultPart i s
  | .mzero _ _ => faultPart i s
  | .mspload _ _ _ => faultPart i s
  | .miter _ => faultPart i s
  | .mpoly _ _ _ _ => faultPart i s
  | .mnorm _ _ _ => faultPart i s
  | .neval o => faultNeval o s
  | .latchB pr => faultLatchB pr s
  | .trvBox _ => faultTest i s
  | .trvTri _ => faultTest i s
  | .trvPush pr _ => faultPush pr s
  | .texG _ => faultTex i s
  | .texL _ => faultTex i s
  | .rdsr _ sr => faultSr sr s
  | .wrsr sr _ => faultSr sr s
  | .rplay _ => privileged s
  | .trapret => privileged s
  | .savew _ => privileged s
  | .restw _ => privileged s
  | .haltw => privileged s
  | i => memFault i s
/-- The conditions of an instruction that reads the frame: they are judged when the handler's stores have drained (15 R371). -/
def frameCheck (i : Instr) (s : State) : Option OpFault :=
  match i with
  | .rplay a => faultRplay a s
  | .trapret => faultTrapret s
  | .savew a => faultSavew a s
  | .restw a => faultRestw a s
  | _ => none

/-- The first trap of an instruction at issue. -/
def issueFault (i : Instr) (s : State) : Option OpFault := firstFault i s (faultOf i s)

/-- RGROW would not be granted at once (01 R24). -/
def growHeld (n : Nat) (s : State) : Bool :=
  let w := curWave s
  let s' := grantGrows (setWave s (askGrow w s.iss.pcSlot n)) w.core w.part s.waves.length
  decide (w.allot.toNat < n) && decide ((curWave s').allot.toNat < n)

/-- An instruction holds its slot (the HELD row of 01 R43); a hint is never held. -/
def heldOf (i : Instr) (s : State) : Bool :=
  match i with
  | .ldw o => ldwHeld o s
  | .acopy _ => copyHeld s
  | .acopy2d _ => copyHeld s
  | .mma _ => partHeld s
  | .mmaSp _ => partHeld s
  | .mload _ => partHeld s
  | .mstore _ => partHeld s
  | .mzero _ _ => partHeld s
  | .mspload _ _ _ => partHeld s
  | .miter _ => partHeld s
  | .mpoly _ _ _ _ => partHeld s
  | .mnorm _ _ _ => partHeld s
  | .neval o => decide (nevalEngine o s = none)
  | .latchB pr => latchHeld pr s
  | .taskemit port _ _ => (freeRingSlot (teamOf s (srcWave s)) port).isNone
  | .teamdone => recldOpen s (srcWave s).team
  | .rgrowImm g => growHeld (8 * g.toNat) s
  | .rgrowReg a => growHeld (readS (srcWave s) a.toNat).toNat s
  | .rshrinkImm g => shrinkWaits s (curWave s) (8 * g.toNat)
  | .rshrinkReg a => shrinkWaits s (curWave s) (readS (srcWave s) a.toNat).toNat
  | _ => false

/-- An instruction before which the wave's earlier accesses are performed and its stores enter M (03 R112 R116 R123). -/
def drainsFirst (i : Instr) (s : State) : Bool :=
  match i with
  | .fence _ _ => true
  | .cclean _ => true
  | .cinv _ => true
  | .waitaddr _ => true
  | .acopy _ => true
  | .acopy2d _ => true
  | .barArrive _ => true
  | .barSync _ => true
  | .qappend _ => true
  | .taskemit _ _ _ => true
  | .mma _ => true
  | .mmaSp _ => true
  | .mload _ => true
  | .mstore _ => true
  | .mzero _ _ => true
  | .mspload _ _ _ => true
  | .miter _ => true
  | .mpoly _ _ _ _ => true
  | .mnorm _ _ _ => true
  | .trvBox _ => true
  | .trvTri _ => true
  | .trvPush pr _ => !(spillLanes (curWave s) (laneSet s pr)).isEmpty
  | .trvPop pr _ _ => !(fillLanes (curWave s) (laneSet s pr)).isEmpty
  | .latchE _ => rasterFed s (teamOf s (srcWave s))
  | .rplay _ => true
  | .trapret => true
  | .savew _ => true
  | .restw _ => true
  | _ => false

/-! ### The price (01 R49, 17 R405) -/

/-- weight x popcount(L) of one instruction, and its tokens. -/
def instrCharge (s : State) (i : Instr) : Nat := weight i * popcount (laneSet s (predOfInstr i))
def instrPrice (s : State) (i : Instr) : Nat := (instrCharge s i + 7) / 8
def bundlePrice (s : State) (b : Bundle) : Nat := ((bundleInstrs b).map (fun e => instrPrice s e.2)).sum

/-! ### Registers of a bundle (07 R204 R205 R212) -/

def bundleDests (ix : Nat) (b : Bundle) : List (RegFile × Nat) := (bundleInstrs b).flatMap (fun e => destRegs ix e.2)

def overlaps (a b : List (RegFile × Nat)) : Bool := a.any (fun x => b.contains x)
/-- The slot of the first instruction that shares a destination with a later one (07 R205). -/
def sharedDest (ix : Nat) : List (BitVec 2 × Instr) → Option (BitVec 2)
  | [] => none
  | e :: r => if r.any (fun x => overlaps (destRegs ix e.2) (destRegs ix x.2)) then some e.1 else sharedDest ix r

/-- The banks of the vector registers of a half. -/
def halfBanks (ix : Nat) (i : Instr) : List Nat :=
  ((uses ix i).filter (fun u => decide (u.file = .v))).map (fun u => u.num % 4)
def bankClash (ix : Nat) : SlotBody → Bool
  | .paired a b => (halfBanks ix a).any (fun x => (halfBanks ix b).contains x)
  | _ => false

/-! ### The first trap of a bundle (07 R213) -/

/-- The earlier of two traps: lower rank, then lower slot. -/
def earlierTrap : Option (BitVec 2 × OpFault) → Option (BitVec 2 × OpFault) → Option (BitVec 2 × OpFault)
  | none, o => o
  | o, none => o
  | some a, some b =>
    let ra := causeRank a.2.cause
    let rb := causeRank b.2.cause
    if rb < ra ∨ (rb = ra ∧ b.1.toNat < a.1.toNat) then some b else some a

def slotTrap (b : Bool) (k : BitVec 2) : Option (BitVec 2 × OpFault) := if b then some (k, plainFault .illegal) else none

/-- The trap of a decoded bundle at issue. -/
def bundleTrap (s : State) (b : Bundle) : Option (BitVec 2 × OpFault) :=
  let ix := (srcWave s).ix.toNat
  let own := ((bundleInstrs b).map (fun e => (issueFault e.2 (setPipe s e.1)).map (fun f => (e.1, f)))).foldl earlierTrap none
  let dup := (sharedDest ix (bundleInstrs b)).map (fun k => (k, plainFault .illegal))
  earlierTrap (earlierTrap dup (earlierTrap (slotTrap (bankClash ix b.s0) 0) (slotTrap (bankClash ix b.s1) 1))) own

/-- Whether the control word alone breaks 07 R202. -/
def controlBad (c : DWord) : Bool :=
  decide (c.extractLsb' 46 18 ≠ 0) || decide (c.extractLsb' 39 2 = 3) || decide (c.extractLsb' 41 2 = 3) ||
    decide (c.extractLsb' 43 2 = 3) || decide (c.extractLsb' 43 2 = 1)
/-- The slot an illegal bundle's trap names: none for the control word, else the lowest slot that does not decode. -/
def illegalSlot (b : BitVec 256) : BitVec 2 :=
  let c : DWord := b.extractLsb' 0 64
  let bad := fun (k : Nat) (kind : BitVec 2) (w : DWord) => match decodeBody k kind w with
    | .ok _ => false
    | .error _ => true
  if controlBad c then 3
  else if bad 0 (c.extractLsb' 39 2) (b.extractLsb' 64 64) then 0
  else if bad 1 (c.extractLsb' 41 2) (b.extractLsb' 128 64) then 1
  else if bad 2 (c.extractLsb' 43 2) (b.extractLsb' 192 64) then 2
  else 3

/-! ### What a bundle waits for (07 R203 R204 R206, 15 R364, 09 R262) -/

/-- Registers whose outstanding write a later writer waits for: of an operation until its flag is CLEAR, or it retires. -/
def openDests (s : State) (w : Wave) : List (RegFile × Nat) :=
  ((w.pend ++ w.tests ++ w.nets).flatMap (fun p => destRegs 0 p.instr)) ++ engineDests s w

/-- The flags a bundle names: WAIT, then its set fields. -/
def namedFlags (b : Bundle) : List (BitVec 4) :=
  ((List.range 12).filter (fun n => b.wait.getLsbD n)).map (BitVec.ofNat 4) ++ (bundleSets b).map (fun e => e.2)
def flagIs (w : Wave) (x : BitVec 2) (f : BitVec 4) : Bool := decide (cellsRead w.flags f.toNat = x)

def issuesStore (b : Bundle) : Bool := (bodyInstrs b.s2).any isStore
/-- The flagged-result operations that an instruction issues: RPLAY's entry, and those that TRAPRET issues again, count as others
do. -/
def flaggedBy (w : Wave) (i : Instr) : Nat :=
  match i with
  | .rplay a => ((w.replayOps[(readS w a.toNat).toNat % 32]?).map (fun p => (!isStore p.raw).toNat)).getD 0
  | .trapret => if inHandler w then
      (w.replayOps.filter (fun p => !p.replayed && !isStore p.raw)).length else 0
  | i => (flagged i).toNat
def flaggedCount (w : Wave) (b : Bundle) : Nat := ((bundleInstrs b).map (fun e => flaggedBy w e.2)).sum
/-- The flagged-result operations of a wave, and the stores in its queue or behind a fault of it (15 R364 R374). -/
def flaggedOpen (w : Wave) : Nat := (w.pend.filter (fun p => !isStore p.instr)).length
def storesOpen (w : Wave) : Nat := w.sq.length + (w.pend.filter (fun p => isStore p.instr)).length

/-- The bundle stays WAITING (01 R43). -/
def bundleWaits (s : State) (w : Wave) (b : Bundle) : Bool :=
  (namedFlags b).any (flagIs w flagPending) || decide (coreClock s w.core < w.lastIssue + b.stall.toNat) ||
    overlaps (bundleDests w.ix.toNat b) (openDests s w) ||
    (decide (flaggedCount w b ≠ 0) && decide (16 < flaggedOpen w + flaggedCount w b)) ||
    (issuesStore b && decide (16 ≤ storesOpen w))

/-- The faulted operation of the lowest FAULTED flag that a bundle names. -/
def faultedOp (w : Wave) (b : Bundle) : Option (PendOp × OpFault) :=
  let fs := (List.range 12).filter (fun n =>
    (namedFlags b).contains (BitVec.ofNat 4 n) && flagIs w flagFaulted (BitVec.ofNat 4 n))
  match fs with
  | [] => none
  | n :: _ => match w.pend.find? (fun p => p.fault.isSome && p.flags.contains (BitVec.ofNat 4 n)) with
    | some p => p.fault.map (fun f => (p, f))
    | none => none

/-- What a bundle at a slot's path would do. -/
inductive Verdict
  | waits
  | raises (i : TrapInfo)
  | issues (b : Bundle)

/-- The next bundle of a populated slot. -/
def verdict (s : State) (w : Wave) (k : PcSlot) : Verdict :=
  match slotPath (getSlot w k) with
  | none => .waits
  | some p =>
    let st := stageOf s w k []
    match fetchBits s w.core (waveCtx s w) p.pc with
    | .error f => .raises (issueTrap st 3 f)
    | .ok bits => match decodeBundleBits bits with
      | .error _ => .raises (issueTrap st (illegalSlot bits) (plainFault .illegal))
      | .ok b => match faultedOp w b with
        | some (q, f) => .raises (opTrap q f .flag p.pc p.pc)
        | none =>
          if bundleWaits s w b then .waits
          else match bundleTrap (stageOf s w k (bundleSets b)) b with
            | some (n, f) => .raises (issueTrap st n f)
            | none => .issues b

/-! ### Candidates and grants (01 R28 R46 to R51) -/

/-- A READY slot whose bundle can issue or traps. -/
def canIssue (s : State) (w : Wave) (k : PcSlot) : Bool :=
  match getSlot w k with
  | .ready _ => (match verdict s w k with
    | .waits => false
    | _ => true)
  | _ => false

/-- The other slot holds a path that is not parked. -/
def otherReady (w : Wave) : Bool := match getSlot w (otherSlot w.cur) with
  | .empty => false
  | .parked _ _ => false
  | _ => true

/-- The slot a wave presents (01 R28). -/
def presented (s : State) (w : Wave) : PcSlot :=
  let k := if 64 ≤ w.fair.toNat ∧ otherReady w = true then otherSlot w.cur else w.cur
  if canIssue s w k then k else if canIssue s w (otherSlot k) then otherSlot k else k

/-- A context has reached its issue-cycle quota on a stack (15 R358): with IQMODE 0 it is throttled, with IQMODE 1 its teams end
before another bundle of theirs issues. -/
def throttled (s : State) (c : CtxNum) (k : StackNum) : Bool :=
  let q := ctxStackOf s c k
  decide (q.issueQ ≠ 0) && decide (q.issueQ.toNat * 65536 ≤ q.usedIssue) && (!(getCtx s c).iqmode || !q.quotaFaulted)

/-- Tokens the HELD bundle of a slot holds (02 R95). -/
def heldTokens (w : Wave) : PcSlot → Nat
  | .a => w.heldA
  | .b => w.heldB
def setHeldTokens (w : Wave) (k : PcSlot) (n : Nat) : Wave :=
  match k with
  | .a => { w with heldA := n }
  | .b => { w with heldB := n }

/-- A request at a cluster's stop: of a wave's bundle, or of the engine's pass. -/
structure Bid where
  who : Served
  core : CoreNum
  part : PartNum
  slot : PcSlot
  starving : Bool
  prio : Nat
  age : Nat
  /-- The tie rule of 01 R48 favours it. -/
  favoured : Bool
  wslot : Nat
  /-- The tokens it still needs, and whether the bundle is priced at all. -/
  price : Nat
  priced : Bool
deriving DecidableEq, Repr

/-- A partition's place in the cluster. -/
def partIndex (c : CoreNum) (p : PartNum) : Nat := 8 * (c.toNat % 4) + p.toNat
/-- At least 16 of the other partitions issued a sparse-mask bundle or none in the previous clock (01 R48). -/
def mostlySparse (s : State) (cl : ClusterNum) (own : Nat) : Bool :=
  let m := (getCluster s cl).sparse
  decide (16 ≤ ((List.range 32).filter (fun j => decide (j ≠ own) && m.getLsbD j)).length)
def tieFavours (s : State) (cl : ClusterNum) (own price : Nat) : Bool := decide (16 ≤ price) == mostlySparse s cl own

/-- A wave that may issue a bundle: it holds its place, has not been stopped, and waits for no frame (15 R365 R376). -/
def mayIssue (s : State) (w : Wave) : Bool := waveLive w && w.frameWait.isNone && !waveStopped s w
/-- A wave that takes part in selection: its YIELD hint and its context's quota let it (01 R46, 07 R206). -/
def waveActive (s : State) (w : Wave) : Bool :=
  mayIssue s w && decide (w.yieldUntil ≤ coreClock s w.core) && !throttled s (waveCtx s w) (coreStack w.core)

/-- A bid for a bundle of a full price, of which the slot holds some tokens already. -/
def mkBid (s : State) (w : Wave) (k : PcSlot) (full held : Nat) : Bid :=
  { who := .wave w.id, core := w.core, part := w.part, slot := k, starving := w.starving, prio := wavePriority s w,
    age := w.age, favoured := tieFavours s (coreCluster w.core) (partIndex w.core w.part) full, wslot := w.wslot.toNat,
    price := full - held, priced := decide (full ≠ 0) }
/-- The bid of a slot, none where its bundle waits. -/
def slotBid (s : State) (w : Wave) (k : PcSlot) : Option Bid :=
  match verdict s w k with
  | .waits => none
  | .raises _ => some (mkBid s w k 0 0)
  | .issues b => some (mkBid s w k (bundlePrice (stageOf s w k []) b) (heldTokens w k))
/-- The bid of a wave in selection; a boundary fault stands before its next bundle (15 R363). -/
def waveBid (s : State) (w : Wave) : Option Bid :=
  if !waveActive s w then none
  else if !w.bfaults.isEmpty then some (mkBid s w w.cur 0 0)
  else
    let k := presented s w
    match getSlot w k with
    | .ready _ => slotBid s w k
    | _ => none

/-- The pass of an engine that waits for its 64 tokens (05 R155). -/
def engineBid (s : State) (cl : ClusterNum) : Option Bid :=
  let g := getEngine s cl
  (g.entries.find? (fun e => e.waitTokens.isSome)).map (fun e =>
    { who := .engine, core := 0, part := 0, slot := .a, starving := e.tokenStarving, prio := entryPriority s e,
      age := e.age, favoured := tieFavours s cl 32 64, wslot := 16, price := 64, priced := true })

/-- The order of 01 R47. Bids of two partitions that every criterion leaves equal keep the order of State.waves
(DESIGN CHOICE, notes/assumptions/86.md). -/
def bidBefore (a b : Bid) : Bool :=
  if a.starving ≠ b.starving then a.starving
  else if a.starving ∧ a.age ≠ b.age then decide (a.age < b.age)
  else if a.prio ≠ b.prio then decide (b.prio < a.prio)
  else if a.age ≠ b.age then decide (a.age < b.age)
  else if a.favoured ≠ b.favoured then a.favoured
  else decide (a.wslot ≤ b.wslot)
def insertBid (a : Bid) : List Bid → List Bid
  | [] => [a]
  | b :: r => if bidBefore a b then a :: b :: r else b :: insertBid a r
def sortBids (l : List Bid) : List Bid := l.foldr insertBid []

/-- The bids of a cluster. -/
def clusterBids (s : State) (cl : ClusterNum) : List Bid :=
  sortBids (((s.waves.filter (fun w => decide (coreCluster w.core = cl))).filterMap (waveBid s)) ++ (engineBid s cl).toList)
/-- Those of the engine and of the partitions that have not issued in this clock. -/
def freeBids (s : State) (cl : ClusterNum) : List Bid :=
  (clusterBids s cl).filter (fun b => decide (b.who = .engine) || !(getCluster s cl).issuedNow.getLsbD (partIndex b.core b.part))
/-- The stop grants a bid of a pool of which the given number is left (01 R46); nothing priced starts while THERMTRIP_N
is low, whatever tokens it holds (17 R412). -/
def grants (s : State) (cl : ClusterNum) (left : Nat) (b : Bid) : Bool :=
  !(s.thermtrip && b.priced) && canTake s cl b.who left b.price

/-- The stop grants prices in order; a partition takes one bundle (01 R46 R51). -/
def grantBids (s : State) (cl : ClusterNum) : Nat → List (CoreNum × PartNum) → List Bid → List Bid
  | _, _, [] => []
  | left, used, b :: r =>
    let taken := decide (b.who ≠ .engine) && used.contains (b.core, b.part)
    if !taken && grants s cl left b then
      let own := decide ((getCluster s cl).serving = some b.who)
      b :: grantBids s cl (if own then left else left - b.price)
        (if b.who = .engine then used else (b.core, b.part) :: used) r
    else grantBids s cl left used r
def clusterGrants (s : State) (cl : ClusterNum) : List Bid := grantBids s cl (poolFree s cl) [] (freeBids s cl)

/-- HELD slots of a partition whose bundles can complete now (01 R43). They take no part in selection, so neither a YIELD hint
nor a quota stands in their way. Of two HELD slots of one wave that 01 R47 leaves equal slot A is first (DESIGN CHOICE,
notes/assumptions/86.md). -/
def heldBids (s : State) (c : CoreNum) (p : PartNum) : List Bid :=
  sortBids ((s.waves.filter (fun w => decide (w.core = c) && decide (w.part = p) && mayIssue s w)).flatMap (fun w =>
    ([PcSlot.a, .b].filterMap (fun k => match getSlot w k with
      | .held _ => (slotBid s w k).filter (fun b =>
          grants s (coreCluster c) (poolFree s (coreCluster c)) b && (match verdict s w k with
            | .issues x => !(bundleInstrs x).any (fun e => heldOf e.2 (stageOf s w k []))
            | _ => true))
      | _ => none))))

/-- What a partition issues in this clock: a HELD bundle that completes goes before the candidates (01 R43 R46 R47). -/
def selected (s : State) (c : CoreNum) (p : PartNum) : Option Bid :=
  if (getCluster s (coreCluster c)).issuedNow.getLsbD (partIndex c p) then none
  else match heldBids s c p with
    | b :: _ => some b
    | [] => (clusterGrants s (coreCluster c)).find? (fun b =>
        decide (b.who ≠ .engine) && decide (b.core = c) && decide (b.part = p))

/-! ### The issue of a bundle -/

/-- Continues from a next state. -/
def andThen (r : Host.Outcome State Fault Refusal) (f : State → Host.Outcome State Fault Refusal) :
    Host.Outcome State Fault Refusal :=
  match r with
  | .next s => f s
  | .fault x => .fault x
  | .refused x => .refused x

/-- A boundary fault is taken: it resumes at the current slot's next bundle (15 R363). -/
def takeBoundary (s : State) (w : Wave) : State :=
  match w.bfaults with
  | [] => s
  | i :: r =>
    let pc := ((slotPath (getSlot w w.cur)).getD blankPath).pc
    trapNow (setWave s { w with bfaults := r }) w.id w.cur { i with resume := pc }

/-- The charge windows a bundle opens. -/
def openWindows (s : State) (b : Bundle) (clk : Nat) : List Window :=
  (bundleInstrs b).filterMap (fun e =>
    let n := instrPrice s e.2
    if n = 0 then none else some { tokens := n, ends := clk + chargeWindow e.2 })

/-- The bundle of a slot that is HELD completes beside selection: it changes the current slot's count only where it is the
current slot, and never the current slot (01 R28 R43, notes/assumptions/86.md). -/
def besideSelection (w : Wave) (k : PcSlot) : Bool := decide (w.cur ≠ k) && match getSlot w k with
  | .held _ => true
  | _ => false
/-- The wave's own account of an issue (01 R28 R49 R50, 07 R206). -/
def accountWave (s : State) (b : Bundle) (clk : Nat) (w : Wave) : Wave :=
  let k := s.iss.pcSlot
  let beside := besideSelection w k
  { setHeldTokens w k 0 with
           lastIssue := clk, candSince := none, dearSince := none, starving := false, parityRetry := false,
           fair := if beside then w.fair else if w.cur = k then (if w.fair.toNat < 64 then w.fair + 1 else w.fair) else 1,
           cur := if beside then w.cur else k, yieldUntil := if b.yield then clk + 5 else w.yieldUntil }

/-- Tokens, charge, quota and the partition's mark of an issue (01 R46 R48 R49, 15 R358, 17 R405). Tokens that a HELD bundle
holds beyond its price go back to the stop (17 R401). -/
def accountIssue (s : State) (w : Wave) (b : Bundle) : State :=
  let cl := coreCluster w.core
  let bitNow : Word := BitVec.twoPow 32 (partIndex w.core w.part)
  let charge := ((bundleInstrs b).map (fun e => instrCharge s e.2)).sum
  let price := bundlePrice s b - heldTokens w s.iss.pcSlot
  let sparse := decide (popcount (issPath s).mask ≤ 16)
  let s' := if price = 0 then s else takeTokens s cl (.wave w.id) price
  let s' := releaseTokens s' cl (heldTokens w s.iss.pcSlot - bundlePrice s b)
  let s' := if (getCluster s' cl).serving = some (.wave w.id) then endServing s' cl else s'
  let s' := updCluster s' cl (fun c =>
    { c with acc := c.acc + BitVec.ofNat 32 charge, windows := c.windows ++ openWindows s b c.clk, issuedNow := c.issuedNow ||| bitNow,
             sparseNow := if sparse then c.sparseNow ||| bitNow else c.sparseNow })
  let s' := updCtxStackOf s' (waveCtx s w) (coreStack w.core) (fun q => { q with usedIssue := q.usedIssue + 1 })
  updWave s' w.id (accountWave s b (coreClock s w.core))

/-- The slots of a bundle in order, the halves of a paired slot in order. -/
def runSlots (ex : Instr → State → Host.Outcome State Fault Refusal) :
    List (BitVec 2 × Instr) → State → Host.Outcome State Fault Refusal
  | [], s => .next s
  | e :: r, s => andThen (ex e.2 (setPipe s e.1)) (runSlots ex r)

/-- 64 consecutive bundles of the current slot give way to a path that is not parked (01 R28). -/
def fairSwitch (s : State) : State :=
  updCur s (fun w => if 64 ≤ w.fair.toNat ∧ otherReady w = true ∧ w.status = .running then
    { w with cur := otherSlot w.cur, fair := 0 } else w)

/-- An instruction that raises its trap after its bundle has taken effect (10 R301). -/
def raisesTrap : Instr → Bool
  | .trap _ => true | .bpt _ => true | _ => false
/-- The wave's own effect of a decoded bundle: account, the next bundle's PC, then the slots (07 R200 R205). -/
def runBundle (ex : Instr → State → Host.Outcome State Fault Refusal) (s : State) (w : Wave) (b : Bundle) :
    Host.Outcome State Fault Refusal :=
  let s := accountIssue s w b
  let s := updCur s (fun w => setSlot w s.iss.pcSlot (.ready { issPath s with pc := s.iss.pc + 32 }))
  let stack := (bundleInstrs b).any (fun e => usesStack e.2)
  let s := if stack then loadDeep s w.id else s
  let s := if (bundleInstrs b).any (fun e => raisesTrap e.2) then endAtomics s w.id else s
  let old := curWave s
  andThen (runSlots ex (bundleInstrs b) s) (fun s =>
    let s := fairSwitch s
    .next (if stack then storeDeep old s w.id else s))

/-- The instruction of slot 2. -/
def slot2Of (b : Bundle) : Option Instr := (bodyInstrs b.s2).head?
def anyHeld (s : State) (b : Bundle) : Bool := (bundleInstrs b).any (fun e => heldOf e.2 s)
def anyDrains (s : State) (b : Bundle) : Bool := (bundleInstrs b).any (fun e => drainsFirst e.2 s)
/-- The trap of a bundle whose instruction reads the frame, after the drain. -/
def frameTrap (s : State) (b : Bundle) : Option (BitVec 2 × OpFault) :=
  ((bundleInstrs b).map (fun e => (frameCheck e.2 (setPipe s e.1)).map (fun f => (e.1, f)))).foldl earlierTrap none

/-- A bundle that becomes HELD takes its price and keeps it until it issues (02 R95). -/
def holdPrice (s : State) (w : Wave) (k : PcSlot) (b : Bundle) : State :=
  let n := bundlePrice s b - heldTokens w k
  if n = 0 then s
  else updWave (takeTokens s (coreCluster w.core) (.wave w.id) n) w.id (fun w => setHeldTokens w k (heldTokens w k + n))

/-- A bundle that traps nowhere: HELD while an instruction holds it (the meaning of that instruction holds the slot and
makes its request), else drained where it must be, else run. A store that faults in the drain is raised at this boundary, before
the bundle (15 R374): the bundle stays where it is. -/
def issueBundle (ex : Instr → State → Host.Outcome State Fault Refusal) (s : State) (w : Wave) (k : PcSlot) (b : Bundle) :
    Host.Outcome State Fault Refusal :=
  let st := stageOf s w k (bundleSets b)
  if anyHeld st b then (match slot2Of b with
    | some i => ex i (setPipe (holdPrice st w k b) 2)
    | none => .next st)
  else if anyDrains st b then
    let d := drainCur st
    if drainedCur d then
      let st := stageOf d (curWave d) k (bundleSets b)
      match frameTrap st b with
      | some (n, f) => finish (trapNow st w.id k (issueTrap st n f))
      | none => runBundle ex st (curWave d) b
    else .next d
  else runBundle ex st w b

/-- A slot of a wave attempts its next bundle. -/
def attempt (ex : Instr → State → Host.Outcome State Fault Refusal) (s : State) (wid : Nat) (k : PcSlot) :
    Host.Outcome State Fault Refusal :=
  match findWave s wid with
  | none => .next s
  | some w =>
    if !w.bfaults.isEmpty then finish (takeBoundary s w)
    else match verdict s w k with
      | .waits => .next s
      | .raises i => finish (trapNow s wid k i)
      | .issues b => issueBundle ex s w k b

/-- The place of a wave among those that act in one clock: core, partition and wave slot (10 R297, 15 R381). -/
def wavePlace (w : Wave) : Nat := 16 * (8 * w.core.toNat + w.part.toNat) + w.wslot.toNat
/-- No wave of a higher place has acted in this clock. -/
def inTurn (s : State) (w : Wave) : Bool := decide (s.clockMark ≤ wavePlace w)
/-- The wave acts in this clock. -/
def markTurn (s : State) (w : Wave) : State := { s with clockMark := wavePlace w + 1 }

/-- The selected bid of a partition attempts its bundle, in its turn of the clock. -/
def issueBid (ex : Instr → State → Host.Outcome State Fault Refusal) (s : State) (b : Bid) : Host.Outcome State Fault Refusal :=
  match b.who with
  | .engine => .next s
  | .wave id => match findWave s id with
    | none => .next s
    | some w => if inTurn s w then attempt ex (markTurn s w) id b.slot else .next s
/-- A partition issues (01 R46). -/
def issuePartition (ex : Instr → State → Host.Outcome State Fault Refusal) (c : CoreNum) (p : PartNum) (s : State) :
    Host.Outcome State Fault Refusal :=
  match selected s c p with
  | none => .next s
  | some b => issueBid ex s b

end Sys2Proof.Machine
end

