-- ==== Sys2Proof/Machine/Events.lean ====
section
/-! DEFINITION. The events of waves, flags, pools, stops and clocks (01 R24 to R28 R43 R50 to R58, 07 R203 R206, 09 R270,
15 R362 to R366). State.who names the agent; an event whose condition does not hold changes nothing
(notes/assumptions/6.md). -/

namespace Sys2Proof.Machine

/-- The event's wave, where it is live and has not been stopped. -/
def whoWave (s : State) : Option Wave := (findWave s s.who.wave).filter (fun w => waveLive w && !waveStopped s w)
/-- Runs an event of the named wave. -/
def onWave (f : Wave → State → State) (s : State) : Host.Outcome State Fault Refusal :=
  match whoWave s with
  | some w => finish (f w s)
  | none => .next s

/-! ### Register pool (01 R24 R25) -/

/-- RGROW_GRANT: the pool of the named partition grants. -/
def execRgrowGrant (s : State) : Host.Outcome State Fault Refusal :=
  finish (poolStep s s.who.core s.who.part)

/-- The size an RSHRINK in slot 2 of a HELD bundle asks for. -/
def shrinkSize (s : State) (w : Wave) (p : Path) : Option Nat :=
  match slot2At s w.core (waveCtx s w) p.pc with
  | some (.rshrinkImm g) => some (8 * g.toNat)
  | some (.rshrinkReg a) => some (readS w a.toNat).toNat
  | _ => none

/-! ### Parked slots (01 R57, 09 R270 R276 R277) -/

/-- A parked slot becomes READY at a PC. -/
def unpark (s : State) (wid : Nat) (k : PcSlot) (p : Path) (pc : Pc) : State :=
  updWave s wid (fun w => setSlot w k (.ready { p with pc := pc }))

/-- A slot parked in WAITC, YIELD or a barrier whose event has come. -/
def wakeParked (w : Wave) (s : State) : State :=
  let k := s.who.slot
  match getSlot w k with
  | .parked p (.counter c n) => if (counterOf w c).toNat ≤ n.toNat then unpark s w.id k p (p.pc + 32) else s
  | .parked p (.copyYield n t) => if w.cntCopy.toNat ≤ n.toNat then unpark s w.id k p t else s
  | .parked p (.barrier b true) =>
    let s := updWave s w.id (fun w => { w with pendingBit := putBarBit w.pendingBit b false })
    unpark (observeAcquire s w) w.id k p (p.pc + 32)
  | _ => s
/-- PARKED_WAKE (01 R57). -/
def execParkedWake (s : State) : Host.Outcome State Fault Refusal := onWave wakeParked s

/-- The watched word lies in host memory and is read there: it is read again every microsecond. -/
def hostWatch (s : State) (w : Wave) (o : WaitAddr) (a : DWord) (last : Nat) : Bool :=
  !o.isLocal && wideScope (teamOf s w).pair o.scope && (match translateAt s w.core (waveCtx s w) a .read with
    | .ok l => l.host
    | .error _ => false) && decide (last + Config.clocksPerUs ≤ masterClock s (coreStack w.core))
/-- The trap of a parked slot at its own bundle. -/
def slotTrapInfo (p : Path) (n : BitVec 2) (f : OpFault) : TrapInfo :=
  { cause := f.cause, code := if f.cause = .translation then (0 : BitVec 9) ++ f.fkind else 0, deliv := .issue, slot := n,
    fkind := f.fkind, flane := f.lane, faddr := f.addr, tpc := p.pc, resume := p.pc, iter := 0, res := 0 }

/-- A WAITADDR reads its word again, and continues or parks again (09 R270). -/
def wakeAddr (w : Wave) (s : State) : State :=
  let k := s.who.slot
  match getSlot w k with
  | .parked p (.addr o a c d woken last) =>
    let late := decide (d ≤ coreClock s w.core)
    if woken || late || hostWatch s w o a last then
      match watchRead s w o a with
      | .error f => if inTurn s w then trapNow (markTurn s w) w.id k (slotTrapInfo p 2 f) else s
      | .ok (v, s) =>
        if v ≠ c ∨ late = true then
          updWave s w.id (fun w => writeWatch o v (setSlot w k (.ready { p with pc := p.pc + 32 })))
        else updWave s w.id (fun w =>
          setSlot w k (.parked p (.addr o a c d false (masterClock s (coreStack w.core)))))
    else s
  | _ => s
/-- WAITADDR_WAKE (09 R270). -/
def execWaitaddrWake (s : State) : Host.Outcome State Fault Refusal := onWave wakeAddr s

/-! ### Results (07 R203, 03 R112) -/

/-- FLAG_COMPLETE: State.who names the wave and the operation. A wave that has exited discards its results. -/
def execFlagComplete (s : State) : Host.Outcome State Fault Refusal :=
  finish (if goesOn s s.who.wave then completeSeq s s.who.wave s.who.seq else s)

/-- The head of a store queue may enter M: no earlier access is open and no fault has stopped the queue (03 R112). -/
def drainStep (s : State) (w : Wave) : State :=
  if queueStopped w then s
  else match oldestAccess w with
    | some (_, true) => drainOne s w
    | _ => s
/-- STORE_DRAIN (03 R112, 15 R374). -/
def execStoreDrain (s : State) : Host.Outcome State Fault Refusal :=
  match findWave s s.who.wave with
  | some w => finish (if goesOn s w.id then drainStep s w else s)
  | none => .next s

/-! ### Traps outside the issue of a bundle (15 R362 to R366) -/

/-- A wave may take a trap: it does not wait for a frame, and it is its turn in the clock (15 R365 R381). -/
def mayTrap (s : State) (w : Wave) : Bool := w.frameWait.isNone && inTurn s w
/-- A boundary fault of a wave is taken. -/
def boundaryNow (w : Wave) (s : State) : State :=
  if mayTrap s w && !w.bfaults.isEmpty then takeBoundary (markTurn s w) w else s
/-- BOUNDARY_FAULT (15 R363). -/
def execBoundaryFault (s : State) : Host.Outcome State Fault Refusal := onWave boundaryNow s

/-- The trap of the bundle a slot presents, where it has one that a test accepts. -/
def raiseVerdict (ok : TrapInfo → Bool) (w : Wave) (s : State) : State :=
  let k := presented s w
  match getSlot w k with
  | .ready _ => (match verdict s w k with
    | .raises i => if mayTrap s w && ok i then trapNow (markTurn s w) w.id k i else s
    | _ => s)
  | _ => s
/-- FETCH_FAULT (15 R362). -/
def execFetchFault (s : State) : Host.Outcome State Fault Refusal :=
  onWave (raiseVerdict (fun i => decide (i.cause = .translation) && decide (i.slot = 3))) s
/-- TRAP_ENTRY: the trap of the wave's next bundle, or a boundary fault that stands before it, is taken (15 R366). -/
def execTrapEntry (s : State) : Host.Outcome State Fault Refusal :=
  onWave (fun w s => if !w.bfaults.isEmpty then boundaryNow w s else raiseVerdict (fun _ => true) w s) s
/-- FRAME_WAIT_END: a wave that waits for a frame takes one that is free (15 R365). -/
def frameWaitEnd (w : Wave) (s : State) : State :=
  match w.frameWait, findTeam s w.team with
  | some i, some t => (match freeFrameNum (getCtx s t.ctx) with
    | some f => if inTurn s w then enterHandler (markTurn s w) t w f i else s
    | none => s)
  | _, _ => s
def execFrameWaitEnd (s : State) : Host.Outcome State Fault Refusal := onWave frameWaitEnd s

/-! ### Slots and timing hints (01 R28, 07 R206) -/

/-- SLOT_SWITCH: the wave presents its other slot (01 R28). -/
def slotSwitch (w : Wave) (s : State) : State :=
  let k := presented s w
  if k = w.cur then s else setWave s { w with cur := k, fair := 0 }
def execSlotSwitch (s : State) : Host.Outcome State Fault Refusal := onWave slotSwitch s

/-- YIELD_HINT_EXPIRY: four cluster clocks after the bundle the hint is over (07 R206). -/
def execYieldHintExpiry (s : State) : Host.Outcome State Fault Refusal :=
  onWave (fun w s => if w.yieldUntil ≤ coreClock s w.core then setWave s { w with yieldUntil := 0 } else s) s

/-- A running count of clocks: it goes on while a condition holds. -/
def keepSince (on : Bool) (clk : Nat) (old : Option Nat) : Option Nat := if on then some (old.getD clk) else none
/-- The clocks of 01 R50: those in which the wave is a candidate, and those in which its current slot is READY at a priced
bundle whose price the stop cannot grant. Each count ends where its condition does; a clock in which the wave takes no part in
selection is in neither. -/
def markCandidate (s : State) (w : Wave) : Wave :=
  let cl := coreCluster w.core
  match waveBid s w with
  | none => { w with candSince := none, dearSince := none }
  | some b =>
    let ok := grants s cl (poolFree s cl) b
    { w with candSince := keepSince ok (coreClock s w.core) w.candSince,
             dearSince := keepSince (!ok) (coreClock s w.core) w.dearSince }
/-- STALL_EXPIRY: the stall count has elapsed, and the bundle is READY if nothing else holds it (07 R206, 01 R43). -/
def execStallExpiry (s : State) : Host.Outcome State Fault Refusal := onWave (fun w s => setWave s (markCandidate s w)) s

/-! ### Starvation (01 R50 to R54) -/

/-- 1,024 cluster clocks have passed since. -/
def longSince (s : State) (w : Wave) (since : Option Nat) : Bool :=
  match since with
  | some c => decide (c + 1024 ≤ coreClock s w.core)
  | none => false
/-- STARVING: 1,024 cluster clocks as a candidate, or READY at a bundle that the stop cannot grant (01 R50). -/
def execStarving (s : State) : Host.Outcome State Fault Refusal :=
  onWave (fun w s => if longSince s w w.candSince || longSince s w w.dearSince then setWave s { w with starving := true } else s) s

/-- Bids of a cluster that starve for tokens, oldest first: priced, and more than the stop can grant. -/
def tokenStarvers (s : State) (cl : ClusterNum) : List Bid :=
  (clusterBids s cl).filter (fun b => b.starving && decide (poolFree s cl < b.price))
/-- The oldest of them. -/
def oldestBid : List Bid → Option Bid
  | [] => none
  | b :: r => match oldestBid r with
    | none => some b
    | some c => if c.age < b.age then some c else some b

/-- Whom a stop serves still starves for its price. -/
def servedBid (s : State) (cl : ClusterNum) : Option Bid :=
  (clusterBids s cl).find? (fun b => decide ((getCluster s cl).serving = some b.who) && b.starving && decide (b.price ≠ 0))
/-- A stop begins to serve: the flag rises and every stop of the stack empties its pool (01 R52 R53). -/
def beginServing (s : State) (cl : ClusterNum) (b : Bid) : State :=
  let s := updCluster s cl (fun c => { c with serving := some b.who, servedTokens := 0, captures := c.captures + 1 })
  emptyPools (setFlagOf s (clusterStack cl)) (clusterStack cl)
/-- The stop captures free tokens for whom it serves, up to the price. -/
def captureFor (s : State) (cl : ClusterNum) (b : Bid) : State :=
  let n := min (getStack s (clusterStack cl)).free (b.price - (getCluster s cl).servedTokens)
  let s := updStack s (clusterStack cl) (fun t => { t with free := t.free - n })
  updCluster s cl (fun c => { c with servedTokens := c.servedTokens + n })
/-- STARVATION_CAPTURE (01 R52): State.who names the cluster. -/
def effStarvationCapture (s : State) : State :=
  let cl := s.who.cl
  match (getCluster s cl).serving with
  | some _ => (match servedBid s cl with
    | some b => captureFor s cl b
    | none => endServing s cl)
  | none => (match oldestBid (tokenStarvers s cl) with
    | some b => captureFor (beginServing s cl b) cl b
    | none => s)
def execStarvationCapture (s : State) : Host.Outcome State Fault Refusal := .next (effStarvationCapture s)

/-- An ordinary capture of passing tokens into a pool: none under the flag or in excess, at most 1,024 in the pool
(01 R51 R53, 17 R402). -/
def capturePool (cl : ClusterNum) (n : Nat) (s : State) : State :=
  let k := clusterStack cl
  if starvationFlag s k || ringExcess s k || stopRetired s cl then s
  else
    let m := min n (min (getStack s k).free (1024 - (getCluster s cl).pool))
    updCluster (updStack s k (fun t => { t with free := t.free - m })) cl (fun c => { c with pool := c.pool + m })

/-- ENGINE_PASS_TOKENS: the engine's waiting pass takes its 64 tokens where the stop grants them (05 R155). -/
def effEnginePassTokens (s : State) : State :=
  let cl := s.who.cl
  match (getEngine s cl).entries.find? (fun e => e.waitTokens.isSome) with
  | none => s
  | some e =>
    if !s.thermtrip && (clusterGrants s cl).any (fun b => decide (b.who = .engine)) then passStart s cl e
    else match e.waitTokens with
      | some c => if c + 1024 ≤ clusterClk s cl then putEntry s cl { e with tokenStarving := true } else s
      | none => s
def execEnginePassTokens (s : State) : Host.Outcome State Fault Refusal := .next (effEnginePassTokens s)

/-- CHARGE_WINDOW_END: the shares of windows that have ended go back (01 R49 R51 R53); State.who names the cluster. -/
def effChargeWindowEnd (s : State) : State :=
  let cl := s.who.cl
  let c := getCluster s cl
  let n := ((c.windows.filter (fun x => decide (x.ends ≤ c.clk))).map (fun x => x.tokens)).sum
  releaseTokens (updCluster s cl (fun c => { c with windows := c.windows.filter (fun x => decide (c.clk < x.ends)) })) cl n
def execChargeWindowEnd (s : State) : Host.Outcome State Fault Refusal := .next (effChargeWindowEnd s)

/-! ### Spinning (01 R58) -/

/-- A wave is spinning. -/
def spinning (w : Wave) : Bool := decide (4096 ≤ w.spin.toNat) && w.backMark
/-- A clock of a RUNNING wave with a populated slot that is not PARKED. -/
def spinClock (w : Wave) : Wave :=
  let awake := fun (x : SlotState) => match x with
    | .empty => false
    | .parked _ _ => false
    | _ => true
  if w.status = .running ∧ (awake w.slotA || awake w.slotB) = true then
    { w with spin := if w.spin = 0xFFFFFFFF then w.spin else w.spin + 1 }
  else w
/-- SPINNING: a wave is spinning while its counter is at least 4,096 and the mark is set: the two fields say so, and the
event itself changes nothing. -/
def execSpinning (s : State) : Host.Outcome State Fault Refusal := .next s

/-! ### The weight store's refresh (03 R105) -/

/-- The LDW of a HELD slot, as a wave would issue it now. -/
def refreshHeld (s : State) (w : Wave) (k : PcSlot) : Bool :=
  match getSlot w k with
  | .held p => (match slot2At s w.core (waveCtx s w) p.pc with
    | some (.ldw o) => !ldwHeld o (stageOf s w k [])
    | _ => false)
  | _ => false
/-- REFRESH_WINDOW_END: slots HELD by a window that has ended attempt their bundles again, ahead of selection (03 R105,
01 R43). State.who names the stack. -/
def execRefreshWindowEnd (s : State) : Host.Outcome State Fault Refusal :=
  let moves := (s.waves.filter (fun w => decide (coreStack w.core = s.who.stk) && waveLive w)).flatMap (fun w =>
    ([PcSlot.a, .b].filter (refreshHeld s w)).map (fun k => Move.complete w.id k))
  .next { s with agenda := moves ++ s.agenda }

end Sys2Proof.Machine
end

