-- ==== Sys2Proof/Machine/Regroup.lean ====
section
/-! DEFINITION. The completion of REGROUP (01 R39 to R42, 03 R102, 05 R167, 06 R186 R194, 04 R137). -/

namespace Sys2Proof.Machine

/-! ### When it completes (01 R39) -/

/-- The live waves of a team by wave number. -/
def insertNum (w : Wave) : List Wave → List Wave
  | [] => [w]
  | v :: r => if w.num.toNat ≤ v.num.toNat then w :: v :: r else v :: insertNum w r
def participants (s : State) (tid : Nat) : List Wave := ((teamWaves s tid).filter waveLive).foldr insertNum []

/-- Every live lane of a wave is in a slot parked at a REGROUP. -/
def allParked (w : Wave) : Bool :=
  let ok := fun (x : SlotState) => match x with
    | .empty => true
    | .parked _ .regroup => true
    | _ => false
  decide (w.status = .running) && ok w.slotA && ok w.slotB &&
    (decide (w.slotA ≠ .empty) || decide (w.slotB ≠ .empty)) && w.stack.all (fun e => e.isJoin && decide (e.arrv = 0))
/-- Flags clear and engine-class counters zero. -/
def allQuiet (w : Wave) : Bool :=
  decide (w.flags = []) && decide (w.cntCopy = 0) && decide (w.cntMatrix = 0) && decide (w.cntNet = 0) && decide (w.cntTest = 0)
def regroupReady (ws : List Wave) : Bool := !ws.isEmpty && ws.all (fun w => allParked w && allQuiet w)

/-- Allotment, TSBASE and barrier state agree. -/
def sameBarriers (n : Nat) (a b : Wave) : Bool :=
  (List.range n).all (fun k => decide (a.awaited.getLsbD k = b.awaited.getLsbD k) &&
    decide (a.arrived.getLsbD k = b.arrived.getLsbD k) && decide (a.pendingBit.getLsbD k = b.pendingBit.getLsbD k))
def regroupAgrees (n : Nat) : List Wave → Bool
  | [] => true
  | w :: r => r.all (fun v => decide (v.allot = w.allot) && decide (v.tsbase = w.tsbase) && sameBarriers n w v)

/-! ### Sorting and packing (01 R40) -/

/-- A live lane at a REGROUP: its continuation PC and FMT, and where it stands. -/
structure RegLane where
  pc : Pc
  fmt : BitVec 14
  wave : Nat
  lane : Nat
deriving DecidableEq, Repr

def slotLanes (w : Wave) (x : SlotState) : List RegLane :=
  match slotPath x with
  | none => []
  | some p => (lanesOf p.mask).map (fun l => { pc := p.pc + 32, fmt := p.fmt, wave := w.num.toNat, lane := l })
def waveLanes (w : Wave) : List RegLane := slotLanes w w.slotA ++ slotLanes w w.slotB

/-- Ascending continuation PC, FMT, wave number and lane position. -/
def laneBefore (a b : RegLane) : Bool :=
  if a.pc ≠ b.pc then decide (a.pc.toNat < b.pc.toNat)
  else if a.fmt ≠ b.fmt then decide (a.fmt.toNat < b.fmt.toNat)
  else if a.wave ≠ b.wave then decide (a.wave < b.wave)
  else decide (a.lane ≤ b.lane)
def insertLane (a : RegLane) : List RegLane → List RegLane
  | [] => [a]
  | b :: r => if laneBefore a b then a :: b :: r else b :: insertLane a r
def sortLanes (l : List RegLane) : List RegLane := l.foldr insertLane []

/-- Adds a lane, in order, to the waves packed so far, the last wave first: a new wave starts at a new group and after 32
lanes. -/
def packRegLane (acc : List (List RegLane)) (x : RegLane) : List (List RegLane) :=
  match acc with
  | [] => [[x]]
  | g :: r => match g with
    | y :: _ => if y.pc = x.pc ∧ y.fmt = x.fmt ∧ g.length < 32 then (g ++ [x]) :: r else [x] :: g :: r
    | [] => [x] :: r
def packRegLanes (l : List RegLane) : List (List RegLane) := (l.foldl packRegLane []).reverse

/-! ### What moves (01 R41) -/

def sourceWave (ws : List Wave) (n : Nat) : Wave := (ws.find? (fun w => decide (w.num.toNat = n))).getD blankWave
/-- Lane position k of the new wave comes from this lane. -/
def moveMask (ws : List Wave) (g : List RegLane) (f : Wave → Mask) : Mask :=
  maskOf (fun k => match g[k]? with
    | some x => inMask (f (sourceWave ws x.wave)) x.lane
    | none => false) allLanes
def moveCells {n : Nat} (ws : List Wave) (g : List RegLane) (f : Wave → Cells n) (rows stride : Nat) : Cells n :=
  ((List.range rows).flatMap (fun r => (List.range g.length).map (fun k =>
    (stride * r + k, match g[k]? with
      | some x => cellsRead (f (sourceWave ws x.wave)) (stride * r + x.lane)
      | none => 0)))).filter (fun e => decide (e.2 ≠ 0))
/-- Places in ordered sections move with their lanes. -/
def moveLatch (ws : List Wave) (g : List RegLane) : List LatchLane :=
  (List.range g.length).flatMap (fun k => match g[k]? with
    | some x => ((sourceWave ws x.wave).latch.filter (fun y => decide (y.lane.toNat = x.lane))).map
        (fun y => { y with lane := BitVec.ofNat 5 k })
    | none => [])

/-- The reservations that stay at a REGROUP: those of lanes that keep their wave number and position (01 R41, 09 R267). -/
def keepResv (ws : List Wave) (j : Nat) (g : List RegLane) : List (BitVec 5 × Granule) :=
  (sourceWave ws j).resv.filter (fun r => (g[r.1.toNat]?.map (fun x => decide (x.wave = j) && decide (x.lane = r.1.toNat))).getD false)
/-- New wave j on the place of the j-th participant. -/
def newWave (ws : List Wave) (j : Nat) (place : Wave) (g : List RegLane) : Wave :=
  let srcs := ws.filter (fun w => g.any (fun x => decide (x.wave = w.num.toNat)))
  let low := srcs.headD place
  let mask : Mask := maskOf (fun k => decide (k < g.length)) allLanes
  let pc := (g.head?.map (fun x => x.pc)).getD 0
  let fmt := (g.head?.map (fun x => x.fmt)).getD 0
  { place with
    num := BitVec.ofNat 5 j, vr := moveCells ws g (fun w => w.vr) place.allot.toNat 32,
    pr := cellsWriteAll [] ((List.range 8).map (fun n => (n, moveMask ws g (fun w => readP w n)))),
    tlane := moveCells ws g (fun w => w.tlane) 1 32, recix := moveCells ws g (fun w => w.recix) 1 32,
    tdepth := moveCells ws g (fun w => w.tdepth) 1 32, tstk := moveCells ws g (fun w => w.tstk) 16 32,
    helper := moveMask ws g (fun w => w.helper), nerr := moveMask ws g (fun w => w.nerr), latch := moveLatch ws g,
    everLive := mask, slotA := .ready { pc := pc, mask := mask, fmt := fmt, jpc := 0, jv := false }, slotB := .empty,
    cur := .a, fair := 0, stack := [], sr := low.sr, ix := low.ix, quad := low.quad, tsbase := low.tsbase,
    fpx := srcs.foldl (fun f w => f ||| w.fpx) 0, age := srcs.foldl (fun a w => min a w.age) low.age, spin := 0,
    backMark := false, resv := keepResv ws j g, mparts := 0, candSince := none, dearSince := none, starving := false }

/-- A participant that retires: its allotment returns at once (01 R26). -/
def retiredWave (w : Wave) : Wave :=
  { w with status := .retired, slotA := .empty, slotB := .empty, stack := [], latch := [], resv := [], candSince := none, dearSince := none,
           starving := false }

/-- The loss of the retired waves by a barrier (01 R42). An expected count smaller than their number has no stated result: it
becomes a free value, as at an exit (09 R279, DESIGN CHOICE, notes/assumptions/7.md). -/
def regroupBarrier (s : State) (tid retired : Nat) (arrived : Bool) (b : Bar) : State :=
  match findTeam s tid with
  | none => s
  | some t =>
    let r := if barExpected t b < retired then freeVal s else (BitVec.ofNat 32 (barExpected t b - retired), s)
    let t := setBarExpect t b (r.1.extractLsb' 0 8)
    let t := if arrived then setBarCount t b (BitVec.ofNat 8 (barCount t b - retired)) else t
    phaseCheck (setTeam r.2 t) tid b

/-- The private bytes of a context that a core holds reach home, and the core's copies go (03 R102). -/
def cleanPrivate (s : State) (c : CoreNum) (x : CtxNum) : State :=
  let keys := ((ccOfCore s c).filter (fun e => cbPrivate e.2)).map (fun e => keyLoc e.1) |>.filter
    (fun l => decide (lineCtx s c l = some x))
  let s := cleanKeys s c keys
  pruneLines { s with cc := s.cc.filter (fun e => !(keys.any (fun l => decide (ccKey c l = e.1)))) } c

/-- Fewer waves than groups need: no repack is stated, and every participant traps as on a difference
(notes/assumptions/35.md). -/
def regroupTrap (s : State) (ws : List Wave) : State :=
  ws.foldl (fun acc w => match slotPath (getSlot w w.cur) with
    | some p => trapNow acc w.id w.cur (slotTrapInfo p 2 (plainFault .illConvergence))
    | none => acc) s

/-- The repack (01 R40 to R42). -/
def repack (s : State) (t : Team) (ws : List Wave) (gs : List (List RegLane)) : State :=
  let s := if t.pair then (ws.map (fun w => w.core)).eraseDups.foldl (fun acc c => cleanPrivate acc c t.ctx) s else s
  let news := ((List.range gs.length).zip gs).map (fun e => newWave ws e.1 (ws.getD e.1 blankWave) e.2)
  let olds := (ws.drop gs.length).map retiredWave
  let s := (news ++ olds).foldl (fun acc w => setWave acc w) s
  let first := ws.headD blankWave
  (List.range t.nbars).foldl (fun acc n =>
    regroupBarrier acc t.id olds.length (first.arrived.getLsbD n) (BitVec.ofNat 5 n)) s

def regroupTeam (s : State) (t : Team) : State :=
  let ws := participants s t.id
  if regroupReady ws then
    let gs := packRegLanes (sortLanes (ws.flatMap waveLanes))
    if regroupAgrees t.nbars ws && decide (gs.length ≤ ws.length) then repack s t ws gs else regroupTrap s ws
  else s
/-- REGROUP_COMPLETE: State.who names the team. -/
def execRegroupComplete (s : State) : Host.Outcome State Fault Refusal :=
  match findTeam s s.who.team with
  | some t => finish (if t.status = .running ∧ teamStopped s t = false then regroupTeam s t else s)
  | none => .next s

end Sys2Proof.Machine
end

