-- ==== Sys2Proof/Machine/Graph.lean ====
section
/-! DEFINITION. Graph descriptors (02 R61 to R65, 06 R63 R173 R175 R189, 05 R431), the slots and quotas of a run (02 R76 to
R80 R87), and the start of a run with its records (02 R71 R76, 16 R390). -/

namespace Sys2Proof.Machine

/-! ### What the command core reads (16 R389 R390): at home slices and the host, no column cache -/

/-- Bytes of a context's global memory at their homes; none on a fault. The first argument bounds the pages. -/
def cmdRead (s : State) (c : CtxNum) : Nat → Nat → Nat → Option (List Byte)
  | 0, _, n => if n = 0 then some [] else none
  | f + 1, va, n =>
    if n = 0 then some []
    else
      let k := min n (4096 - va % 4096)
      match translate s c (BitVec.ofNat 64 va) .read with
      | .error _ => none
      | .ok l => if rangePoisoned s l k then none else (cmdRead s c f (va + k) (n - k)).map (fun r => homeRead s l k ++ r)
def readAt (s : State) (c : CtxNum) (va n : Nat) : Option (List Byte) := cmdRead s c (n / 4096 + 2) va n

/-- Bits [hi:lo] of a descriptor. -/
def bitsOf (x hi lo : Nat) : Nat := x / 2 ^ lo % 2 ^ (hi + 1 - lo)
/-- Some of the listed fields is non-zero. -/
def anyRz (x : Nat) (fs : List (Nat × Nat)) : Bool := fs.any (fun f => decide (bitsOf x f.1 f.2 ≠ 0))

/-! ### The header (02 R61) -/

def hdrVer (h : Nat) : Nat := bitsOf h 15 0
def hdrNodes (h : Nat) : Nat := bitsOf h 24 16
def hdrEdges (h : Nat) : Nat := bitsOf h 42 32
def hdrNodeTab (h : Nat) : Nat := bitsOf h 115 64
def hdrEdgeTab (h : Nat) : Nat := bitsOf h 179 128
/-- G_BADVER (02 R65). -/
def badVer (h : Nat) : Bool :=
  decide (hdrVer h ≠ 1) || anyRz h [(511, 180), (127, 116), (63, 43), (31, 25)] || decide (hdrNodes h = 0) ||
    decide (256 < hdrNodes h) || decide (1024 < hdrEdges h)
/-- G_ALIGN of the header and its tables. -/
def badAlign (addr h : Nat) : Bool :=
  decide (addr % 64 ≠ 0) || decide (hdrNodeTab h % 64 ≠ 0) || decide (hdrEdgeTab h % 8 ≠ 0)

/-! ### Nodes (02 R62 R63) -/

def rawKind (n : Nat) : Nat := bitsOf n 49 47
def rawOuts (n : Nat) : Nat := bitsOf n 59 56
def rawRsize (n : Nat) : Nat := bitsOf n 67 64
def rawWaves (n : Nat) : Nat := bitsOf n 72 68 + 1
def rawRegs (n : Nat) : Nat := bitsOf n 83 78
def rawLstore (n : Nat) : Nat := bitsOf n 93 84
def rawSig (n : Nat) : Nat := bitsOf n 371 320
def rawConst (n : Nat) : Nat := bitsOf n 243 192
def rawEmit (n p : Nat) : Nat := bitsOf n (263 + 8 * p) (256 + 8 * p)
def fixedKind (k : Nat) : Bool := decide (4 ≤ k ∧ k ≤ 6)

/-- An initial FMT in the layout of 01 R36 with assigned codes. -/
def fmtBad (f : Nat) : Bool :=
  decide (16384 ≤ f) || decide (5 < f % 16) || decide (5 < f / 16 % 16) || decide (1 < f / 256 % 8)

/-- The waves of a team find places on an empty core, or pair (01 R19 R22). -/
def wavesFit (waves regs : Nat) (pair : Bool) : Bool :=
  decide ((if pair then (waves + 1) / 2 else waves) ≤ 8 * min Config.waveSlots (Config.granules / max regs 1))

/-- Requirements of every kind. -/
def nodeBadAny (n : Nat) : Bool :=
  decide (rawKind n = 3) || decide (rawKind n = 7) || anyRz n [(511, 372), (255, 244), (127, 119), (63, 60)] ||
    decide (bitsOf n 191 176 = 0) || decide (4096 < bitsOf n 191 176) || decide (8 < rawOuts n) || fmtBad (bitsOf n 159 128)
/-- Requirements of a fixed node but its control block (02 R63, 06 R173 R189, 05 R431). -/
def nodeBadFixed (n : Nat) : Bool :=
  anyRz n [(118, 99), (98, 94), (93, 84), (83, 78), (77, 73), (72, 68), (55, 55), (46, 0)] ||
  (match rawKind n with
    | 4 => decide (rawRsize n ≠ 1) || decide (rawOuts n ≠ 1) || decide (rawEmit n 0 ≠ 0)
    | 5 => decide (rawRsize n ≠ 2) || decide (rawOuts n ≠ 1) || decide (rawEmit n 0 ≠ 1)
    | _ => decide (rawRsize n ≠ 3) || decide (1 < rawOuts n) || (decide (rawOuts n = 1) && decide (rawEmit n 0 ≠ 1)))
/-- The local-store need of a node in KiB, with the rings of its RING edges (01 R18, 02 R95). -/
def rawNeed (nodes edges : List Nat) (i n : Nat) : Nat :=
  rawLstore n + 2 + ((edges.filter (fun e => decide (bitsOf e 34 34 = 1) && decide (bitsOf e 7 0 = i))).map (fun e =>
    4 * bitsOf e 44 40 + rawLstore (nodes.getD (bitsOf e 23 16) 0) + 2)).sum
/-- A core is enabled (00 R5), and neither it nor its cluster is retired (18 R424). -/
def coreEnabled (s : State) (c : CoreNum) : Bool :=
  (if coreStack c = 0 then s.boot.record.enmap0 else s.boot.record.enmap1).getLsbD (c.extractLsb' 0 6).toNat
def coreServes (s : State) (c : CoreNum) : Bool := coreEnabled s c && !s.svc.retClusters.getLsbD (coreCluster c).toNat
/-- Bytes of a pair's local store: half where one of its cores is disabled (03 R99). -/
def pairSize (s : State) (pair : Nat) : Nat :=
  if coreEnabled s (BitVec.ofNat 7 (2 * pair)) && coreEnabled s (BitVec.ofNat 7 (2 * pair + 1)) then Config.pairBytes
  else Config.pairBytes / 2
/-- Some core, or pair, in service could hold a local-store need of so many KiB (18 R430). -/
def needFits (s : State) (pair : Bool) (kib : Nat) : Bool :=
  (List.range 128).any (fun c =>
    coreServes s (BitVec.ofNat 7 c) && (!pair || (decide (c % 2 = 0) && coreServes s (BitVec.ofNat 7 (c + 1)))) &&
      decide (1024 * kib ≤ pairSize s (c / 2)))

/-- Requirements of a LANE, TEAM or GRID node. -/
def nodeBadPlain (s : State) (nodes edges : List Nat) (i n : Nat) : Bool :=
  decide (rawRegs n = 0) || decide (32 < rawRegs n) || decide (510 < rawLstore n) || decide (16 < bitsOf n 98 94) ||
    (decide (rawKind n ≠ 1) && decide (bitsOf n 77 73 ≠ 0)) || (decide (rawKind n = 0) && decide (rawWaves n ≠ 1)) ||
    (decide (rawKind n = 2) && decide (rawRsize n = 0)) ||
    (List.range 4).any (fun k => decide (rawWaves n ≤ bitsOf n (103 + 5 * k) (99 + 5 * k))) ||
    !wavesFit (rawWaves n) (rawRegs n) (decide (bitsOf n 55 55 = 1)) || !needFits s (decide (bitsOf n 55 55 = 1)) (rawNeed nodes edges i n)
def nodeBad (s : State) (nodes edges : List Nat) (i n : Nat) : Bool :=
  nodeBadAny n || (if fixedKind (rawKind n) then nodeBadFixed n else nodeBadPlain s nodes edges i n)

/-- Units of parameter memory before the heap (06 R178). -/
def rasterTiles (b : Nat) : Nat := (bitsOf b 47 40 + 1) * (bitsOf b 39 32 + 1)
def heapStart (b : Nat) : Nat := 1 + (rasterTiles b + 3) / 4
/-- A raster control block that the command core rejects (06 R173 R175). -/
def blockBad (b : Nat) : Bool :=
  anyRz b [(511, 193), (159, 148), (95, 48), (31, 8), (3, 0)] || decide (bitsOf b 7 6 = 3) ||
    decide (bitsOf b 103 96 ≠ 0) || decide (bitsOf b 191 160 = 0) || decide (1073741824 ≤ bitsOf b 191 160) ||
    decide (4 * bitsOf b 191 160 < heapStart b + 2)

/-- A node of the run. -/
def mkNode (n : Nat) : Node :=
  { kind := BitVec.ofNat 3 (rawKind n), prio := BitVec.ofNat 5 (bitsOf n 54 50), pair := decide (bitsOf n 55 55 = 1),
    outs := rawOuts n, rsize := 16 * (rawRsize n + 1), twaves := rawWaves n, trec := bitsOf n 77 73 + 1,
    regs := 8 * rawRegs n, lstore := rawLstore n, bars := bitsOf n 98 94, quad := BitVec.ofNat 20 (bitsOf n 118 99),
    fmt := BitVec.ofNat 14 (bitsOf n 159 128), gtime := bitsOf n 175 160, qcap := bitsOf n 191 176,
    const := BitVec.ofNat 64 (rawConst n), emitmax := (List.range 8).map (rawEmit n), sig := BitVec.ofNat 64 (rawSig n),
    entry := BitVec.ofNat 52 (32 * bitsOf n 46 0) }

/-! ### Edges (02 R64) -/

def mkEdge (e : Nat) : Edge :=
  { src := bitsOf e 7 0, port := bitsOf e 10 8, dst := bitsOf e 23 16, depth := bitsOf e 31 24, cyc := decide (bitsOf e 32 32 = 1),
    back := decide (bitsOf e 33 33 = 1), ring := decide (bitsOf e 34 34 = 1), slotKb := bitsOf e 44 40 }
/-- G_BADEDGE of one edge by itself (02 R65, 06 R173, 05 R431). -/
def edgeBad (ns : List Node) (es : List Edge) (raw : Nat) (e : Edge) : Bool :=
  let src := ns.getD e.src blankNode
  let dst := ns.getD e.dst blankNode
  decide (ns.length ≤ e.src) || decide (ns.length ≤ e.dst) || decide (src.outs ≤ e.port) ||
    anyRz raw [(63, 45), (39, 35), (15, 11)] ||
    (if e.ring then decide (e.slotKb = 0) || decide (16 < e.slotKb) else decide (e.slotKb ≠ 0)) ||
    (if e.back then decide (e.depth = 0) else decide (e.depth ≠ 0)) ||
    (e.ring && (decide (src.kind ≠ 1) || decide (dst.kind ≠ 1) ||
      decide ((es.filter (fun x => decide (x.dst = e.dst))).length ≠ 1))) ||
    (decide (src.kind = 4) && (decide (dst.kind ≠ 0) || decide (dst.rsize ≠ 16) || e.cyc || e.ring)) ||
    (decide (dst.kind = 4) && e.cyc) ||
    (decide (src.kind = 6) && (decide (dst.rsize ≠ 16) || e.ring))
/-- Exactly one edge leaves each port below OUTS. -/
def portsBad (ns : List Node) (es : List Edge) : Bool :=
  (List.range ns.length).any (fun i => (List.range (ns.getD i blankNode).outs).any (fun p =>
    decide ((es.filter (fun e => decide (e.src = i) && decide (e.port = p))).length ≠ 1)))
def edgesBad (ns : List Node) (raws : List Nat) : Bool :=
  let es := raws.map mkEdge
  raws.any (fun r => edgeBad ns es r (mkEdge r)) || portsBad ns es

/-! ### Cycles (02 R65) -/

/-- The nodes one edge further than a set. -/
def reachStep (es : List Edge) (seen : List Nat) : List Nat :=
  es.foldl (fun acc e => if acc.contains e.src && !acc.contains e.dst then e.dst :: acc else acc) seen
def reachFrom (es : List Edge) : Nat → List Nat → List Nat
  | 0, seen => seen
  | n + 1, seen =>
    let next := reachStep es seen
    if next.length = seen.length then seen else reachFrom es n next
/-- An edge lies on a directed cycle of a set of edges: its destination reaches its source. -/
def onCycle (n : Nat) (es : List Edge) (e : Edge) : Bool := (reachFrom es n [e.dst]).contains e.src
/-- G_CYCLE. -/
def cycleBad (n : Nat) (es : List Edge) : Bool :=
  let fwd := es.filter (fun e => !e.back)
  es.any (fun e => onCycle n es e != e.cyc) || fwd.any (onCycle n fwd)

/-! ### The descriptor (02 R65) -/

/-- A descriptor as read: its status but G_NOROOM, and with G_OK its nodes, edges and rasters. -/
structure Descriptor where
  status : BitVec 8
  nodes : List Node
  edges : List Edge
  rasters : List Raster
deriving DecidableEq, Repr

def rejected (st : BitVec 8) : Descriptor := { status := st, nodes := [], edges := [], rasters := [] }
/-- The 64-bit fields of a table, as numbers of w bytes each. -/
def splitWords (w : Nat) : Nat → List Byte → List Nat
  | 0, _ => []
  | n + 1, bs => leNat (bs.take w) :: splitWords w n (bs.drop w)

/-- The control blocks of the RASTER nodes; none on a fault. -/
def readBlocks (rd : Nat → Nat → Option (List Byte)) : Nat → List Nat → Option (List (Nat × Nat))
  | _, [] => some []
  | i, n :: r =>
    match readBlocks rd (i + 1) r with
    | none => none
    | some bs => if rawKind n = 4 then (rd (rawConst n) 64).map (fun b => (i, leNat b) :: bs) else some bs

def mkRaster (x : Nat × Nat) : Raster :=
  { node := BitVec.ofNat 8 x.1, block := BitVec.ofNat 512 x.2, flushSeq := 0, emitted := 0, flush := none, stopped := false,
    finalDone := false, called := none }

/-- Nodes and edges once the tables are read. -/
def checkTables (s : State) (rd : Nat → Nat → Option (List Byte)) (ns es : List Nat) : Option Descriptor :=
  if ns.any (fun n => decide (rawSig n % 8 ≠ 0)) then some (rejected 2)
  else if ((List.range ns.length).zip ns).any (fun x => nodeBad s ns es x.1 x.2) then some (rejected 3)
  else match readBlocks rd 0 ns with
    | none => none
    | some bs =>
      if bs.any (fun b => blockBad b.2) then some (rejected 3)
      else if edgesBad (ns.map mkNode) es then some (rejected 4)
      else if cycleBad ns.length (es.map mkEdge) then some (rejected 5)
      else some { status := 0, nodes := ns.map mkNode, edges := es.map mkEdge, rasters := bs.map mkRaster }

/-- The descriptor at an address, its header given; none on a fault. -/
def readGraph (s : State) (rd : Nat → Nat → Option (List Byte)) (addr h : Nat) : Option Descriptor :=
  if badVer h then some (rejected 1)
  else if badAlign addr h then some (rejected 2)
  else match rd (hdrNodeTab h) (64 * hdrNodes h), rd (hdrEdgeTab h) (8 * hdrEdges h) with
    | some nb, some eb => checkTables s rd (splitWords 64 (hdrNodes h) nb) (splitWords 8 (hdrEdges h) eb)
    | _, _ => none

/-! ### Slots and quotas (02 R76 to R78) -/

/-- The runs of a context. -/
def ctxRuns (s : State) (c : CtxNum) : List Run := s.runs.filter (fun r => decide (r.ctx = c))
def runTeams (s : State) (r : Run) : List Team := s.teams.filter (fun t => decide (t.run = r.id))
/-- The records of a run that hold a slot: queued, held by teams or on their way to a stealing one, and GRID records being walked
(02 R84). -/
def slotRecs (s : State) (r : Run) : List Rec :=
  s.recs.filter (fun x => decide (x.run = r.id)) ++
  ((runTeams s r).filter (fun t => t.recsHeld && decide (t.task = none) &&
      (decide ((runNode r t.node).kind ≠ 2) || r.steals.any (fun v => decide (v.team = t.id))))).flatMap
    (fun t => t.batch) ++ r.grids.map (fun g => g.record)
def rsvSum (f : PortRsv → Nat) (ts : List Team) : Nat := (ts.map (fun t => (t.rsv.map f).sum)).sum
def reservesLeft (r : Run) : Nat := (r.reserves.map (fun v => v.left)).sum
/-- Slots that count against the spill quota, and against the record quota. -/
def spillUsed (s : State) (c : CtxNum) : Nat :=
  ((ctxRuns s c).map (fun r => ((slotRecs s r).filter (fun x => x.spilled)).length +
    rsvSum (fun v => v.spill + v.cycle) (runTeams s r) + reservesLeft r)).sum
def recordsUsed (s : State) (c : CtxNum) : Nat :=
  ((ctxRuns s c).map (fun r => (slotRecs s r).length +
    rsvSum (fun v => v.store + v.spill + v.cycle) (runTeams s r) + reservesLeft r)).sum

/-- Store slots reserved by a team at a destination node. -/
def rsvAt (r : Run) (t : Team) (node : Nat) : Nat :=
  (((List.range t.rsv.length).zip t.rsv).map (fun x => match portEdge r t.node x.1 with
    | some k => if ((r.edges[k]?).map (fun e => e.dst)) = some node then x.2.store else 0
    | none => 0)).sum
/-- Free queue-store slots of a node on a stack (02 R76). -/
def storeFree (s : State) (r : Run) (node : BitVec 8) (k : StackNum) : Nat :=
  32 * (runNode r node).qcap -
    ((slotRecs s r).filter (fun x => !x.spilled && decide (x.node = node) && decide (x.slot = k))).length -
    (((runTeams s r).filter (fun t => decide (t.stk = k))).map (fun t => rsvAt r t node.toNat)).sum
def spillFree (s : State) (c : CtxNum) : Nat := (getCtx s c).spillq.toNat - spillUsed s c
def recordsFree (s : State) (c : CtxNum) : Nat := (getCtx s c).recq.toNat - recordsUsed s c

/-- Queue-store bytes that a run's nodes take on each stack. -/
def storeBytes (ns : List Node) : Nat := (ns.map (fun n => 32 * n.qcap * (n.rsize + 8))).sum
/-- Full cycle reserve of an edge on one stack (02 R87). -/
def cycleSize (ns : List Node) (e : Edge) : Nat := if e.cyc then 32 * (ns.getD e.src blankNode).emitmax.getD e.port 0 else 0
/-- G_NOROOM (02 R65). -/
def noRoom (s : State) (c : CtxNum) (d : Descriptor) : Bool :=
  decide (Config.queueStoreBytes - (s.runs.map (fun r => storeBytes r.nodes)).sum < storeBytes d.nodes) ||
    decide (spillFree s c < 2 * (d.edges.map (cycleSize d.nodes)).sum)

/-! ### The start of a run (02 R71 R76 R87, 16 R390) -/

def allReserves (d : Descriptor) : List CycleReserve :=
  ((List.range d.edges.length).zip d.edges).flatMap (fun x =>
    if x.2.cyc then [{ stk := 0, edge := x.1, left := cycleSize d.nodes x.2 },
                     { stk := 1, edge := x.1, left := cycleSize d.nodes x.2 }] else [])
/-- A run with its slots and reserves, without records. -/
def newRun (s : State) (c : CtxNum) (d : Descriptor) (sig : DWord) (lazy : Bool) : Run :=
  { id := s.nextId, ctx := c, nodes := d.nodes, edges := d.edges, sig := sig, lazy := lazy, faulted := false, cores := [],
    rasters := d.rasters, steals := [], reserves := allReserves d, grids := [] }

/-- One injected record: stack 0's counter, depth 0, STK 0; a store slot where one is free, else a spill slot. -/
def injectOne (s : State) (r : Run) (node : BitVec 8) (k : StackNum) (bs : List Byte) : State :=
  let q := nextSeq s r.ctx 0
  let spilled := decide (storeFree s r node k = 0)
  let s := updStack q.2 k (fun x => { x with spilledCount := if spilled then x.spilledCount + 1 else x.spilledCount })
  { s with recs := s.recs ++ [{ run := r.id, node := node, stk := k, slot := k, tag := mkTag 0 0 r.ctx q.1, bytes := bs,
                                    edge := none, spilled := spilled, since := masterClock s k, transit := false, latch := 0 }] }
def injectAll (r : Run) (node : BitVec 8) (k : StackNum) (size : Nat) : Nat → List Byte → State → State
  | 0, _, s => s
  | n + 1, bs, s => injectAll r node k size n (bs.drop size) (injectOne s r node k (bs.take size))

/-- The injection of n records exceeds a quota (02 R78). -/
def injectRefused (s : State) (r : Run) (node : BitVec 8) (k : StackNum) (n : Nat) : Bool :=
  decide (recordsFree s r.ctx < n) || decide (spillFree s r.ctx < n - storeFree s r node k)

/-- Starts a run with its records; none where the injection exceeds a quota. The context becomes LIVE (15 R355). -/
def startRun (s : State) (c : CtxNum) (d : Descriptor) (sig : DWord) (lazy : Bool) (node : BitVec 8) (k : StackNum) (n : Nat)
    (bs : List Byte) : Option State :=
  let r := newRun s c d sig lazy
  let s := { s with runs := s.runs ++ [r], nextId := s.nextId + 1 }
  if injectRefused s r node k n then none
  else
    let s := injectAll r node k (runNode r node).rsize n bs { s with consts := [] }
    some (updCtx s c (fun x => { x with state := .live }))

end Sys2Proof.Machine
end

