-- ==== Sys2Proof/Machine/Placement.lean ====
section
/-! DEFINITION. Placement of a team, all at once or not at all (01 R17 to R20 R22, 02 R95, 05 R145), and the state a wave
starts in (01 R16 R17, 02 R68 R69, 10 R293, 06 R185 to R187). -/

namespace Sys2Proof.Machine

/-! ### What a team needs (01 R18) -/

/-- A wave to place: its number and its granules. -/
abbrev WaveNeed := Nat × Nat

/-- The need of a ring: its slots, and, where room is asked, the mesh team that is set aside for (02 R95). -/
structure RingNeed where
  port : BitVec 3
  slotBytes : Nat
  room : Bool
  waves : List WaveNeed
  pair : Bool
  bars : Nat
  winSize : Nat
deriving DecidableEq, Repr
/-- The need of a team (01 R18). -/
structure Need where
  waves : List WaveNeed
  pair : Bool
  bars : Nat
  winSize : Nat
  tiles : Nat
  rings : List RingNeed
deriving DecidableEq, Repr

/-- Granules of the one wave of a vendor node program (DESIGN CHOICE, notes/assumptions/8.md). -/
def vendorGranules : Nat := 4
/-- Tiles of a team (05 R145). -/
def nodeTiles (n : Node) : Nat := if n.quad = 0 then 0 else min 32 (8 * (n.twaves / 4))
/-- n waves of g granules each. -/
def evenWaves (n g : Nat) : List WaveNeed := (List.range n).map (fun k => (k, g))
def ringNeed (r : Run) (e : Edge) : RingNeed :=
  let m := r.nodes.getD e.dst blankNode
  { port := BitVec.ofNat 3 e.port, slotBytes := 1024 * e.slotKb, room := true, waves := evenWaves m.twaves (m.regs / 8),
    pair := m.pair, bars := m.bars, winSize := 1024 * m.lstore }
/-- A fixed node of a run. -/
def fixedNode (n : Node) : Bool := decide (4 ≤ n.kind.toNat)
/-- The resources of a node's team: those it declares, or those of its vendor program (02 R63; notes/assumptions/8.md). -/
def nodeNeed (r : Run) (node : BitVec 8) : Need :=
  let n := runNode r node
  if fixedNode n then
    { waves := evenWaves 1 vendorGranules, pair := false, bars := 0, winSize := 0, tiles := 0, rings := [] }
  else
    { waves := evenWaves n.twaves (n.regs / 8), pair := n.pair, bars := n.bars, winSize := 1024 * n.lstore,
      tiles := nodeTiles n,
      rings := (r.edges.filter (fun e => e.ring && decide (e.src = node.toNat))).map (ringNeed r) }

/-! ### What is free -/

/-- A core takes teams: it serves, and is not being drained (00 R5, 18 R424). -/
def coreOpen (s : State) (c : CoreNum) : Bool := coreServes s c && !(getCluster s (coreCluster c)).draining
/-- A team that holds places: placed, or held for a steal (02 R91). -/
def teamPlaced (t : Team) : Bool := decide (t.status = .running) || decide (t.status = .queued)
/-- The rings of a team stand in its pair's local store: a task team that has ended keeps them until they are empty
(02 R96). -/
def ringsStand (t : Team) : Bool := !(decide (t.status = .swapped) || decide (t.status = .saved))
def allRooms (s : State) : List (Team × MeshRoom) :=
  (s.teams.filter ringsStand).flatMap (fun t => t.rings.filterMap (fun g => g.room.map (fun r => (t, r))))

/-- A place given in the placement under way. -/
structure Place where
  core : CoreNum
  part : PartNum
  wslot : BitVec 4
  num : Nat
  granules : Nat
deriving DecidableEq, Repr

def slotTaken (s : State) (acc : List Place) (c : CoreNum) (p : PartNum) (k : BitVec 4) : Bool :=
  s.waves.any (fun w => waveLive w && decide (w.core = c) && decide (w.part = p) && decide (w.wslot = k)) ||
  (allRooms s).any (fun x => x.2.places.contains (c, p, k)) ||
  acc.any (fun x => decide (x.core = c) && decide (x.part = p) && decide (x.wslot = k))
/-- The lowest free wave slot of a partition. -/
def freeSlot (s : State) (acc : List Place) (c : CoreNum) (p : PartNum) : Option (BitVec 4) :=
  ((List.range Config.waveSlots).map (BitVec.ofNat 4)).find? (fun k => !slotTaken s acc c p k)
def freeGranules (s : State) (acc : List Place) (c : CoreNum) (p : PartNum) : Nat :=
  granulesFree s c p - ((acc.filter (fun x => decide (x.core = c) && decide (x.part = p))).map (fun x => x.granules)).sum

/-- The partition of a core that a wave goes to: a free wave slot, enough granules, the most free, the lower on a tie
(01 R19). -/
def bestPart (s : State) (acc : List Place) (c : CoreNum) (n g : Nat) : Option Place :=
  ((List.range 8).map (BitVec.ofNat 3)).foldl (fun best p =>
    match freeSlot s acc c p with
    | none => best
    | some k =>
      let f := freeGranules s acc c p
      if f < g then best
      else match best with
        | some b => if freeGranules s acc c b.part < f then some { core := c, part := p, wslot := k, num := n, granules := g } else best
        | none => some { core := c, part := p, wslot := k, num := n, granules := g }) none

/-- Places for waves in ascending wave number, the last given first; wave w of a PAIR team goes to core 2m + (w mod 2). -/
def assignWaves (s : State) (coreOf : Nat → CoreNum) : List WaveNeed → List Place → Option (List Place)
  | [], acc => some acc
  | (n, g) :: r, acc =>
    match bestPart s acc (coreOf n) n g with
    | none => none
    | some p => assignWaves s coreOf r (p :: acc)
/-- The cores of a team's waves. -/
def memberCore (c : CoreNum) (pair : Bool) (n : Nat) : CoreNum :=
  if pair then BitVec.ofNat 7 (2 * (c.toNat / 2) + n % 2) else c

/-- Ranges of a pair's local store that are in use. -/
def roomRanges (r : MeshRoom) : List (Nat × Nat) := [(r.winBase, r.winSize), (r.copyBase, 2048)]
def teamRanges (t : Team) : List (Nat × Nat) :=
  (if teamPlaced t then [(t.winBase, t.winSize), (t.copyBase, 2048)] else []) ++
  t.rings.flatMap (fun g => (g.base, 4 * g.slotBytes) :: (match ringsStand t, g.room with
    | true, some r => roomRanges r
    | _, _ => []))
def localUsed (s : State) (pair : Nat) : List (Nat × Nat) :=
  (s.teams.filter (fun t => decide (corePair t.core = pair))).flatMap teamRanges
def rangeFree (used : List (Nat × Nat)) (limit base size : Nat) : Bool :=
  decide (base + size ≤ limit) && used.all (fun u => decide (u.2 = 0) || decide (size = 0) || decide (base + size ≤ u.1) ||
    decide (u.1 + u.2 ≤ base))
/-- The lowest free range of a size, in granules of 1 KiB. -/
def allocRange (used : List (Nat × Nat)) (limit size : Nat) : Option Nat :=
  ((List.range 513).map (fun k => 1024 * k)).find? (fun b => rangeFree used limit b size)
/-- Several ranges one after another. -/
def allocRanges (limit : Nat) : List (Nat × Nat) → List Nat → Option (List Nat)
  | _, [] => some []
  | used, n :: r =>
    (allocRange used limit n).bind (fun b => (allocRanges limit ((b, n) :: used) r).map (fun l => b :: l))

/-- The core whose 32 named barriers a team draws from (01 R20). -/
def barOwner (c : CoreNum) (pair : Bool) : CoreNum := memberCore c pair 0
def barsUsed (s : State) (c : CoreNum) : Nat :=
  ((s.teams.filter (fun t => teamPlaced t && decide (barOwner t.core t.pair = c))).map (fun t => t.nbars)).sum +
  ((allRooms s).filter (fun x => decide ((x.2.places.head?.map (fun p => p.1)) = some c)) |>.map (fun x => x.2.bars)).sum

/-- Free blocks of 8 tiles of an engine (05 R145). -/
def blocksFree (s : State) (cl : ClusterNum) : List Nat :=
  (List.range 4).filter (fun b => (s.teams.filter (fun t => teamPlaced t && decide (coreCluster t.core = cl))).all
    (fun t => !t.tblocks.contains b))

/-! ### The placement (01 R18 R19) -/

/-- Everything a placement gives. -/
structure Placement where
  core : CoreNum
  places : List Place
  winBase : Nat
  copyBase : Nat
  rings : List Ring
  tblocks : List Nat
deriving DecidableEq, Repr

/-- The sizes of the ranges of a need, in the order window, copy ring, and for each ring its slots, window and copy ring. -/
def ringSizes (gs : List RingNeed) : List Nat := gs.flatMap (fun g => [4 * g.slotBytes, g.winSize, if g.room then 2048 else 0])
def needSizes (n : Need) : List Nat := [n.winSize, 2048] ++ ringSizes n.rings

/-- The other core of a pair. -/
def otherCore (c : CoreNum) : CoreNum := c ^^^ 1
/-- A core, or the even core of a pair, that may take a team of the class. -/
def classOpen (s : State) (c : CoreNum) (pair : Bool) : Bool :=
  if pair then decide (c.toNat % 2 = 0) && coreOpen s c && coreOpen s (c + 1) else coreOpen s c
/-- Places for a mesh team on a pair: a PAIR mesh team needs both cores (00 R5, 03 R99); a CORE mesh team goes to the core given,
or to the other one (02 R95). -/
def meshPlaces (s : State) (core : CoreNum) (pair : Bool) (waves : List WaveNeed) (acc : List Place) : Option (List Place) :=
  let on := fun (c : CoreNum) => if classOpen s (memberCore c pair 0) pair then assignWaves s (memberCore c pair) waves acc else none
  match on core with
  | some x => some x
  | none => if pair then none else on (otherCore core)

/-- The rings of a need, the mesh waves' places given after the team's own. -/
def placeRooms (s : State) (core : CoreNum) : List RingNeed → List Nat → List Place → Option (List Ring × List Place)
  | [], _, acc => some ([], acc)
  | g :: r, bases, acc =>
    match meshPlaces s core g.pair g.waves acc with
    | none => none
    | some acc' =>
      let mine := (acc'.take g.waves.length).reverse
      let room : MeshRoom :=
        { winBase := bases.getD 1 0, winSize := g.winSize, copyBase := bases.getD 2 0,
          granules := (g.waves.head?.map (fun w => w.2)).getD 0, bars := g.bars,
          places := mine.map (fun p => (p.core, p.part, p.wslot)) }
      (placeRooms s core r (bases.drop 3) acc').map (fun x =>
        ({ port := g.port, base := bases.getD 0 0, slotBytes := g.slotBytes, room := if g.room then some room else none,
           pays := [] } :: x.1, x.2))

/-- Barriers of the need and its rooms fit their cores: a room's count where its first wave lies. -/
def barsFit (s : State) (core : CoreNum) (n : Need) (rings : List Ring) : Bool :=
  let own := barOwner core n.pair
  let asks := (own, n.bars) :: rings.filterMap (fun g => g.room.map (fun r => ((r.places.head?.map (fun p => p.1)).getD own, r.bars)))
  asks.all (fun a => decide (barsUsed s a.1 + ((asks.filter (fun b => decide (b.1 = a.1))).map (fun b => b.2)).sum ≤ 32))

/-- The placement of a need on a core; none where something cannot be given. -/
def placeOn (s : State) (n : Need) (c : CoreNum) : Option Placement :=
  if !classOpen s c n.pair then none
  else match assignWaves s (memberCore c n.pair) n.waves [],
      allocRanges (pairSize s (corePair c)) (localUsed s (corePair c)) (needSizes n) with
    | some acc, some bases =>
      (match placeRooms s c n.rings (bases.drop 2) acc with
        | none => none
        | some (rings, _) =>
          let blocks := (blocksFree s (coreCluster c)).take (n.tiles / 8)
          if barsFit s c n rings && decide (blocks.length = n.tiles / 8) then
            some { core := c, places := acc.reverse, winBase := bases.getD 0 0, copyBase := bases.getD 1 0, rings := rings,
                   tblocks := blocks }
          else none)
    | _, _ => none

/-- The cores of a stack in the order they are tried: the one the event names, then in ascending number
(notes/assumptions/36.md). -/
def coreOrder (k : StackNum) (pref : CoreNum) : List CoreNum :=
  let all := (List.range 64).map (fun j => BitVec.ofNat 7 (64 * k.toNat + j))
  (all.filter (fun c => decide (c = pref))) ++ all
/-- The first core of the stack that takes a need. -/
def findPlacement (s : State) (n : Need) (k : StackNum) (pref : CoreNum) : Option Placement :=
  (coreOrder k pref).findSome? (placeOn s n)

/-! ### A wave as it is placed (01 R16 R17) -/

/-- A placed wave without a path: it holds its slot and its allotment. -/
def placedWave (s : State) (id team : Nat) (p : Place) : Wave :=
  { blankWave with
    id := id, team := team, num := BitVec.ofNat 5 p.num, core := p.core, part := p.part, wslot := p.wslot, status := .running,
    allot := BitVec.ofNat 9 (8 * p.granules), age := coreClock s p.core, lastIssue := coreClock s p.core }
def placedWaves (s : State) (team : Nat) : Nat → List Place → List Wave
  | _, [] => []
  | id, p :: r => placedWave s id team p :: placedWaves s team (id + 1) r

/-- Lanes that receive work: the records of a LANE batch, four lanes a quad record, or all (02 R69, 06 R185). -/
def launchMask (kind : BitVec 3) (fed : Bool) (n : Nat) : Mask :=
  if kind = 0 then maskOf (fun l => decide (l < if fed then 4 * n else n)) allLanes else 0xFFFFFFFF
/-- A record index plus 1 of a lane (10 R293). -/
def launchRecix (kind : BitVec 3) (fed mesh : Bool) (n num l : Nat) : BitVec 6 :=
  if mesh then 1
  else match kind.toNat with
    | 0 => if fed then (if l / 4 < n then BitVec.ofNat 6 (l / 4 + 1) else 0) else if l < n then BitVec.ofNat 6 (l + 1) else 0
    | 1 => if 32 * num + l < n then BitVec.ofNat 6 (32 * num + l + 1) else 0
    | _ => 1
/-- s0 to s8 at launch (02 R68). -/
def launchScalars (n : Node) (t : Team) (batch : Nat) (x y z : Nat) (num : Nat) : List (Nat × Word) :=
  [(0, BitVec.ofNat 32 batch), (1, t.launch), (2, t.teamIdx), (3, BitVec.ofNat 32 x), (4, BitVec.ofNat 32 y),
   (5, BitVec.ofNat 32 z), (6, n.const.extractLsb' 0 32), (7, n.const.extractLsb' 32 32), (8, BitVec.ofNat 32 num)]

/-- Fields of a quad record (06 R183). -/
def quadX (r : Rec) : Nat := leNat (r.bytes.take 2)
def quadY (r : Rec) : Nat := leNat ((r.bytes.drop 2).take 2)
def quadCov (r : Rec) : Nat := leNat ((r.bytes.drop 12).take 2)
/-- COV bits of pixel i. -/
def pixelCov (r : Rec) (i : Nat) : BitVec 4 := BitVec.ofNat 4 (quadCov r / 2 ^ (4 * i))
/-- The RASTER node whose edge carried a quad record. -/
def quadSource (g : Run) (r : Rec) : Option Raster :=
  match r.edge with
  | none => none
  | some k => g.rasters.find? (fun x => decide (((g.edges[k]?).map (fun e => e.src)) = some x.node.toNat))
/-- Lanes of a wave of quad records: helper lanes, and the places of the others in latch order (06 R186 R187). -/
def quadHelpers (batch : List Rec) : Mask :=
  maskOf (fun l => match batch[l / 4]? with
    | some r => decide (pixelCov r (l % 4) = 0)
    | none => false) allLanes
def quadLatch (g : Run) (batch : List Rec) : List LatchLane :=
  allLanes.filterMap (fun l => match batch[l / 4]? with
    | none => none
    | some r => match quadSource g r with
      | none => none
      | some x =>
        if pixelCov r (l % 4) = 0 then none
        else some { lane := BitVec.ofNat 5 l, run := g.id, node := x.node, pos := r.latch,
                    px := BitVec.ofNat 17 (quadX r + l % 4 % 2), py := BitVec.ofNat 17 (quadY r + l % 4 / 2),
                    samples := pixelCov r (l % 4), perSample := x.block.getLsbD 5, entered := false, released := false })

/-- A node is fed by the edge of a RASTER node (06 R185). -/
def nodeFed (r : Run) (node : Nat) : Bool :=
  r.edges.any (fun e => decide (e.dst = node) && decide ((r.nodes.getD e.src blankNode).kind = 4))

/-- The state a wave starts in, on its place (01 R17, 02 R68 R69). -/
def startWave (g : Run) (t : Team) (x y z : Nat) (w : Wave) : Wave :=
  let n := runNode g t.node
  let mesh := t.task.isSome
  let fed := nodeFed g t.node.toNat && !mesh
  let m := launchMask n.kind fed t.batch.length
  { w with
    slotA := .ready { pc := n.entry, mask := m, fmt := n.fmt, jpc := 0, jv := false }, everLive := m,
    sr := cellsWriteAll [] (launchScalars n t t.batch.length x y z w.num.toNat),
    tlane := cellsWriteAll [] (allLanes.map (fun l => (l, BitVec.ofNat 10 (32 * w.num.toNat + l)))),
    recix := cellsWriteAll [] (allLanes.map (fun l => (l, launchRecix n.kind fed mesh t.batch.length w.num.toNat l))),
    quad := n.quad, helper := if fed then quadHelpers t.batch else 0, latch := if fed then quadLatch g t.batch else [] }

end Sys2Proof.Machine
end

