-- ==== Sys2Proof/Machine/Mailbox.lean ====
section
/-! DEFINITION. Responses of the management mailbox (16 R395 R396), and how a hardware queue stops and goes on (16 R385 R393
R400). -/

namespace Sys2Proof.Machine

/-! ### Responses -/

/-- A field of a packet: its header, and its value padded to a multiple of 8 bytes (16 R395). -/
def fieldBytes (f : PktField) : List Byte :=
  leBytes f.ftype.toNat 2 ++ leBytes f.value.length 2 ++ List.replicate 4 0 ++ f.value ++
    List.replicate ((8 - f.value.length % 8) % 8) 0
/-- A response: TYPE, LEN, SEQ, STATUS, and the request's CTX (notes/assumptions/37.md). -/
def responseBytes (type seq status : BitVec 16) (c : CtxNum) (fs : List PktField) : List Byte :=
  let body := fs.flatMap fieldBytes
  leBytes type.toNat 2 ++ leBytes (16 + body.length) 2 ++ leBytes seq.toNat 2 ++ leBytes status.toNat 2 ++
    leBytes c.toNat 8 ++ body

/-- Firmware writes a response, clears BUSY, sets DONE and sends vector 0 (16 R396). -/
def respond (s : State) (type seq status : BitVec 16) (c : CtxNum) (fs : List PktField) : State :=
  irq { s with mail := { s.mail with
          resp := cellsWriteAll [] ((List.range 4096).zip (responseBytes type seq status c fs)),
          busy := false, done := true, door := none, owed := none, stale := none } } 0
/-- A packet that is answered later: PREEMPT, RESTORE or RESET (16 R398). -/
def respondOwed (s : State) (type : BitVec 16) (c : CtxNum) : State :=
  match s.mail.owed with
  | some (t, x, seq) => if t = type ∧ x = c then respond s t seq 0 x [] else s
  | none => s

/-- An atomic of the context is under way with the places it found when it began. -/
def placesHeld (s : State) (c : CtxNum) : Bool :=
  s.waves.any (fun w => decide (waveCtx s w = c) && w.pend.any (fun p => p.begun && !p.performed))
/-- A packet that removed or narrowed translations is answered once no TLB holds an entry of the range and every access that
used one has been performed (15 R361). -/
def staleDone (s : State) : State :=
  match s.mail.stale, s.mail.owed with
  | some (lo, hi), some (t, c, seq) => if tlbHolds s c lo hi || placesHeld s c then s else respond s t seq 0 c []
  | _, _ => s
/-- The answer of a packet of a type that changed the translations of a range (15 R361). -/
def answerEdit (s : State) (type seq : BitVec 16) (c : CtxNum) (lo hi : Nat) : State :=
  staleDone { s with mail := { s.mail with owed := some (type, c, seq), stale := some (lo, hi) } }

/-! ### Queues -/

/-- Changes the queues bound to a context. -/
def mapCtxQueues (s : State) (c : CtxNum) (f : QueueNum → Queue → State → State) : State :=
  (List.range 32).foldl (fun acc n =>
    let q : QueueNum := BitVec.ofNat 5 n
    let x := getQueue acc q
    if x.bound && decide (x.ctx = c) then f q x acc else acc) s

/-- A queue meets an error: it stops at PC in ERROR, and its vector is sent (16 R393). A queue that HALT stops after this
instruction is IDLE with EN = 0 all the same (16 R385, notes/assumptions/92.md). -/
def queueError (s : State) (q : QueueNum) (code : BitVec 8) : State :=
  irq (updQueue s q (fun x => { x with
    state := if x.halting then .idle else .error, en := x.en && !x.halting, qerr := code, qerrpc := x.pc.setWidth 32,
    wait := none, copy := none, halting := false })) (q.toNat + 1)

/-- The queues of a context go on after a restore (16 R398 R400): a waiting queue reads again, its timeout counting on. -/
def resumeQueue (clk : Nat) (x : Queue) : Queue :=
  { x with paused := false,
           wait := x.wait.map (fun w => { w with woken := true, first := w.first + (clk - w.last), last := clk }) }
def resumeQueues (s : State) (c : CtxNum) : State :=
  mapCtxQueues s c (fun q x acc => if x.paused then updQueue acc q (resumeQueue (masterClock acc 0)) else acc)
/-- Its queues stop at instruction boundaries; a WAITING queue keeps the time of its stop in the clock of its last read. -/
def stopQueue (clk : Nat) (x : Queue) : Queue := { x with paused := true, wait := x.wait.map (fun w => { w with last := clk }) }
def stopQueues (s : State) (c : CtxNum) : State :=
  mapCtxQueues s c (fun q _ acc => updQueue acc q (stopQueue (masterClock acc 0)))
/-- A queue of the context is still in a COPY (16 R398 R400). -/
def queuesCopying (s : State) (c : CtxNum) : Bool :=
  s.queues.any (fun x => x.bound && decide (x.ctx = c) && x.copy.isSome)

end Sys2Proof.Machine
end

