-- ==== Sys2Proof/Machine/Scheduler.lean ====
section
/-! DEFINITION. The graph scheduler: batches, reservations, the choice of the next batch, launches and mesh teams (02 R66 to
R69 R74 R79 to R81 R85 to R89 R95, 01 R59 R60). State.who names the stack of an event, and the core tried first. -/

namespace Sys2Proof.Machine

/-! ### Batches (02 R66 R85 R86, 06 R185) -/

/-- A stack's part of a node's queue, in order of arrival. -/
def queuePart (s : State) (run : Nat) (node : BitVec 8) (k : StackNum) : List Rec :=
  s.recs.filter (fun x => decide (x.run = run) && decide (x.node = node) && decide (x.stk = k) && !x.transit)

/-- Quad records of the next wave: up to 8, closed before a record whose quad already appears (06 R185). -/
def quadBatch : List (Nat × Nat) → Nat → List Rec → Nat × Bool
  | _, n, [] => (n, decide (n = 8))
  | seen, n, r :: rs =>
    if n = 8 ∨ seen.contains (quadX r, quadY r) then (n, true) else quadBatch ((quadX r, quadY r) :: seen) (n + 1) rs

/-- The home stack of a RASTER node. -/
def rasterHome (x : Raster) : StackNum := x.block.extractLsb' 192 1
/-- A record of a RASTER node that has still to cross to the home stack (06 R173). -/
def crossesHome (r : Run) (x : Rec) : Bool :=
  r.rasters.any (fun g => decide (g.node = x.node) && decide (rasterHome g ≠ x.stk))
/-- Records on the hinge link (02 R91, 06 R173). -/
def runTransit (s : State) (r : Run) : Bool :=
  s.recs.any (fun x => decide (x.run = r.id) && (x.transit || crossesHome r x)) || r.steals.any (fun v => v.served)
/-- A team that has not ended. -/
def teamOpen (t : Team) : Bool := !teamEnded t
/-- The graph run has drained (02 R85). -/
def runDrained (s : State) (r : Run) : Bool := !(runTeams s r).any teamOpen && !runTransit s r

/-- Why a batch may launch. -/
inductive Trigger
  | now | timeout | drain
deriving DecidableEq, Repr

def oldestSince : List Rec → Nat
  | [] => 0
  | [r] => r.since
  | r :: rs => min r.since (oldestSince rs)
/-- Whether a partial batch may launch (02 R85). -/
def partialTrigger (s : State) (r : Run) (n : Node) (k : StackNum) (part : List Rec) : Option Trigger :=
  if n.gtime = 0 then some .now
  else if n.gtime ≠ 65535 ∧ oldestSince part + 64 * n.gtime ≤ masterClock s k then some .timeout
  else if runDrained s r then some .drain
  else none

/-- A full batch of a gathering node (02 R66). -/
def fullBatch (n : Node) : Nat := if n.kind = 1 then n.trec else 32
/-- How many records of a part would launch now, and why. A RASTER node forms no team of its own: its binner takes the records
(DESIGN CHOICE, notes/assumptions/8.md). -/
def batchSize (s : State) (r : Run) (node : BitVec 8) (k : StackNum) (part : List Rec) : Option (Nat × Trigger) :=
  let n := runNode r node
  if part.isEmpty ∨ n.kind = 4 then none
  else if n.kind = 2 ∨ n.kind = 6 then some (1, .now)
  else if nodeFed r node.toNat then
    let q := quadBatch [] 0 part
    if q.2 then some (q.1, .now) else (partialTrigger s r n k part).map (fun t => (q.1, t))
  else if fullBatch n ≤ part.length then some (fullBatch n, .now)
  else (partialTrigger s r n k part).map (fun t => (part.length, t))

/-- The records a gather takes: spilled before stored, the oldest first (02 R86); quads in latch order (06 R185). -/
def pickBatch (r : Run) (node : BitVec 8) (part : List Rec) (n : Nat) : List Rec :=
  if nodeFed r node.toNat then part.take n
  else (part.filter (fun x => x.spilled) ++ part.filter (fun x => !x.spilled)).take n
def takeRecs (s : State) (batch : List Rec) : State := { s with recs := batch.foldl (fun l x => l.erase x) s.recs }

/-! ### Reservations (02 R79 R80 R87) -/

/-- The reservation of one port for n records in full, or none. -/
def reservePort (s : State) (run tid n : Nat) (cyc : Bool) (port : Nat) : Option State :=
  match findRun s run, findTeam s tid with
  | some r, some t =>
    (match portEdge r t.node port with
      | none => some (updTeam s tid (fun t => { t with rsv := t.rsv ++ [blankRsv] }))
      | some k =>
        let e := r.edges.getD k { src := 0, port := 0, dst := 0, depth := 0, cyc := false, back := false, ring := false, slotKb := 0 }
        if e.ring then some (updTeam s tid (fun t => { t with rsv := t.rsv ++ [blankRsv] }))
        else
          let room := recordsFree s r.ctx
          let a := min n (min (storeFree s r (BitVec.ofNat 8 e.dst) t.stk) room)
          let b := min (n - a) (min (spillFree s r.ctx) (room - a))
          let c := n - a - b
          let have' := ((r.reserves.find? (fun v => decide (v.stk = t.stk) && decide (v.edge = k))).map (fun v => v.left)).getD 0
          if c = 0 ∨ (e.cyc ∧ cyc ∧ c ≤ have') then
            let s := updRun s run (fun r => { r with reserves := r.reserves.map (fun v =>
              if v.stk = t.stk ∧ v.edge = k then { v with left := v.left - c } else v) })
            some (updTeam s tid (fun t => { t with rsv := t.rsv ++ [{ store := a, spill := b, cycle := c, app := 0 }] }))
          else none)
  | _, _ => none
/-- The reservation on every port below OUTS: EMITMAX x b records (02 R79). -/
def reserveAll (s : State) (run tid b : Nat) (cyc : Bool) (n : Node) : Option State :=
  (List.range n.outs).foldl (fun acc p => match acc with
    | some s => reservePort s run tid (n.emitmax.getD p 0 * b) cyc p
    | none => none) (some s)
/-- A reservation of a batch of the node may draw on a cycle reserve (02 R87). -/
def mayDrawCycle (r : Run) (node : BitVec 8) (b : Nat) : Bool :=
  decide (b ≤ 32) && r.edges.any (fun e => decide (e.dst = node.toNat) && e.cyc)

/-! ### A team and its placement (01 R18, 02 R68) -/

/-- What an attempt to place a team comes to. -/
inductive Tried
  | placed (s : State)
  | refused
  | noRoom

def freshTeam (s : State) (r : Run) (node : BitVec 8) (k : StackNum) (batch : List Rec) (launch idx : Word)
    (task : Option (Nat × BitVec 3)) : Team :=
  let n := runNode r node
  { blankTeam with
    id := s.nextId, run := r.id, node := node, ctx := r.ctx, stk := k, status := .queued, pair := n.pair,
    vendor := fixedNode n, nwaves := n.twaves, nl := 32 * n.twaves, tiles := nodeTiles n, launch := launch, teamIdx := idx,
    batch := batch, recsHeld := true, depth := BitVec.ofNat 8 ((batch.map (fun x => (tagDepth x.tag).toNat)).foldl max 0),
    nbars := n.bars, task := task, winSize := 1024 * n.lstore }

/-- Tiles read zero at placement (05 R145). -/
def zeroTiles (s : State) (cl : ClusterNum) (blocks : List Nat) : State :=
  { s with tiles := blocks.foldl (fun c b => cellsClear c (4096 * (32 * cl.toNat + 8 * b)) 32768) s.tiles }

/-- PBASE that the scheduler gives a team: the page that the event names (03 R101; notes/assumptions/38.md). -/
def chosenPbase (s : State) : Nat := 4096 * s.who.count
/-- Gives a team the resources of a placement. -/
def installTeam (s : State) (t : Team) (p : Placement) : State :=
  let ws := placedWaves s t.id s.nextId p.places
  let s := zeroTiles { s with waves := s.waves ++ ws, nextId := s.nextId + ws.length } (coreCluster p.core) p.tblocks
  updTeam s t.id (fun t => { t with
    core := p.core, winBase := p.winBase, copyBase := p.copyBase, rings := p.rings, tblocks := p.tblocks,
    pbase := chosenPbase s, placedAt := masterClock s t.stk,
    barExpect := cellsWriteAll [] ((List.range t.nbars).map (fun b => (b, BitVec.ofNat 8 t.nwaves))) })

/-- A team of a batch with its reservation for b records and its placement, both in full or nothing (02 R79). -/
def makeTeam (s : State) (r : Run) (t : Team) (b : Nat) (find : State → Option Placement) : Tried :=
  let s1 : State := { s with teams := s.teams ++ [t], nextId := s.nextId + 1 }
  match reserveAll s1 r.id t.id b (mayDrawCycle r t.node b) (runNode r t.node) with
  | none => .refused
  | some s2 => match find s with
    | none => .noRoom
    | some p => .placed (installTeam s2 t p)

/-! ### Launches (02 R68 R69 R74) -/

/-- The cores of a team's waves. -/
def teamCores (s : State) (tid : Nat) : List CoreNum := ((teamWaves s tid).map (fun w => w.core)).eraseDups
/-- The rays of a TRAVERSE team: the root node's child word on each stack (06 R190). -/
def startRays (batch : List Rec) : List RayState :=
  (List.range batch.length).map (fun i => { recIx := i, todo := [0x40000000], best := none, kind := none })
/-- A placed team starts: its waves take their launch state, pull the release tags of the team's records and acquire at .dev
(02 R74, 03 R118). -/
def startTeam (s : State) (tid x y z : Nat) : State :=
  match findTeam s tid with
  | none => s
  | some t =>
    match findRun s t.run with
    | none => s
    | some g =>
      let n := runNode g t.node
      let cores := teamCores s tid
      let s := updTeam s tid (fun t => { t with
        status := .running, rays := if n.kind = 5 then startRays t.batch else [] })
      let s := updRun s g.id (fun r => { r with cores := (r.cores ++ cores).eraseDups })
      let s := if t.vendor then s else mapTeamWaves s tid (startWave g t x y z)
      cores.foldl (fun acc c => invalidate (pullRecords acc (some c) (t.batch.map (fun x => x.tag))) c) s

/-- A launch identity: a count of the stack with bit 31 the stack number (02 R68). -/
def nextLaunch (s : State) (k : StackNum) : Word × State :=
  (k ++ (getStack s k).launchId,
   updStack s k (fun t => { t with launchId := t.launchId + 1, launches := t.launches + 1 }))

/-- A batch of records that are all in the stack's part. -/
def tryBatch (s : State) (r : Run) (node : BitVec 8) (k : StackNum) (pref : CoreNum) (batch : List Rec) : Tried :=
  let l := nextLaunch s k
  match makeTeam (takeRecs l.2 batch) r (freshTeam l.2 r node k batch l.1 0 none) batch.length
      (fun s => findPlacement s (nodeNeed r node) k pref) with
  | .placed s' => .placed (startTeam s' s.nextId 0 0 0)
  | x => x

/-- X, Y and Z of a GRID record, and whether it breaks 02 R67. -/
def gridDim (x : Rec) (a : Nat) : Nat := (wordAt x.bytes (4 * a)).toNat
def gridBad (x : Rec) : Bool :=
  [0, 1, 2].any (fun a => decide (gridDim x a = 0) || decide (65535 < gridDim x a)) || decide (4294967295 < gridTeams x)
/-- An invalid GRID record launches no team, is counted in ERRREC and discarded (02 R67). -/
def discardGrid (s : State) (r : Run) (x : Rec) : State :=
  updCtx (freeRec s x) r.ctx (fun c => { c with errrec := satCount c.errrec 1 })

/-- Team idx of a grid (02 R67 R68). -/
def tryGridTeam (s : State) (r : Run) (node : BitVec 8) (k : StackNum) (pref : CoreNum) (x : Rec) (launch : Word)
    (idx : Nat) : Tried :=
  match makeTeam s r (freshTeam s r node k [x] launch (BitVec.ofNat 32 idx) none) 1
      (fun s => findPlacement s (nodeNeed r node) k pref) with
  | .placed s' =>
    .placed (startTeam s' s.nextId (idx % gridDim x 0) (idx / gridDim x 0 % gridDim x 1) (idx / (gridDim x 0 * gridDim x 1)))
  | y => y
def newWalk (k : StackNum) (node : BitVec 8) (x : Rec) (launch : Word) : GridWalk :=
  { stk := k, node := node, record := x, launch := launch, next := 1, ended := 0, bad := false }
/-- The first team of a GRID record: the walk begins, and the record keeps its slot (02 R67). -/
def tryGrid (s : State) (r : Run) (node : BitVec 8) (k : StackNum) (pref : CoreNum) (x : Rec) : Tried :=
  if gridBad x then .placed (discardGrid (takeRecs s [x]) r x)
  else
    let l := nextLaunch s k
    let s := updRun (takeRecs l.2 [x]) r.id (fun r => { r with grids := r.grids ++ [newWalk k node x l.1] })
    tryGridTeam s ((findRun s r.id).getD r) node k pref x l.1 0
/-- The next team of a walk. -/
def tryWalk (s : State) (r : Run) (g : GridWalk) (pref : CoreNum) : Tried :=
  match tryGridTeam s r g.node g.stk pref g.record g.launch g.next with
  | .placed s' => .placed (updRun s' r.id (fun r => { r with grids := r.grids.map (fun x =>
      if x.stk = g.stk ∧ x.launch = g.launch then { x with next := x.next + 1 } else x) }))
  | x => x

/-! ### Mesh teams (02 R95 R96) -/

/-- The first payload of a ring that no mesh team has taken. -/
def nextPayload (g : Ring) : Option Payload := g.pays.find? (fun p => decide (p.team = none))
/-- The node that a ring's mesh teams belong to. -/
def meshNode (r : Run) (task : Team) (port : BitVec 3) : BitVec 8 :=
  match portEdge r task.node port.toNat with
  | some k => BitVec.ofNat 8 (((r.edges[k]?).map (fun e => e.dst)).getD 0)
  | none => 0
/-- The placement that room set aside gives. -/
def roomPlacement (r : MeshRoom) (rings : List Ring) : Placement :=
  { core := ((r.places.head?).map (fun p => p.1)).getD 0,
    places := ((List.range r.places.length).zip r.places).map (fun x =>
      { core := x.2.1, part := x.2.2.1, wslot := x.2.2.2, num := x.1, granules := r.granules }),
    winBase := r.winBase, copyBase := r.copyBase, rings := rings, tblocks := [] }
/-- A mesh team in the room set aside for it (02 R95). Its tiles, and rings of its own, come from outside that room (05 R145). -/
def meshFromRoom (s : State) (n : Need) (r : MeshRoom) : Option Placement :=
  let p := roomPlacement r []
  let pair := corePair p.core
  let blocks := (blocksFree s (coreCluster p.core)).take (n.tiles / 8)
  match allocRanges (pairSize s pair) (localUsed s pair) (ringSizes n.rings) with
  | none => none
  | some bases => match placeRooms s p.core n.rings bases [] with
    | none => none
    | some (rings, _) =>
      if blocks.length = n.tiles / 8 ∧ barsFit s p.core { n with bars := 0 } rings = true then
        some { p with tblocks := blocks, rings := rings }
      else none
/-- A place on the task team's pair. -/
def meshOnPair (s : State) (n : Need) (core : CoreNum) : Option Placement :=
  if n.pair then placeOn s n (memberCore core true 0)
  else match placeOn s n core with
    | some p => some p
    | none => placeOn s n (otherCore core)
def takeRoom (s : State) (task : Nat) (port : BitVec 3) : State :=
  updTeam s task (fun t => updRing t port (fun g => { g with room := none }))
/-- The next mesh team of a ring: in the room set aside where it is there, else on the pair. -/
def tryMesh (s : State) (r : Run) (task : Team) (g : Ring) : Tried :=
  match nextPayload g with
  | none => .noRoom
  | some p =>
    let node := meshNode r task g.port
    let n := nodeNeed r node
    let l := nextLaunch s task.stk
    let x : Rec := { run := r.id, node := node, stk := task.stk, slot := task.stk, tag := p.tag, bytes := p.bytes, edge := none,
                     spilled := false, since := p.since, transit := false, latch := 0 }
    let t := freshTeam l.2 r node task.stk [x] l.1 0 (some (task.id, g.port))
    let got := match g.room.bind (meshFromRoom l.2 n) with
      | some q => makeTeam (takeRoom l.2 task.id g.port) r t 1 (fun _ => some q)
      | none => makeTeam l.2 r t 1 (fun s => meshOnPair s n task.core)
    match got with
    | .placed s' =>
      let s' := updTeam s' task.id (fun v => updRing v g.port (fun y =>
        { y with pays := y.pays.map (fun z => if z.slot = p.slot then { z with team := some t.id } else z) }))
      .placed (startTeam s' t.id 0 0 0)
    | y => y

/-! ### The choice of the next batch (02 R89) -/

/-- What a candidate would place. -/
inductive CandKind
  | batch (n : Nat) (why : Trigger)
  | grid
  | walk (g : GridWalk)
  | mesh (task : Nat) (port : BitVec 3)
deriving DecidableEq, Repr
structure Cand where
  run : Nat
  node : BitVec 8
  prio : Nat
  since : Nat
  kind : CandKind
deriving DecidableEq, Repr

/-- The scheduler places for the runs of LIVE contexts that no pre-emption has stopped (15 R376). -/
def runOpen (s : State) (r : Run) : Bool :=
  let x := getCtx s r.ctx
  decide (x.state = .live) && !x.saving
/-- The batch that a node would launch, with the age of its oldest record. -/
def nodeCand (s : State) (r : Run) (k : StackNum) (node : BitVec 8) : Option Cand :=
  let part := queuePart s r.id node k
  match batchSize s r node k part with
  | none => none
  | some (n, why) => some
      { run := r.id, node := node, prio := nodePriority s r.id node, since := oldestSince (pickBatch r node part n),
        kind := if (runNode r node).kind = 2 then .grid else .batch n why }
def walkCand (s : State) (r : Run) (g : GridWalk) : Cand :=
  { run := r.id, node := g.node, prio := nodePriority s r.id g.node, since := g.record.since, kind := .walk g }
def meshCands (s : State) (r : Run) (k : StackNum) : List Cand :=
  ((runTeams s r).filter (fun t => decide (t.stk = k) && ringsStand t)).flatMap (fun t => t.rings.filterMap (fun g =>
    (nextPayload g).map (fun p =>
      { run := r.id, node := meshNode r t g.port, prio := nodePriority s r.id (meshNode r t g.port), since := p.since,
        kind := .mesh t.id g.port })))
def candsOf (s : State) (k : StackNum) : List Cand :=
  (s.runs.filter (runOpen s)).flatMap (fun r =>
    meshCands s r k ++
    (r.grids.filter (fun g => decide (g.stk = k) && decide (g.next < gridTeams g.record))).map (walkCand s r) ++
    (List.range r.nodes.length).filterMap (fun i => nodeCand s r k (BitVec.ofNat 8 i)))
/-- Higher effective priority, older oldest record, lower node index (02 R89). Candidates of different runs that these leave equal
come in the order of State.runs (DESIGN CHOICE, notes/assumptions/93.md). -/
def candBefore (a b : Cand) : Bool :=
  if a.prio ≠ b.prio then decide (b.prio < a.prio)
  else if a.since ≠ b.since then decide (a.since < b.since)
  else decide (a.node.toNat ≤ b.node.toNat)
def insertCand (a : Cand) : List Cand → List Cand
  | [] => [a]
  | b :: r => if candBefore a b then a :: b :: r else b :: insertCand a r

def tryCand (s : State) (k : StackNum) (pref : CoreNum) (c : Cand) : Tried :=
  match findRun s c.run with
  | none => .noRoom
  | some r => match c.kind with
    | .batch n _ => tryBatch s r c.node k pref (pickBatch r c.node (queuePart s r.id c.node k) n)
    | .grid => (match queuePart s r.id c.node k with
      | [] => .noRoom
      | part => match pickBatch r c.node part 1 with
        | x :: _ => tryGrid s r c.node k pref x
        | [] => .noRoom)
    | .walk g => tryWalk s r g pref
    | .mesh t port => (match findTeam s t with
      | none => .noRoom
      | some t => match ringOf t port with
        | some g => tryMesh s r t g
        | none => .noRoom)

/-- A refused reservation is counted (16 R399). -/
def countRefused (s : State) (k : StackNum) : State := updStack s k (fun t => { t with refused := t.refused + 1 })
/-- The first candidate that can be placed and reserved, and the state with it placed: a candidate that cannot does not block
a later one (02 R89). The state of the second part counts the refusals. -/
def firstPlaced (s : State) (k : StackNum) (pref : CoreNum) : List Cand → Option (Cand × State) × State
  | [] => (none, s)
  | c :: r => match tryCand s k pref c with
    | .placed s' => (some (c, s'), s)
    | .refused => firstPlaced (countRefused s k) k pref r
    | .noRoom => firstPlaced s k pref r

/-- Places the scheduler's next batch where it is of the kind an event stands for. -/
def placeNext (s : State) (k : StackNum) (pref : CoreNum) (ok : Cand → Bool) : State :=
  match firstPlaced s k pref ((candsOf s k).foldr insertCand []) with
  | (some (c, s'), s0) => if ok c then s' else s0
  | (none, s0) => s0
def isMeshCand (c : Cand) : Bool := match c.kind with
  | .mesh _ _ => true
  | _ => false
/-- A batch that launches for a reason; grids and walks launch at once. -/
def isTrigger (t : Trigger) (c : Cand) : Bool := match c.kind with
  | .batch _ why => decide (why = t)
  | .mesh _ _ => false
  | _ => decide (t = .now)

/-- GATHER_TIMEOUT (02 R85). -/
def execGatherTimeout (s : State) : Host.Outcome State Fault Refusal :=
  finish (placeNext s s.who.stk s.who.core (isTrigger .timeout))
/-- GRAPH_DRAIN (02 R85). -/
def execGraphDrain (s : State) : Host.Outcome State Fault Refusal :=
  finish (placeNext s s.who.stk s.who.core (isTrigger .drain))
/-- MESH_PLACE (02 R95). -/
def execMeshPlace (s : State) : Host.Outcome State Fault Refusal :=
  finish (placeNext s s.who.stk s.who.core isMeshCand)

end Sys2Proof.Machine
end

