-- ==== Sys2Proof/Machine/Lifecycle.lean ====
section
/-! DEFINITION. Steals and crossings (02 R91), completion signals (02 R93, 16 R390), the end of a team (02 R83 R84 R93 R96) and
of a run (02 R94). -/

namespace Sys2Proof.Machine

/-! ### Completion signals (02 R93 R94, 16 R390) -/

/-- A release by a core for one context's bytes at a line: lazy where it may be, else eager (03 R116 R117 R119). -/
def signalRelease (s : State) (c : CtxNum) (l : Loc) (lazy : Bool) (core : CoreNum) : State :=
  if lazy ∧ l.host = false ∧ tagRoom s core (l.addr / 64) = true then lazyTag s core c (some c) (.line (l.addr / 64))
  else eagerCleanCtx s core c

/-- A fault-log record of a unit that is no wave (15 R375): no slot raised it, and no rule gives its DELIV, which is free. -/
def unitRecord (s : State) (c : Cause) (k : BitVec 3) (addr : DWord) (t : Option Team) (halted : Bool) : LogRec × State :=
  let q := freeVal s
  let i : TrapInfo := { cause := c, code := if c = .translation then (0 : BitVec 9) ++ k else 0, deliv := .issue, slot := 3,
                        fkind := k, flane := 0, faddr := addr, tpc := 0, resume := 0, iter := 0, res := 0 }
  ({ cause := headerWord0 i 0 false ||| ((q.1.extractLsb' 0 2).setWidth 64 <<< 41), faddr := addr, pc := 0,
     team := (t.map headerWord16).getD 0, ids := (t.map (fun t => headerWord17 t { blankWave with core := t.core, allot := 0 })).getD 0,
     nested := false, halted := halted }, q.2)
def logUnit (s : State) (x : CtxNum) (c : Cause) (k : BitVec 3) (addr : DWord) (t : Option Team) (halted : Bool) : State :=
  let r := unitRecord s c k addr t halted
  writeLog r.2 x r.1

/-- The atomic add of 1 to a signal, with bit 63 where something faulted, after the releases of the given cores. A signal
that cannot be written leaves a record in the context's fault log. -/
def addSignal (s : State) (c : CtxNum) (sig : DWord) (bad lazy : Bool) (cores : List CoreNum) (t : Option Team) : State :=
  if sig = 0 then s
  else match translate s c sig .write with
    | .error k => logUnit s c .translation k sig t false
    | .ok l =>
      if rangePoisoned s l 8 then logUnit s c .softError 0 sig t false
      else
        let s := cores.foldl (fun acc core => signalRelease acc c l lazy core) s
        if l.host ∧ s.hostAtomics = false then logUnit s c .hostAtomic 0 sig t false
        else
          let v := leNat (homeRead s l 8) + 1
          let x : DWord := BitVec.ofNat 64 v ||| (if bad then BitVec.twoPow 64 63 else 0)
          homeWrite s l (leBytes x.toNat 8)

/-! ### The end of a team (02 R93, 01 R45) -/

/-- Every wave of a team has gone, and its outstanding work has ended. -/
def waveFinished (w : Wave) : Bool :=
  !waveLive w && decide (w.status = .exited ∨ w.status = .retired) && w.pend.isEmpty && w.sq.isEmpty && w.tests.isEmpty &&
    w.nets.isEmpty && decide (w.cntCopy = 0) && decide (w.cntMatrix = 0) && decide (w.cntNet = 0) && decide (w.cntTest = 0)
def teamFinished (s : State) (t : Team) : Bool :=
  decide (t.status = .running) && !teamStopped s t && (teamWaves s t.id).all waveFinished && t.copies.isEmpty

/-- Sets room aside again for the next mesh team of a ring, where it fits (02 R95 R96; notes/assumptions/39.md). -/
def refillRoom (s : State) (task : Nat) (port : BitVec 3) : State :=
  match findTeam s task with
  | none => s
  | some t =>
    match ringOf t port, findRun s t.run with
    | some g, some r =>
      if g.room.isSome ∨ teamPlaced t = false then s
      else
        let n := nodeNeed r (meshNode r t port)
        (match meshPlaces s t.core n.pair n.waves [],
            allocRanges (pairSize s (corePair t.core)) (localUsed s (corePair t.core)) [n.winSize, 2048] with
          | some acc, some bases =>
            let places := acc.reverse.map (fun p => (p.core, p.part, p.wslot))
            let own := ((places.head?).map (fun p => p.1)).getD t.core
            if barsUsed s own + n.bars ≤ 32 then
              let room : MeshRoom :=
                { winBase := bases.getD 0 0, winSize := n.winSize, copyBase := bases.getD 1 0,
                  granules := (n.waves.head?.map (fun w => w.2)).getD 0, bars := n.bars, places := places }
              updTeam s task (fun t => updRing t port (fun g => { g with room := some room }))
            else s
          | _, _ => s)
    | _, _ => s


/-- A team becomes DONE or FAULTED (02 R83 R84 R93). -/
def endTeam (s : State) (t : Team) : State :=
  let bad := t.faultedMark
  let cores := teamCores s t.id
  let s := if t.tdone then s else teamDone s t.id bad
  let s := updTeam s t.id (fun t => { t with status := if bad then .faulted else .done })
  let s := updRun s t.run (fun r => { r with faulted := r.faulted || bad })
  let s := addSignal s t.ctx (teamNode s t).sig bad true cores (some t)
  let s := retireTask s t.id
  match t.task with
  | some (task, port) => retireTask (refillRoom s task port) task
  | none => s
/-- TEAM_END (02 R93): State.who names the team. -/
def execTeamEnd (s : State) : Host.Outcome State Fault Refusal :=
  match findTeam s s.who.team with
  | some t => finish (if teamFinished s t then endTeam s t else s)
  | none => .next s

/-! ### The end of a run (02 R94) -/

def rasterIdle (x : Raster) : Bool := x.stopped || (x.finalDone && x.flush.isNone)
/-- A run is quiescent. -/
def runQuiet (s : State) (r : Run) : Bool :=
  s.recs.all (fun x => decide (x.run ≠ r.id)) && (runTeams s r).isEmpty && r.steals.isEmpty && r.grids.isEmpty &&
    r.rasters.all rasterIdle
/-- The run's slots and reserves go, the context becomes IDLE with its last run, and the signal is written. -/
def endRun (s : State) (r : Run) : State :=
  let s := { s with runs := s.runs.filter (fun x => decide (x.id ≠ r.id)) }
  let s := if (ctxRuns s r.ctx).isEmpty then updCtx s r.ctx (fun x => { x with state := .idle }) else s
  addSignal s r.ctx r.sig (r.faulted || r.rasters.any (fun x => x.stopped)) r.lazy r.cores none
/-- RUN_QUIESCENCE (02 R94): State.who names the run. -/
def execRunQuiescence (s : State) : Host.Outcome State Fault Refusal :=
  match findRun s s.who.run with
  | some r => finish (if runQuiet s r && runOpen s r then endRun s r else s)
  | none => .next s

/-! ### Stealing (02 R91 R92) -/

/-- The other stack. -/
def otherStack (k : StackNum) : StackNum := ~~~k
/-- The conditions of a steal of a node by a stack, but for its own placement. -/
def stealOpen (s : State) (r : Run) (k : StackNum) (node : BitVec 8) : Bool :=
  let n := runNode r node
  let part := queuePart s r.id node (otherStack k)
  runOpen s r && decide (node.toNat < r.nodes.length) && decide (n.kind ≠ 4) && !nodeFed r node.toNat &&
    (queuePart s r.id node k).isEmpty && r.steals.all (fun v => decide (v.stk ≠ k) || decide (v.node ≠ node)) &&
    (if n.kind = 2 then decide (32 ≤ part.length) else (batchSize s r node (otherStack k) part).isSome)
/-- Records a stolen team is placed for: a full batch. -/
def stealBatch (n : Node) : Nat := if n.kind = 2 ∨ n.kind = 6 then 1 else fullBatch n

/-- The stealing stack holds a placement and a reservation, and requests. -/
def stealRequest (s : State) (r : Run) (k : StackNum) (pref : CoreNum) (node : BitVec 8) : State :=
  if stealOpen s r k node then
    match makeTeam s r (freshTeam s r node k [] 0 0 none) (stealBatch (runNode r node))
        (fun s => findPlacement s (nodeNeed r node) k pref) with
    | .placed s' => updRun s' r.id (fun g => { g with
        steals := g.steals ++ [{ stk := k, node := node, team := s.nextId, served := false }] })
    | .refused => countRefused s k
    | .noRoom => s
  else s
/-- STEAL_REQUEST (02 R91): State.who names the stealing stack, the run, the node and the core tried first. -/
def execStealRequest (s : State) : Host.Outcome State Fault Refusal :=
  match findRun s s.who.run with
  | some r => finish (stealRequest s r s.who.stk s.who.core s.who.node)
  | none => .next s

/-- What the reservation of fewer records than were asked for gives back. -/
def trimRsv (s : State) (tid n full : Nat) : State :=
  match findTeam s tid with
  | none => s
  | some t => match findRun s t.run with
    | none => s
    | some r =>
      let em := (runNode r t.node).emitmax
      (List.range t.rsv.length).foldl (fun acc p =>
        match findTeam acc tid with
        | none => acc
        | some t =>
          let v := t.rsv.getD p blankRsv
          let extra := em.getD p 0 * full - em.getD p 0 * n
          let c := min extra v.cycle
          let b := min (extra - c) v.spill
          let a := min (extra - c - b) v.store
          let acc := updRun acc r.id (fun g => returnPort g t p { store := 0, spill := b, cycle := c, app := 0 })
          updTeam acc tid (fun t => { t with
            rsv := t.rsv.set p { v with store := v.store - a, spill := v.spill - b, cycle := v.cycle - c } })) s
/-- A steal that fails, or whose stack gives it up, releases what it held. -/
def dropSteal (s : State) (r : Run) (v : Steal) : State :=
  let s := returnRsv s v.team
  let s := updRun s r.id (fun g => { g with steals := g.steals.filter (fun x => decide (x ≠ v)) })
  dropTeam s v.team
/-- A stolen record leaves its queue-store slot and takes one on the stealing stack; a spilled one keeps its spill slot (13 R346,
notes/assumptions/93.md). -/
def stolenRec (k : StackNum) (x : Rec) : Rec := if x.spilled then x else { x with slot := k }
/-- The other stack serves atomically against its gathers: the oldest records, at most a full batch, at least one. -/
def stealServe (s : State) (r : Run) (v : Steal) : State :=
  let n := runNode r v.node
  let full := stealBatch n
  let batch := (queuePart s r.id v.node (otherStack v.stk)).take full
  if v.served then s
  else if batch.isEmpty then dropSteal s r v
  else
    let s := trimRsv (takeRecs s batch) v.team batch.length full
    let s := updTeam s v.team (fun t => { t with
      batch := batch.map (stolenRec v.stk), depth := BitVec.ofNat 8 ((batch.map (fun x => (tagDepth x.tag).toNat)).foldl max 0) })
    let s := updRun s r.id (fun g => { g with steals := g.steals.map (fun x => if x = v then { x with served := true } else x) })
    { s with hinge := cellsWriteAll s.hinge [(2, cellsRead s.hinge 2 + BitVec.ofNat 64 batch.length),
                                             (3, cellsRead s.hinge 3 + 1)] }
def findSteal (s : State) : Option (Run × Steal) :=
  match findRun s s.who.run with
  | none => none
  | some r => (r.steals.find? (fun v => decide (v.stk = s.who.stk) && decide (v.node = s.who.node))).map (fun v => (r, v))
/-- STEAL_SERVE (02 R91): State.who names the stealing stack, the run and the node. -/
def execStealServe (s : State) : Host.Outcome State Fault Refusal :=
  match findSteal s with
  | some (r, v) => finish (if runOpen s r then stealServe s r v else s)
  | none => .next s

/-- The stolen records have arrived: the team launches. -/
def stealArrive (s : State) (r : Run) (v : Steal) : State :=
  let l := nextLaunch s v.stk
  let s := updRun l.2 r.id (fun g => { g with steals := g.steals.filter (fun x => decide (x ≠ v)) })
  match findTeam s v.team with
  | none => s
  | some t =>
    let x := t.batch.headD blankRec
    if (runNode r v.node).kind = 2 then
      if gridBad x then discardGrid (dropTeam (returnRsv s t.id) t.id) r x
      else
        let s := updRun s r.id (fun g => { g with grids := g.grids ++ [newWalk v.stk v.node x l.1] })
        startTeam (updTeam s t.id (fun t => { t with launch := l.1 })) t.id 0 0 0
    else startTeam (updTeam s t.id (fun t => { t with launch := l.1 })) t.id 0 0 0
/-- The oldest record of a RASTER node that stands on the other stack enters the home stack's part (06 R173). -/
def crossFirst (r : Run) (node : BitVec 8) (home : StackNum) : List Rec → List Rec
  | [] => []
  | x :: l => if x.run = r.id ∧ x.node = node ∧ x.stk ≠ home then l ++ [{ x with stk := home }] else x :: crossFirst r node home l
def rasterArrive (s : State) (r : Run) (node : BitVec 8) : State :=
  match r.rasters.find? (fun x => decide (x.node = node)) with
  | none => s
  | some g =>
    if s.recs.any (fun x => decide (x.run = r.id) && decide (x.node = node) && decide (x.stk ≠ rasterHome g)) then
      { s with recs := crossFirst r node (rasterHome g) s.recs,
               hinge := cellsWrite s.hinge 2 (cellsRead s.hinge 2 + 1) }
    else s
/-- RECORD_ARRIVAL (02 R91, 06 R173): State.who names the receiving stack, the run and the node. -/
def execRecordArrival (s : State) : Host.Outcome State Fault Refusal :=
  match findRun s s.who.run with
  | none => .next s
  | some r =>
    if runOpen s r then
      match findSteal s with
      | some (_, v) => finish (if v.served then stealArrive s r v else s)
      | none => finish (rasterArrive s r s.who.node)
    else .next s

end Sys2Proof.Machine
end

