-- ==== Sys2Proof/Machine/Vendor.lean ====
section
/-! DEFINITION. The vendor programs: the walk of a TRAVERSE node (06 R189 to R191) and the job of a MATRIX node (05 R431 to
R434). -/

namespace Sys2Proof.Machine

/-! ### Result records -/

/-- Bytes without a stated value, where a result record is shorter than the records of its destination. -/
def freeBytes (s : State) : Nat → List Byte × State
  | 0 => ([], s)
  | n + 1 =>
    let q := freeVal s
    let r := freeBytes q.2 n
    (q.1.extractLsb' 0 8 :: r.1, r.2)
/-- A record cut or filled to the size of a node's records. -/
def sizedRecord (s : State) (n : Node) (bs : List Byte) : List Byte × State :=
  let q := freeBytes s (n.rsize - bs.length)
  ((bs ++ q.1).take n.rsize, q.2)

/-- Appends a result record on port 0 of a team with the depth of 02 R72; nothing past the limit of a BACK edge. -/
def appendResult (s : State) (t : Team) (parent : Rec) (bs : List Byte) : State :=
  match findRun s t.run, teamEdge s t 0 with
  | some r, some (k, e) =>
    let depth := (tagDepth parent.tag).toNat + e.back.toNat
    if e.back ∧ e.depth < depth then s
    else
      let q := nextSeq s t.ctx t.stk
      let b := sizedRecord q.2 (r.nodes.getD e.dst blankNode) bs
      let v := ((findTeam s t.id).getD t).rsv.getD 0 blankRsv
      let spilled := decide (v.store = 0)
      let x : Rec := { run := r.id, node := BitVec.ofNat 8 e.dst, stk := t.stk, slot := t.stk,
                       tag := mkTag t.stk (BitVec.ofNat 8 depth) t.ctx q.1, bytes := b.1, edge := some k, spilled := spilled,
                       since := masterClock s t.stk, transit := false, latch := 0 }
      let s := updTeam b.2 t.id (fun t => { t with rsv := t.rsv.set 0 (useSlot v) })
      let s := updStack s t.stk (fun y => { y with appended := y.appended + 1,
                                                   spilledCount := if spilled then y.spilledCount + 1 else y.spilledCount })
      { s with recs := s.recs ++ [x] }
  | _, _ => s

/-! ### The traversal walk (06 R189 R190) -/

def rayNum (r : Rec) : Nat := leNat r.bytes
/-- A ray that is not walked: a non-zero RZ field, or a misaligned ROOT. -/
def rayMalformed (r : Rec) : Bool :=
  anyRz (rayNum r) [(351, 323), (319, 308)] || decide (bitsOf (rayNum r) 262 256 ≠ 0)
def rayRoot (r : Rec) : Nat := bitsOf (rayNum r) 307 256
/-- The operands of the tests: origin, direction, TMIN and TMAX. -/
def rayTest (r : Rec) : Ray :=
  let w := fun a => wordAt r.bytes (4 * a)
  rayOf [w 0, w 1, w 2, w 4, w 5, w 6, w 3, w 7]
/-- The result record (06 R189). -/
def rayResult (r : Rec) (x : RayState) : List Byte :=
  let user := bitsOf (rayNum r) 383 352
  let kind := (x.kind.getD 0).toNat
  match (if kind = 1 ∨ kind = 2 then x.best else none) with
  | some h => wordBytes h.out ++ leBytes user 4 ++ leBytes kind 4 ++ leBytes 0 8
  | none => leBytes 0x7F800000 4 ++ leBytes 0 12 ++ leBytes user 4 ++ leBytes kind 4 ++ leBytes 0 8

/-- A fault of the shader ends its team FAULTED at once, with one record (15 R365); no rule gives the shader's PC. -/
def shaderFault (s : State) (t : Team) (f : OpFault) : State :=
  let q := freeVal s
  let i : TrapInfo :=
    { cause := f.cause, code := if f.cause = .translation then (0 : BitVec 9) ++ f.fkind else 0,
      deliv := if f.cause = .translation ∨ f.cause = .softError then .boundary else .issue, slot := 2, fkind := f.fkind,
      flane := f.lane, faddr := f.addr, tpc := q.1.setWidth 47 ++ (0 : BitVec 5), resume := 0, iter := 0, res := 0 }
  match teamWaves q.2 t.id with
  | w :: _ => trapWave q.2 w.id .a i
  | [] => q.2

/-- Bytes of a node or triangle, through the column cache. -/
def shaderRead (s : State) (t : Team) (lane : BitVec 5) (va n : Nat) : Except OpFault (Nat × State) :=
  let a : DWord := BitVec.ofNat 64 va
  if va % n ≠ 0 then .error { cause := .misaligned, fkind := 0, lane := lane, addr := a }
  else match translateAt s t.core t.ctx a .read with
    | .error k => .error { cause := .translation, fkind := k, lane := lane, addr := a }
    | .ok l =>
      if loadPoisoned s t.core l n then .error { cause := .softError, fkind := 0, lane := lane, addr := a }
      else
        let r := cacheLoad s t.core t.ctx .none false l n
        .ok (leNat r.1, r.2)

/-- The depth at which pushing k entries on a stack of depth d meets the bounds of 06 R194 and 11 R328. -/
def pushLimit (psize d k : Nat) : Option Nat :=
  ((List.range k).map (fun j => d + j)).find? (fun x => decide (16400 ≤ x) || (decide (16 ≤ x) && decide (psize < 4 * (x - 16) + 4)))

/-- The private word of entry i of a ray's stack, with TSBASE 0 (06 R190 R194). -/
def rayEntry (s : State) (t : Team) (x : RayState) (i : Nat) (acc : Access) : Except OpFault Loc :=
  match translateAt s t.core t.ctx (privAddr t x.recIx (4 * i)) acc with
  | .ok l => .ok l
  | .error k => .error { cause := .translation, fkind := k, lane := BitVec.ofNat 5 x.recIx, addr := BitVec.ofNat 64 (4 * i) }
/-- The wave that walks the rays of a team. -/
def rayWave (s : State) (t : Team) : Nat := ((teamWaves s t.id).head?.map (fun w => w.id)).getD 0
/-- The entries i, i + 1, … of a list go to private memory, or the first fault. -/
def spillRay (s : State) (t : Team) (x : RayState) : Nat → List Word → Except OpFault State
  | _, [] => .ok s
  | i, e :: r => match rayEntry s t x i .write with
    | .error f => .error f
    | .ok l => spillRay (enterEvents (cacheStore s t.core t.ctx .none true l (leBytes e.toNat 4)) (rayWave s t) t.core l) t x
      (i + 1) r
/-- Entries pushed on a ray's stack: those below the top 16 leave the chip (06 R194, 11 R328). -/
def pushRay (s : State) (t : Team) (x : RayState) (kids rest : List Word) : Except OpFault (State × List Word) :=
  let todo := kids ++ rest
  let old := rest.length - 16
  (spillRay s t x old ((todo.reverse.take (todo.length - 16)).drop old)).map (fun s => (s, todo))
/-- The stack below its top entry: one entry is filled where more than 16 stood (06 R194, 11 R328). -/
def popRay (s : State) (t : Team) (x : RayState) (rest : List Word) : Except OpFault (State × List Word) :=
  if rest.length < 16 then .ok (s, rest)
  else
    let i := rest.length - 16
    match rayEntry s t x i .read with
    | .error f => .error f
    | .ok l =>
      if loadPoisoned s t.core l 4 then
        .error { cause := .softError, fkind := 0, lane := BitVec.ofNat 5 x.recIx, addr := BitVec.ofNat 64 (4 * i) }
      else
        let r := cacheLoad s t.core t.ctx .none true l 4
        .ok (r.2, rest.set 15 (wordAt r.1 0))

def putRay (s : State) (tid : Nat) (x : RayState) : State :=
  updTeam s tid (fun t => { t with rays := t.rays.map (fun y => if y.recIx = x.recIx then x else y) })

/-- A node: its hit children are pushed far to near (06 R190). -/
def walkNode (s : State) (t : Team) (r : Rec) (x : RayState) (rest : List Word) (unit : Nat) : State :=
  let lane : BitVec 5 := BitVec.ofNat 5 x.recIx
  match shaderRead s t lane (rayRoot r + 64 * unit) 128 with
  | .error f => shaderFault s t f
  | .ok (n, s) =>
    let node : BvhNode := BitVec.ofNat 1024 n
    if nodeMalformed node then putRay s t.id { x with kind := some 3 }
    else
      let kids := (boxHits (rayTest r) node).map (fun h => nodeChild node h.2)
      match pushLimit (getCtx s t.ctx).psize.toNat rest.length kids.length with
      | some d => shaderFault s t { cause := .privateBounds, fkind := 0, lane := lane, addr := BitVec.ofNat 64 (4 * (d - 16)) }
      | none => match pushRay s t x kids rest with
        | .error f => shaderFault s t f
        | .ok (s, todo) => putRay s t.id { x with todo := todo }

/-- The kept hit as an exact distance. -/
def hitVal (h : RayHit) : Val := .fin h.neg h.num h.den h.e
def keepHit (h : TriHit) (id : Word) (addr : Nat) : RayHit :=
  let q := match h.t with
    | .fin n a d e => (n, a, d, e)
    | _ => (false, 0, 1, 0)
  { neg := q.1, num := q.2.1, den := q.2.2.1, e := q.2.2.2, out := [h.tw, h.u, h.v, id], front := h.front, addr := addr }
/-- A hit replaces the kept one when it is closer; ties go to the lower TRI, then the lower address. -/
def closerHit (a b : RayHit) : Bool :=
  if ltX (hitVal a) (hitVal b) then true
  else if ltX (hitVal b) (hitVal a) then false
  else if a.out.getD 3 0 = b.out.getD 3 0 then decide (a.addr < b.addr)
  else decide ((a.out.getD 3 0).toNat < (b.out.getD 3 0).toNat)
def mergeHit (old : Option RayHit) (h : RayHit) : Option RayHit :=
  match old with
  | none => some h
  | some b => if closerHit h b then some h else some b

/-- The triangles of a leaf in ascending address. -/
def walkTris (s : State) (t : Team) (r : Rec) (x : RayState) (unit : Nat) : Nat → State
  | 0 => putRay s t.id x
  | n + 1 =>
    let va := rayRoot r + 64 * unit
    match shaderRead s t (BitVec.ofNat 5 x.recIx) va 64 with
    | .error f => shaderFault s t f
    | .ok (d, s) =>
      let tri : BvhTri := BitVec.ofNat 512 d
      if triMalformed tri then putRay s t.id { x with kind := some 3 }
      else match triTest (rayTest r) tri with
        | none => walkTris s t r x (unit + 1) n
        | some h =>
          if bitsOf (rayNum r) (if h.front then 322 else 321) (if h.front then 322 else 321) = 1 then
            walkTris s t r x (unit + 1) n
          else
            let x := { x with best := mergeHit x.best (keepHit h (triId tri) va) }
            if bitsOf (rayNum r) 320 320 = 1 then putRay s t.id { x with kind := some (if h.front then 1 else 2) }
            else walkTris s t r x (unit + 1) n

/-- The next step of a ray: the walk's end, or the entry on top of its stack. -/
def walkRay (s : State) (t : Team) (r : Rec) (x : RayState) : State :=
  if rayMalformed r then putRay s t.id { x with kind := some 3 }
  else match x.todo with
    | [] => putRay s t.id { x with kind := some (match x.best with
        | none => 0
        | some h => if h.front then 1 else 2) }
    | c :: rest => match popRay s t x rest with
      | .error f => shaderFault s t f
      | .ok (s, rest) =>
        if childType c = 1 then walkNode s t r x rest (c.extractLsb' 0 30).toNat
        else walkTris s t r { x with todo := rest } (c.extractLsb' 0 26).toNat ((c.extractLsb' 26 4).toNat + 1)

/-- Every ray has ended: the results are appended, after a release at .dev, and the wave exits. -/
def endWalk (s : State) (t : Team) : State :=
  let s := eagerClean s t.core
  let s := t.rays.foldl (fun acc x =>
    appendResult acc ((findTeam acc t.id).getD t) (t.batch.getD x.recIx blankRec)
      (rayResult (t.batch.getD x.recIx blankRec) x)) s
  endWaves s t.id
/-- One step of the shader for one ray (Move.traverse). -/
def traverseStep (s : State) (tid : Nat) (lane : BitVec 5) : State :=
  match findTeam s tid with
  | none => s
  | some t =>
    if t.status ≠ .running ∨ teamStopped s t = true ∨ t.rays.isEmpty ∨ (teamWaves s tid).all (fun w => !waveLive w) then s
    else
      let s := match t.rays.find? (fun x => decide (x.recIx = lane.toNat) && decide (x.kind = none)) with
        | none => s
        | some x => walkRay s t (t.batch.getD x.recIx blankRec) x
      match findTeam s tid with
      | none => s
      | some t => if t.faultedMark = false ∧ t.rays.all (fun x => decide (x.kind ≠ none)) then endWalk s t else s

/-! ### The matrix job (05 R432 to R434) -/

def jobBits (r : Rec) (hi lo : Nat) : Nat := bitsOf (rayNum r) hi lo
def jobFmt (r : Rec) : BitVec 14 := BitVec.ofNat 14 (jobBits r 303 290)
def jobCin (r : Rec) : Bool := decide (jobBits r 287 287 = 1)
def jobDty (r : Rec) : Nat := jobBits r 289 288
def jobM (r : Rec) : Nat := jobBits r 319 304 + 1
def jobN (r : Rec) : Nat := jobBits r 335 320 + 1
def jobK (r : Rec) : Nat := jobBits r 351 336 + 1
/-- Bytes of a row of n elements of w bits. -/
def rowBytes (n w : Nat) : Nat := (n * w + 7) / 8
def jobClass (r : Rec) : Option MxClass :=
  match mxClass (fmtAType (jobFmt r)), mxClass (fmtBType (jobFmt r)) with
  | some a, some b => if a = b then some a else none
  | _, _ => none
/-- The tile type that D is stored as. -/
def jobTy (r : Rec) (c : MxClass) : TileTy :=
  match jobDty r with
  | 1 => .f16 | 2 => .bf16 | _ => if c = .i8 then .i32 else .f32
/-- A malformed job record (05 R434), but for its class. -/
def jobBad (r : Rec) (c : MxClass) : Bool :=
  let w := classWidth c
  let addrs := [jobBits r 51 0, jobBits r 115 64, jobBits r 179 128, jobBits r 243 192, jobBits r 383 352, jobBits r 415 384,
    jobBits r 447 416, jobBits r 479 448]
  anyRz (rayNum r) [(286, 256), (255, 244), (191, 180), (127, 116), (63, 52)] || decide (jobDty r = 3) ||
    (!jobCin r && anyRz (rayNum r) [(479, 448), (179, 128)]) || (decide (c = .i8) && decide (jobDty r ≠ 0)) ||
    fmtBad (jobFmt r).toNat || decide ((jobFmt r).extractLsb' 8 3 ≠ 0) || addrs.any (fun a => decide (a % 16 ≠ 0)) ||
    decide (jobBits r 383 352 < rowBytes (jobK r) w) || decide (jobBits r 415 384 < rowBytes (jobN r) w) ||
    (jobCin r && decide (jobBits r 479 448 < 4 * jobN r)) ||
    decide (jobBits r 447 416 < jobN r * elemBytes (jobTy r c))

/-- The bytes of a run of words that lie in D: each word as it was when the job began, or as it is now (05 R433); the mix is
free (notes/assumptions/50.md). The first argument bounds the words. -/
def mixOld (old : List (Bool × Nat × Byte)) (s : State) (l : Loc) : Nat → List Byte → List Byte × State
  | 0, bs => (bs, s)
  | f + 1, bs =>
    if old.isEmpty ∨ bs.isEmpty then (bs, s)
    else
      let k := 4 - l.addr % 4
      let q := freeVal s
      let was := fun (j : Nat) (b : Byte) => match old.find? (fun e => decide (e.1 = l.host) && decide (e.2.1 = l.addr + j)) with
        | some e => if q.1.getLsbD 0 then e.2.2 else b
        | none => b
      let r := mixOld old q.2 { l with addr := l.addr + k } f (bs.drop k)
      (((List.range (bs.take k).length).zip (bs.take k)).map (fun x => was x.1 x.2) ++ r.1, r.2)
/-- Bytes a job reads, page by page, or its first failing address. The first argument bounds the pages. -/
def jobRead (s : State) (t : Team) : Nat → Nat → Nat → Except OpFault (List Byte × State)
  | 0, _, _ => .ok ([], s)
  | f + 1, va, n =>
    if n = 0 then .ok ([], s)
    else
      let k := min n (4096 - va % 4096)
      let a : DWord := BitVec.ofNat 64 va
      match translateAt s t.core t.ctx a .read with
      | .error e => .error { plainFault .translation with fkind := e, addr := a }
      | .ok l =>
        if locGated s l then .error { plainFault .gated with addr := a }
        else if loadPoisoned s t.core l k then .error { plainFault .softError with addr := a }
        else
          let x := cacheLoad s t.core t.ctx .none false l k
          let m := mixOld ((t.job.map (fun j => j.old)).getD []) x.2 l (k / 4 + 2) x.1
          match jobRead m.2 t f (va + k) (n - k) with
          | .error e => .error e
          | .ok y => .ok (m.1 ++ y.1, y.2)
/-- Rows of n bytes each, a stride apart. -/
def jobRows (s : State) (t : Team) (base stride n : Nat) : Nat → Except OpFault (List (List Byte) × State)
  | 0 => .ok ([], s)
  | m + 1 =>
    match jobRead s t (n / 4096 + 2) base n with
    | .error e => .error e
    | .ok x => match jobRows x.2 t (base + stride) stride n m with
      | .error e => .error e
      | .ok y => .ok (x.1 :: y.1, y.2)
/-- Bytes of D stored page by page; what was stored before a fault stays. -/
def jobWrite (s : State) (t : Team) (wave : Nat) : Nat → Nat → List Byte → State × Option OpFault
  | 0, _, _ => (s, none)
  | f + 1, va, bs =>
    if bs.isEmpty then (s, none)
    else
      let k := 4096 - va % 4096
      let a : DWord := BitVec.ofNat 64 va
      match translateAt s t.core t.ctx a .write with
      | .error e => (s, some { plainFault .translation with fkind := e, addr := a })
      | .ok l =>
        if locGated s l then (s, some { plainFault .gated with addr := a })
        else jobWrite (enterEvents (cacheStore s t.core t.ctx .none false l (bs.take k)) wave t.core l) t wave f (va + k) (bs.drop k)

def writeRows (s : State) (t : Team) (wave base stride : Nat) : List (List Byte) → State × Option OpFault
  | [] => (s, none)
  | b :: r =>
    match jobWrite s t wave (b.length / 4096 + 2) base b with
    | (s, some f) => (s, some f)
    | (s, none) => writeRows s t wave (base + stride) stride r

/-- The places of the 16-byte units that hold rows of n bytes each, a stride apart. -/
def jobPlaces (s : State) (t : Team) (acc : Access) (base stride n rows : Nat) : List Loc :=
  (List.range rows).flatMap (fun i => (List.range ((n + 15) / 16)).filterMap (fun k =>
    (translateAt s t.core t.ctx (BitVec.ofNat 64 (base + i * stride + 16 * k)) acc).toOption))
/-- The bytes of A, B and C that lie in D (05 R433). -/
def jobOld (s : State) (t : Team) (r : Rec) (c : MxClass) : List (Bool × Nat × Byte) :=
  let w := classWidth c
  let ins := jobPlaces s t .read (jobBits r 51 0) (jobBits r 383 352) (rowBytes (jobK r) w) (jobM r) ++
    jobPlaces s t .read (jobBits r 115 64) (jobBits r 415 384) (rowBytes (jobN r) w) (jobK r) ++
    jobPlaces s t .read (jobBits r 179 128) (jobBits r 479 448) (4 * jobN r) (if jobCin r then jobM r else 0)
  let outs := jobPlaces s t .write (jobBits r 243 192) (jobBits r 447 416) (jobN r * elemBytes (jobTy r c)) (jobM r)
  (ins.filter (fun l => outs.contains l)).flatMap (fun l =>
    ((List.range 16).zip (cacheLoad s t.core t.ctx .none false l 16).1).map (fun x => (l.host, l.addr + x.1, x.2)))

/-! A job's passes (05 R433): each makes up to 8 chunks of K for one tile of D of 64 rows and 64 columns, and its last one for a
tile stores it. The order of the tiles is the event's choice. -/

/-- Tiles of D across a row and in all, passes of a tile, and the elements of K in a pass. -/
def jobAcross (r : Rec) : Nat := (jobN r + 63) / 64
def jobTiles (r : Rec) : Nat := (jobM r + 63) / 64 * jobAcross r
def passK (c : MxClass) : Nat := 8 * chunkLen c
def jobPasses (r : Rec) (c : MxClass) : Nat := (jobK r + passK c - 1) / passK c
/-- The rows and columns of tile q. -/
def jobRows64 (r : Rec) (q : Nat) : Nat := min 64 (jobM r - 64 * (q / jobAcross r))
def jobCols64 (r : Rec) (q : Nat) : Nat := min 64 (jobN r - 64 * (q % jobAcross r))
/-- The place of the first row of tile q in a matrix of rows of a stride and elements of w bits. -/
def tileOrigin (r : Rec) (q base stride w : Nat) : Nat :=
  base + 64 * (q / jobAcross r) * stride + 64 * (q % jobAcross r) * w / 8

/-- The operands of pass p of tile q: rows of A, columns of B, and the accumulators it starts from. -/
def passInputs (s : State) (t : Team) (r : Rec) (c : MxClass) (q p : Nat) (acc : Cells 32) :
    Except OpFault ((Codes × Codes × Mat) × State) := do
  let w := classWidth c
  let kn := min (passK c) (jobK r - passK c * p)
  let strideA := jobBits r 383 352
  let strideB := jobBits r 415 384
  let a ← jobRows s t (jobBits r 51 0 + 64 * (q / jobAcross r) * strideA + passK c * p * w / 8) strideA (rowBytes kn w) (jobRows64 r q)
  let b ← jobRows a.2 t (jobBits r 115 64 + passK c * p * strideB + 64 * (q % jobAcross r) * w / 8) strideB
    (rowBytes (jobCols64 r q) w) kn
  let readC := jobCin r && decide (p = 0)
  let cm ← jobRows b.2 t (tileOrigin r q (jobBits r 179 128) (jobBits r 479 448) 32) (jobBits r 479 448) (4 * jobCols64 r q)
    (if readC then jobRows64 r q else 0)
  let brows := b.1.map (unpackRow w (jobCols64 r q))
  let start := if readC then
      let rows := cm.1.map (fun row => (unpackRow 32 (jobCols64 r q) row).map (loadElem (if c = .i8 then .i32 else .f32)))
      mkMat (fun i j => (rows.getD i []).getD j 0)
    else if p = 0 then zeroMat
    else mkMat (fun i j => cellsRead acc (64 * i + j))
  .ok ((a.1.map (unpackRow w kn), (List.range (jobCols64 r q)).map (fun j => brows.map (fun row => row.getD j 0)), start), cm.2)
/-- The accumulators after a pass: the sums of MMA over its chunks (05 R433, 04 R139 R140). -/
def passSums (r : Rec) (c : MxClass) (p : Nat) (x : Codes × Codes × Mat) : Mat :=
  let kn := min (passK c) (jobK r - passK c * p)
  mmPass { cls := c, fa := fmtAType (jobFmt r), fb := fmtBType (jobFmt r), scales := none } ((kn + chunkLen c - 1) / chunkLen c) none
    x.1 x.2.1 x.2.2
/-- The rows of tile q of D, as MSTORE stores them. -/
def jobTileRows (r : Rec) (c : MxClass) (q : Nat) (m : Mat) : List (List Byte) :=
  (List.range (jobRows64 r q)).map (fun i => (List.range (jobCols64 r q)).flatMap (fun j =>
    leBytes (storeElem (jobTy r c) (decide ((jobFmt r).extractLsb' 13 1 = 1)) (matAt m i j)) (elemBytes (jobTy r c))))

/-- STATUS of a fault (05 R434). -/
def jobStatus : Option OpFault → Nat
  | none => 0
  | some f => if f.cause = .translation then 1 else if f.cause = .softError then 2 else if f.cause = .gated then 4 else 3
/-- The result record, and the end of the team (05 R434). -/
def endJob (s : State) (t : Team) (r : Rec) (f : Option OpFault) : State :=
  let s := eagerClean s t.core
  let s := if (teamNode s t).outs = 0 then s
    else appendResult s t r (leBytes (jobBits r 511 480) 4 ++ leBytes (jobStatus f) 4 ++ leBytes 0 8)
  match f with
  | none => endWaves s t.id
  | some f => logUnit (endTeamFaulted s t.id) t.ctx f.cause f.fkind f.addr (some t) true
/-- The job's entry leaves the table, and the job ends. -/
def leaveJob (s : State) (t : Team) (e : Entry) (r : Rec) (f : Option OpFault) : State :=
  endJob (updTeam (retireEntry s (coreCluster t.core) e []) t.id (fun t => { t with job := none })) { t with job := none } r f
/-- A job begins: malformed, it ends at once; else it takes an entry of the engine as soon as one is free (05 R431 R434). -/
def beginJob (s : State) (t : Team) : State :=
  let r := t.batch.headD blankRec
  let cl := coreCluster t.core
  match jobClass r with
  | none => endJob s t r (some (plainFault .illegal))
  | some c =>
    if jobBad r c then endJob s t r (some (plainFault .illegal))
    else match freeEntry (getEngine s cl) with
      | none => s
      | some i =>
        let s := updTeam s t.id (fun t => { t with
          job := some { left := List.range (jobTiles r), pass := 0, acc := [], old := jobOld s t r c } })
        refreshEngine (updEngine s cl (fun g => { g with
          entries := g.entries ++ [plainEntry (.job t.id) i (clusterClk s cl) g.nextOrder], nextOrder := g.nextOrder + 1 })) cl
/-- What is left of a job after a pass: the sums, and the arbiter is asked for the next one. -/
def nextPass (s : State) (t : Team) (e : Entry) (x : JobState) : State :=
  let cl := coreCluster t.core
  let e' := { e with eligibleSince := some (clusterClk s cl) }
  endPass (putEntry (updTeam s t.id (fun t => { t with job := some x })) cl e') cl e'
/-- A pass of a job; one that fails makes no further pass (05 R433 R434). -/
def runPass (s : State) (t : Team) (wave : Nat) (e : Entry) (x : JobState) (r : Rec) (c : MxClass) : State :=
  match x.left with
  | [] => leaveJob s t e r none
  | q :: rest => match passInputs s t r c q x.pass x.acc with
    | .error f => leaveJob s t e r (some f)
    | .ok (ins, s) =>
      let m := passSums r c x.pass ins
      if x.pass + 1 < jobPasses r c then
        nextPass s t e { x with pass := x.pass + 1, acc := cellsFill [] 0 ((List.range 4096).map (fun k => matAt m (k / 64) (k % 64))) }
      else
        let w := writeRows s t wave (tileOrigin r q (jobBits r 243 192) (jobBits r 447 416) (8 * elemBytes (jobTy r c)))
          (jobBits r 447 416) (jobTileRows r c q m)
        if w.2.isSome ∨ rest.isEmpty = true then leaveJob w.1 t e r w.2
        else nextPass w.1 t e { x with left := rest, pass := 0, acc := [] }
/-- The tile to work on next: the one that the event names among those left, or the tile under way. -/
def chooseTile (n : Nat) (x : JobState) : JobState :=
  if x.pass = 0 then { x with left := x.left.drop (n % x.left.length) ++ x.left.take (n % x.left.length) } else x
/-- A MATRIX team's job begins, or makes the pass that holds its tokens. -/
def stepJob (s : State) (t : Team) (wave : Nat) : State :=
  let r := t.batch.headD blankRec
  match (getEngine s (coreCluster t.core)).entries.find? (fun e => decide (e.kind = .job t.id)), t.job, jobClass r with
  | none, _, _ => beginJob s t
  | some e, some x, some c =>
    if e.state = .running ∧ e.tokens ≠ 0 ∧ e.eligibleSince = none then runPass s t wave e (chooseTile s.who.count x) r c else s
  | _, _, _ => s
/-- MATRIX_JOB (05 R431 R433): State.who names the team, and among the tiles left the one to start next. -/
def execMatrixJob (s : State) : Host.Outcome State Fault Refusal :=
  match findTeam s s.who.team with
  | none => .next s
  | some t =>
    if t.status = .running ∧ (teamNode s t).kind = 6 then
      match (teamWaves s t.id).find? waveLive with
      | some w => finish (if t.stopping && t.job.isNone then s else stepJob s t w.id)
      | none => .next s
    else .next s

end Sys2Proof.Machine
end

