-- ==== Sys2Proof/Machine/Save.lean ====
section
/-! DEFINITION. Pre-emption, rotation and reset of a context (01 R44 R59 R60, 05 R161 R162 R172, 09 R275, 11 R327, 15 R376 to
R381), and PLACE_TEAM (01 R18). A team is first stopped; when the passes that its engine had begun have ended, it is saved
(notes/assumptions/87.md). -/

namespace Sys2Proof.Machine

/-! ### Waves stop (15 R376 items 1 and 2, 11 R327) -/

/-- Tests in flight complete. -/
def finishTests (s : State) (wid : Nat) : State :=
  match findWave s wid with
  | none => s
  | some w => w.tests.foldl (fun acc _ => retireTest acc wid) s
/-- Operations that have been performed complete; the unfinished others stay, as replay entries (15 R366 R376). -/
def settlePerformed (s : State) (wid : Nat) : State :=
  match findWave s wid with
  | none => s
  | some w => (w.pend.filter (fun p => p.performed && p.fault.isNone)).foldl (fun acc p =>
      match findWave acc wid with
      | some w => writeResults acc w p
      | none => acc) s
/-- A WAITADDR that is parked keeps what is left of its timeout, and reads its word again when it goes on. -/
def keepWait (clk : Nat) : WaitFor → WaitFor
  | .addr o a e d _ last => .addr o a e (d - clk) true last
  | x => x
/-- Its timeout counts on from the new cluster's clock. -/
def resumeWait (clk : Nat) : WaitFor → WaitFor
  | .addr o a e d w last => .addr o a e (d + clk) w last
  | x => x
def mapSlotWait (f : WaitFor → WaitFor) : SlotState → SlotState
  | .parked p x => .parked p (f x)
  | x => x
/-- One wave stops: its store queue drains, its tests complete, its HELD tokens go back, its reservations are cleared. -/
def stopWave (s : State) (wid : Nat) : State :=
  let s := settlePerformed (finishTests (drainWave s wid 40) wid) wid
  match findWave s wid with
  | none => s
  | some w => updWave (dropHeld s w) wid (fun w => { w with
      heldA := 0, heldB := 0, resv := [], growA := 0, growB := 0, candSince := none, dearSince := none, starving := false, yieldUntil := 0 })
/-- The work that outlives a wave that has exited ends: its queue drains, and its operations complete without results
(10 R287, 15 R374). -/
def finishExited (s : State) (wid : Nat) : State :=
  let s := finishTests (drainWave s wid 40) wid
  match findWave s wid with
  | none => s
  | some w => (sortOps w.pend).foldl (fun acc p => completeSeq acc wid p.seq) s
/-- A stopped wave as it is saved, both slots in their current states (01 R44). -/
def restWave (st : WaveStatus) (clk : Nat) (w : Wave) : Wave :=
  if waveLive w then { w with
    status := st, slotA := mapSlotWait (keepWait clk) w.slotA, slotB := mapSlotWait (keepWait clk) w.slotB,
    saveA := w.saveA.map (keepWait clk), saveB := w.saveB.map (keepWait clk) }
  else w

/-! ### Engines stop (05 R161 R172) -/

/-- An entry stands where a stopped team's work is saved: it is not in a pass, and no iteration of a MITER is half made. -/
def atBoundary (e : Entry) : Bool :=
  decide (e.state ≠ .running) || e.eligibleSince.isSome && decide (e.tokens = 0) && !midIteration e
/-- An entry as it is saved: granted passes that have not begun are asked for again. -/
def restEntry (e : Entry) : Entry :=
  { e with state := if e.state = .running ∧ e.loop.product = 0 ∧ e.loop.iter = 0 then .ready else e.state,
           eligibleSince := none, starving := false, waitTokens := none, tokenStarving := false, tokens := 0 }
def teamEntries (s : State) (cl : ClusterNum) (tid : Nat) : List Entry :=
  (getEngine s cl).entries.filter (fun e => decide (entryTeam e.kind = some tid))
/-- A grant of a stopped team that waits for its tokens lapses, but for that of an iteration half made. -/
def lapseGrant (cl : ClusterNum) (s : State) (e : Entry) : State :=
  if e.waitTokens.isSome ∧ midIteration e = false then
    let s := if (getCluster s cl).serving = some .engine then endServing s cl else s
    putEntry s cl { restEntry e with eligibleSince := some (clusterClk s cl) }
  else s
/-- The entries of a team leave the engine, in table order. -/
def takeEntries (s : State) (cl : ClusterNum) (tid : Nat) : List Entry × State :=
  let s := endPasses s cl
  ((teamEntries s cl tid).map restEntry,
   refreshEngine (updEngine s cl (fun g => { g with entries := g.entries.filter (fun e => decide (entryTeam e.kind ≠ some tid)) })) cl)
/-- A gather holds a row of some wave of a team. -/
def gatherOfTeam (s : State) (tid : Nat) (g : Gather) : Bool :=
  g.rows.any (fun r => match findWave s r.wave with
    | some w => decide (w.team = tid)
    | none => false)
/-- The network tiles that work for a team: in their gather slots, or in the table. -/
def tilesOpen (s : State) (cl : ClusterNum) (tid : Nat) : Bool :=
  (getEngine s cl).gathers.any (gatherOfTeam s tid) || (getEngine s cl).entries.any (fun e => match e.kind with
    | .net g => gatherOfTeam s tid g
    | _ => false)
/-- Nothing that a stopped team's engine had begun is under way. -/
def teamQuiet (s : State) (t : Team) : Bool :=
  (teamEntries s (coreCluster t.core) t.id).all atBoundary && !tilesOpen s (coreCluster t.core) t.id

/-! ### A team stops (15 R376 items 1 to 3, 05 R161 R172, 09 R275) -/

/-- A placed team stops: its waves, its copies after the block under way, its gathers, which close, and the passes that its
engine has granted and not begun. -/
def stopTeam (s : State) (tid : Nat) : State :=
  match findTeam s tid with
  | none => s
  | some t =>
    let cl := coreCluster t.core
    let s := (teamWaves s tid).foldl (fun acc w => if waveLive w then stopWave acc w.id else finishExited acc w.id) s
    let s := finishBlocks s t
    let s := (teamEntries s cl tid).foldl (lapseGrant cl) (closeGathers s cl (gatherOfTeam s tid))
    updTeam s tid (fun t => { t with stopping := true })

/-! ### The image (15 R377 R378, 05 R160) -/

def padTo (n : Nat) (bs : List Byte) : List Byte := (bs ++ List.replicate n 0).take n
/-- Zero bytes up to the next multiple. -/
def padMult (n : Nat) (bs : List Byte) : List Byte := bs ++ List.replicate ((n - bs.length % n) % n) 0

/-- The loop record of 05 R160. After its first iteration a loop has no residual before the last: GROW is then 0, as it is at
the start (DESIGN CHOICE, notes/assumptions/87.md). -/
def loopBytes (e : Entry) : List Byte :=
  match e.instr with
  | .miter o =>
    let mode := match o.mode with
      | .affine _ bt => (0, 0, bt.toNat)
      | .ns => (1, 0, 0)
      | .poly d => (2, d.toNat, 0)
    let addr := match o.mode with
      | .affine _ _ => (entVal e 0, entStride e 1)
      | _ => (0, 0)
    let grow := decide (2 ≤ e.loop.iter) && gt4 e.loop.res e.loop.rprev
    leBytes (e.loop.res.toNat + e.loop.rprev.toNat * 2 ^ 32 + (e.loop.iter % 256) * 2 ^ 64 + miterCap e * 2 ^ 72 +
      (if e.loop.iter = 0 then 0 else 1) * 2 ^ 80 + grow.toNat * 2 ^ 82 + mode.1 * 2 ^ 83 + mode.2.1 * 2 ^ 85 +
      (miterTol e).toNat * 2 ^ 96 + o.x.toNat * 2 ^ 128 + mode.2.2 * 2 ^ 133 + (addr.1 % 2 ^ 19) * 2 ^ 160 +
      addr.2 * 2 ^ 192) 32
  | _ => List.replicate 32 0
/-- The descriptor of an entry: encoding, state, sequence number, age and priority, in a layout that no rule gives
(notes/assumptions/40.md). -/
def descriptorBytes (s : State) (e : Entry) : List Byte :=
  let seq := match e.kind with
    | .quad _ n => n
    | _ => 0
  let st := match e.state with
    | .gathering => 0 | .ready => 1 | .running => 2
  (List.range 64).map (Config.descriptorByte ((encodeSlot 2 e.instr).getD 0) st seq e.age (entryPriority s e))
/-- An engine entry of 24 KiB. -/
def entryImage (s : State) (e : Entry) : List Byte :=
  let parts := e.parts.flatMap (fun p => padTo 5120 (wordBytes (p.b.flatten ++ p.scales.flatten)))
  padTo 24576 (padTo 1024 (descriptorBytes s e ++ padTo 64 (wordBytes e.coeffs) ++ loopBytes e ++
    (List.range 64).map (Config.captureByte e.svals e.fmt)) ++ parts)

def noTrap : TrapInfo :=
  { cause := .illegal, code := 0, deliv := .issue, slot := 0, fkind := 0, flane := 0, faddr := 0, tpc := 0, resume := 0,
    iter := 0, res := 0 }
/-- The image of a stopped wave. A wave that has no trap shows none in header word 0. -/
def waveImage (t : Team) (w : Wave) : List Byte :=
  let ops := replayQueue w
  let im := imageBytes t w (w.frameWait.getD noTrap) ops true w.allot.toNat
  if w.frameWait.isSome then im
  else leBytes (min 32 ops.length * 2 ^ 52) 8 ++ im.drop 8

def liveStopped (w : Wave) : Bool := decide (w.status = .saved) || decide (w.status = .swapped)
def stoppedWaves (s : State) (tid : Nat) : List Wave := ((teamWaves s tid).filter liveStopped).foldr insertNum []

/-- The ring slot of the i-th copy of a team, and the copy in a ring slot (09 R273). -/
def copySlot (t : Team) (i : Nat) : Nat := (t.copyHead.toNat + i) % 64
def copyInSlot (t : Team) (j : Nat) : Option CopyOp := t.copies[(j + 64 - t.copyHead.toNat) % 64]?
/-- The copy ring's section: its 64 entries, then head, tail and the units done of the head entry. -/
def ringSection (t : Team) : List Byte :=
  (List.range 64).flatMap (fun j => match copyInSlot t j with
    | some c => bitsBytes c.entry 32
    | none => List.replicate 32 0) ++
    padTo 64 (leBytes (t.copyHead.toNat + copySlot t t.copies.length * 256 +
      ((t.copies.head?.map (fun c => c.units)).getD 0) * 2 ^ 32) 8)
def barSection (t : Team) : List Byte :=
  (List.range 16).flatMap (fun b => leBytes ((cellsRead t.barExpect b).toNat + 256 * (cellsRead t.barCount b).toNat +
    65536 * (t.barPhase.getLsbD b).toNat) 8)
def rsvSection (f : PortRsv → Nat) (t : Team) : List Byte :=
  (List.range 8).flatMap (fun p => leBytes (f (t.rsv.getD p blankRsv)) 2)

/-- The team's tiles, and its side memory, in the order of its own names. -/
def tileBytes (s : State) (t : Team) : List Byte :=
  (List.range t.tiles).flatMap (fun k => wordBytes (cellsSpan s.tiles (tileBase (coreCluster t.core) (tileNum t k)) 4096))
def sideBytes (s : State) (t : Team) : List Byte :=
  (List.range (t.tiles / 8)).flatMap (fun b => cellsSpan s.side (sideKey (coreCluster t.core) t (8192 * b)) 8192)

/-- Places of the sections of a team record in bytes: engine entries, tiles, local store and wave images. -/
def engAt : Nat := 2816
def tileAt (n : Nat) : Nat := engAt + 24576 * n
def winAt (t : Team) (n : Nat) : Nat := tileAt n + 17408 * t.tiles
def wavesAt (t : Team) (n : Nat) : Nat := winAt t n + t.winSize
/-- The size of a wave image with the zero bytes up to the next (15 R378). -/
def imageRoom (w : Wave) : Nat := (imageSize w.allot.toNat + 255) / 256 * 256

/-- A team record from its 256-byte header on: the team stands where it was, stopped, with its entries taken. -/
def teamRecord (s : State) (t : Team) (es : List Entry) : List Byte :=
  let ws := stoppedWaves s t.id
  let n := es.length
  let word1 := (t.winSize / 1024) * 2 ^ 32 + t.stk.toNat * 2 ^ 30 + n * 2 ^ 25 + t.tiles * 2 ^ 19 +
    t.nbars * 2 ^ 14 + t.pair.toNat * 2 ^ 13 + (ws.length - 1) * 2 ^ 8 + t.node.toNat
  let header := padTo 256 (dwordBytes [headerWord16 t] ++ leBytes word1 8 ++
    rsvSection (fun r => r.store + r.spill + r.cycle) t ++ rsvSection (fun r => r.app) t ++ leBytes t.tdone.toNat 8 ++
    leBytes (engAt / 256 + tileAt n / 256 * 2 ^ 32) 8 ++ leBytes (winAt t n / 256 + wavesAt t n / 256 * 2 ^ 32) 8)
  padMult 4096 (padTo engAt (padTo 512 (header ++ barSection t) ++ ringSection t) ++ es.flatMap (entryImage s) ++
      tileBytes s t ++ sideBytes s t ++ cellsSpan s.lstore (localKey t 0) t.winSize ++
      ws.flatMap (fun w => padMult 256 (waveImage t w)))

/-! ### A team is saved (15 R376) -/

/-- A core that held waves of a context cleans every dirty byte of the context, and what its release tags cover, and loses its
tags (15 R376 item 4, 03 R102 R119). -/
def leaveCore (c : CtxNum) (s : State) (core : CoreNum) : State :=
  cleanTagged (eagerCleanCtx (cleanPrivate s core c) core c) core
/-- A stopped team leaves its places: its results have been written, its entries leave the engine, its waves rest. -/
def saveTeam (s : State) (tid : Nat) (ws : WaveStatus) (ts : TeamStatus) : State :=
  match findTeam s tid with
  | none => s
  | some t =>
    let cl := coreCluster t.core
    let s := (teamWaves s tid).foldl (fun acc w => w.nets.foldl (fun acc _ => retireNet acc w.id) acc) s
    let q := takeEntries s cl tid
    let s := mapTeamWaves ((teamCores s tid).foldl (leaveCore t.ctx) q.2) tid (restWave ws (clusterClk s cl))
    updTeam s tid (fun t => { t with
      status := ts, stopping := false, saved := some { entries := q.1, place := 0, size := 0 } })

/-- The teams of a context that are placed. -/
def placedTeams (s : State) (c : CtxNum) : List Team :=
  s.teams.filter (fun t => decide (t.ctx = c) && decide (t.status = .running))
/-- Steals under way when a context stops: one that has been served arrives, any other gives up what it holds
(notes/assumptions/41.md). -/
def settleSteals (s : State) (c : CtxNum) : State :=
  (ctxRuns s c).foldl (fun acc r => r.steals.foldl (fun acc v =>
    match findRun acc r.id with
    | some r => if v.served then stealArrive acc r v else dropSteal acc r v
    | none => acc) acc) s
/-- Pre-emption: everything of the context stops at once, and its queues at an instruction boundary; the image follows when
no queue is in a COPY and no pass of its engines is under way. -/
def preemptCtx (s : State) (c : CtxNum) : State :=
  let from_ := (getCtx s c).state
  let s := stopQueues (settleSteals s c) c
  let s := (placedTeams s c).foldl (fun acc t => if t.stopping then acc else stopTeam acc t.id) s
  updCtx s c (fun x => { x with savedFrom := from_, saving := true })

/-- The record of a team that has just been saved, at a place. -/
def writeRecord (s : State) (tid a : Nat) : State :=
  match findTeam s tid with
  | none => s
  | some t =>
    let bs := teamRecord s t ((t.saved.map (fun v => v.entries)).getD [])
    updTeam (physWrite s a bs) tid (fun t => { t with saved := t.saved.map (fun v => { v with place := a, size := bs.length }) })
/-- Team records one after another from a place. -/
def writeRecords (s : State) : Nat → List Nat → State
  | _, [] => s
  | a, t :: r =>
    let s := writeRecord s t a
    writeRecords s (a + (((findTeam s t).bind (fun t => t.saved)).map (fun v => v.size)).getD 0) r
def savedTeams (s : State) (c : CtxNum) : List Team := s.teams.filter (fun t => decide (t.ctx = c) && decide (t.status = .saved))
/-- The save image at SAVEBASE (15 R377). -/
def writeImage (s : State) (c : CtxNum) : State :=
  let x := getCtx s c
  let ts := savedTeams s c
  let s := physWrite s x.savebase.toNat (padTo 4096 (leBytes (ts.length + x.s0.seq.toNat * 2 ^ 16) 8 ++
    leBytes x.s1.seq.toNat 8))
  writeRecords s (x.savebase.toNat + 4096) (ts.map (fun t => t.id))
/-- Nothing keeps the image of a context back: no COPY of its queues, no pass of its engines. -/
def saveReady (s : State) (c : CtxNum) : Bool := !queuesCopying s c && (placedTeams s c).all (teamQuiet s)
/-- The cores that have held waves of a context's runs. -/
def ctxCores (s : State) (c : CtxNum) : List CoreNum := ((ctxRuns s c).flatMap (fun r => r.cores)).eraseDups
/-- SAVE_COMPLETE (15 R376): State.who names the context. -/
def saveDone (s : State) (c : CtxNum) : State :=
  if (getCtx s c).saving && saveReady s c then
    let s := (placedTeams s c).foldl (fun acc t => saveTeam acc t.id .saved .saved) s
    let s := (ctxCores s c).foldl (leaveCore c) s
    respondOwed (updCtx (writeImage s c) c (fun x => { x with state := .saved, saving := false })) 0x0020 c
  else s
def execSaveComplete (s : State) : Host.Outcome State Fault Refusal := finish (saveDone s s.who.ctx)

/-! ### A team is restored (01 R60, 15 R379) -/

/-- A mesh team of a ring has not ended, so that no room is set aside for another. -/
def ringTaken (s : State) (t : Team) (port : BitVec 3) : Bool :=
  s.teams.any (fun m => decide (m.task = some (t.id, port)) && teamOpen m)
def restoreRing (s : State) (r : Run) (t : Team) (g : Ring) : RingNeed :=
  let n := runNode r (meshNode r t g.port)
  if ringTaken s t g.port then
    { port := g.port, slotBytes := g.slotBytes, room := false, waves := [], pair := n.pair, bars := 0, winSize := 0 }
  else
    { port := g.port, slotBytes := g.slotBytes, room := true, waves := evenWaves n.twaves (n.regs / 8), pair := n.pair,
      bars := n.bars, winSize := 1024 * n.lstore }
/-- What a stopped team needs: places for its live waves with the allotments they have (15 R379). -/
def restoreNeed (s : State) (r : Run) (t : Team) : Need :=
  { waves := (stoppedWaves s t.id).map (fun w => (w.num.toNat, w.allot.toNat / 8)), pair := t.pair, bars := t.nbars,
    winSize := t.winSize, tiles := t.tiles, rings := t.rings.map (restoreRing s r t) }
/-- A ring on its new place, with its payloads. -/
def moveRing (rs : List Ring) (g : Ring) : Ring :=
  match rs.find? (fun n => decide (n.port = g.port)) with
  | some n => { g with base := n.base, room := n.room }
  | none => g

/-! What the record in memory gives back; the rest of a saved team stands in the state (notes/assumptions/53.md). -/

/-- An operation as its replay entry holds it. -/
def entryOver (bs : List Byte) (p : PendOp) (e : Nat) : PendOp :=
  match opOfEntry bs p.seq e with
  | some q => { p with raw := q.raw, instr := resolve p.ix.toNat q.raw, lanes := q.lanes, svals := q.svals, vals := q.vals }
  | none => p
/-- The unfinished operations of a wave as its replay entries hold them, in queue order. -/
def replayOver (bs : List Byte) (w : Wave) : Wave :=
  let seqs := (replayQueue w).map (fun p => p.seq)
  let one := fun (p : PendOp) => entryOver bs p (seqs.findIdx (fun x => decide (x = p.seq)))
  { w with pend := w.pend.map one, sq := w.sq.map one }
/-- Flags and counters, header word 13. -/
def countersOver (bs : List Byte) (w : Wave) : Wave :=
  let x := dwordAt bs 104
  { w with
    flags := cellsWriteAll [] ((List.range 12).map (fun f => (f, x.extractLsb' (2 * f) 2))), cntCopy := x.extractLsb' 32 8,
    cntMatrix := x.extractLsb' 40 8, cntNet := x.extractLsb' 48 8, cntTest := x.extractLsb' 56 8 }
/-- A stopped wave on its new place. -/
def resumeWave (s : State) (bs : List Byte) (p : Place) (w : Wave) : Wave :=
  let clk := coreClock s p.core
  let w := { w with core := p.core, part := p.part, wslot := p.wslot, status := if inHandler w then .trapped else .running,
                    lastIssue := clk, saveA := w.saveA.map (resumeWait clk), saveB := w.saveB.map (resumeWait clk) }
  let a := (slotWait w.slotA).map (resumeWait clk)
  let b := (slotWait w.slotB).map (resumeWait clk)
  pathsOfImage s bs a b (replayOver bs (countersOver bs (restoreImage bs (restoreRegs bs w))))
/-- Each stopped wave goes on, its image at a place of the record. -/
def resumeWaves (s : State) (ps : List Place) : List Byte → List Wave → State
  | _, [] => s
  | bs, w :: r =>
    let s := match ps.find? (fun p => decide (p.num = w.num.toNat)) with
      | some p => setWave s (resumeWave s (bs.take (imageSize w.allot.toNat)) p w)
      | none => s
    resumeWaves s ps (bs.drop (imageRoom w)) r

/-- The words of a part's copied registers, in the shape they had. -/
def shapeOver : List (List Word) → List Byte → List (List Word)
  | [], _ => []
  | x :: r, bs => wordsOf bs x.length :: shapeOver r (bs.drop (4 * x.length))
def partOver (p : QuadPart) (bs : List Byte) : QuadPart :=
  { p with b := shapeOver p.b bs, scales := shapeOver p.scales (bs.drop (4 * p.b.flatten.length)) }
/-- An engine entry with the coefficients, loop record and copied operands of its image. -/
def engineOver (e : Entry) (bs : List Byte) : Entry :=
  let loop := match e.instr with
    | .miter _ => { e.loop with res := wordAt bs 128, rprev := wordAt bs 132, iter := leNat ((bs.drop 136).take 1) }
    | _ => e.loop
  { e with coeffs := wordsOf (bs.drop 64) e.coeffs.length, loop := loop,
           parts := ((List.range e.parts.length).zip e.parts).map (fun x => partOver x.2 (bs.drop (1024 + 5120 * x.1))) }
/-- Engine entries return in their old order with their old ages. -/
def returnEntries (s : State) (cl : ClusterNum) : List Byte → List Entry → State
  | _, [] => s
  | bs, e :: r =>
    let s := updEngine s cl (fun g => match freeEntry g with
      | some i => { g with
          entries := g.entries ++ [{ engineOver e bs with
            idx := i, order := g.nextOrder, eligibleSince := if e.state = .running then some (clusterClk s cl) else none }],
          nextOrder := g.nextOrder + 1 }
      | none => g)
    returnEntries s cl (bs.drop 24576) r
def entriesFree (s : State) (cl : ClusterNum) : Nat := 16 - (getEngine s cl).entries.length

/-- Barriers and copies of a record. -/
def barsOver (bs : List Byte) (t : Team) : Team :=
  let at_ := fun (b : Nat) => dwordAt bs (256 + 8 * b)
  { t with
    barExpect := cellsWriteAll [] ((List.range 16).map (fun b => (b, (at_ b).extractLsb' 0 8))),
    barCount := cellsWriteAll [] ((List.range 16).map (fun b => (b, (at_ b).extractLsb' 8 8))),
    barPhase := (List.range 16).foldl (fun m b => putBarBit m (BitVec.ofNat 5 b) ((at_ b).getLsbD 16)) 0 }
def copiesOver (bs : List Byte) (t : Team) : Team :=
  let head := (dwordAt bs 2560).extractLsb' 0 6
  { t with
    copyHead := head,
    copies := ((List.range t.copies.length).zip t.copies).map (fun x =>
      { x.2 with entry := fieldAt bs (512 + 32 * ((head.toNat + x.1) % 64)) 32 256,
                 units := if x.1 = 0 then (wordAt bs 2564).toNat else x.2.units }) }
/-- Tiles, side memory and window of a record, where the team is now. -/
def returnTiles (s : State) (t : Team) (bs : List Byte) : State :=
  (List.range t.tiles).foldl (fun acc k =>
    { acc with tiles := cellsFill acc.tiles (tileBase (coreCluster t.core) (tileNum t k)) (wordsOf (bs.drop (16384 * k)) 4096) }) s
def returnSide (s : State) (t : Team) (bs : List Byte) : State :=
  (List.range (t.tiles / 8)).foldl (fun acc b =>
    { acc with side := cellsFill acc.side (sideKey (coreCluster t.core) t (8192 * b)) ((bs.drop (8192 * b)).take 8192) }) s
def returnStores (s : State) (t : Team) (n : Nat) (bs : List Byte) : State :=
  let s := { s with lstore := cellsFill s.lstore (localKey t 0) ((bs.drop (winAt t n)).take t.winSize) }
  returnSide (returnTiles s t (bs.drop (tileAt n))) t (bs.drop (tileAt n + 16384 * t.tiles))

/-- A stopped team on a placement: the record in memory gives its state back. -/
def restoreOn (s : State) (t : Team) (v : TeamSave) (p : Placement) : State :=
  let bs := cellsSpan s.mem v.place v.size
  let n := v.entries.length
  let t' := { copiesOver bs (barsOver bs t) with
    status := .running, core := p.core, winBase := p.winBase, copyBase := p.copyBase, rings := t.rings.map (moveRing p.rings),
    tblocks := p.tblocks, placedAt := masterClock s t.stk, saved := none }
  let s := returnStores (setTeam s t') t' n bs
  let s := resumeWaves s p.places (bs.drop (wavesAt t n)) (stoppedWaves s t.id)
  let s := refreshEngine (returnEntries s (coreCluster p.core) (bs.drop engAt) v.entries) (coreCluster p.core)
  let cores := teamCores s t.id
  cores.foldl invalidate (updRun s t.run (fun r => { r with cores := (r.cores ++ cores).eraseDups }))
/-- The task team of a mesh team stands before it. -/
def taskStands (s : State) (t : Team) : Option CoreNum :=
  match t.task with
  | none => none
  | some (task, _) => match findTeam s task with
    | some k => if liveTeam k then some k.core else none
    | none => some t.core
where
  liveTeam (k : Team) : Bool := !(decide (k.status = .saved) || decide (k.status = .swapped))
/-- The restore of a stopped team, where it fits. -/
def tryRestore (s : State) (k : StackNum) (pref : CoreNum) (t : Team) : Option State :=
  match findRun s t.run, t.saved with
  | some r, some v =>
    let n := restoreNeed s r t
    let p := match t.task with
      | none => findPlacement s n k pref
      | some _ => (taskStands s t).bind (meshOnPair s n)
    (match p with
      | some p => if v.entries.length ≤ entriesFree s (coreCluster p.core) then some (restoreOn s t v p) else none
      | none => none)
  | _, _ => none
/-- The first team of a list that fits. -/
def restoreFirst (s : State) (k : StackNum) (pref : CoreNum) : List Team → Option State
  | [] => none
  | t :: r => match tryRestore s k pref t with
    | some s' => some s'
    | none => restoreFirst s k pref r

/-- A context whose every team has been placed goes on as it was (15 R379). -/
def restoreDone (s : State) (c : CtxNum) : State :=
  let x := getCtx s c
  if x.restoring && (savedTeams s c).isEmpty then
    respondOwed (resumeQueues (updCtx s c (fun x => { x with state := x.savedFrom, restoring := false })) c) 0x0021 c
  else s
/-- Saved teams of restoring contexts on a stack. -/
def restoringTeams (s : State) (k : StackNum) : List Team :=
  s.teams.filter (fun t => decide (t.status = .saved) && decide (t.stk = k) && (getCtx s t.ctx).restoring)
/-- SWAPPED teams of open contexts on a stack, the oldest first: in the order in which they were formed (DESIGN CHOICE,
notes/assumptions/68.md). -/
def swappedTeams (s : State) (k : StackNum) : List Team :=
  s.teams.filter (fun t => decide (t.status = .swapped) && decide (t.stk = k) && decide ((getCtx s t.ctx).state = .live) &&
    !(getCtx s t.ctx).saving)

/-! ### PLACE_TEAM (01 R18, 02 R89) -/

/-- A candidate has no place for lack of wave slots, registers, local store or barriers; tiles are left out (01 R59). -/
def lacksRoom (s : State) (k : StackNum) (r : Run) (x : Cand) : Bool :=
  let n := { nodeNeed r x.node with tiles := 0 }
  match x.kind with
  | .mesh t port => (match findTeam s t with
    | none => false
    | some t => ((ringOf t port).bind (fun g => g.room)).isNone && decide (meshOnPair s n t.core = none))
  | _ => decide (findPlacement s n k 0 = none)
/-- Some batch of a context that has its reservation lacks room on a stack. -/
def waitsForRoom (s : State) (k : StackNum) (c : CtxNum) : Bool :=
  (candsOf s k).any (fun x => match findRun s x.run with
    | some r => decide (r.ctx = c) && lacksRoom s k r x && (match tryCand s k 0 x with
        | .noRoom => true
        | _ => false)
    | none => false)
/-- Restores come first; then the scheduler's next batch; then a SWAPPED team of a context that waits for no room. -/
def placeTeam (s : State) (k : StackNum) (pref : CoreNum) : State :=
  match restoreFirst s k pref (restoringTeams s k) with
  | some s' => (List.range 64).foldl (fun acc c => restoreDone acc (BitVec.ofNat 6 c)) s'
  | none =>
    let s1 := placeNext s k pref (isTrigger .now)
    if s1.teams.length ≠ s.teams.length ∨ s1.recs.length ≠ s.recs.length then s1
    else match restoreFirst s1 k pref ((swappedTeams s1 k).filter (fun t => !waitsForRoom s1 k t.ctx)) with
      | some s2 => s2
      | none => s1
/-- PLACE_TEAM: State.who names the stack, and the core tried first. -/
def execPlaceTeam (s : State) : Host.Outcome State Fault Refusal := finish (placeTeam s s.who.stk s.who.core)

/-! ### Rotation (01 R59) -/

/-- A wave is PARKED: it has a populated slot, and every such slot is (01 R57). -/
def parkedWave (w : Wave) : Bool :=
  let ok := fun (x : SlotState) => match x with
    | .empty => true
    | .parked _ _ => true
    | _ => false
  ok w.slotA && ok w.slotB && (decide (w.slotA ≠ .empty) || decide (w.slotB ≠ .empty))
def restless (w : Wave) : Bool := spinning w || parkedWave w
/-- The live waves of a context on a stack. -/
def stackWaves (s : State) (c : CtxNum) (k : StackNum) : List Wave :=
  s.waves.filter (fun w => waveLive w && decide (coreStack w.core = k) && decide (waveCtx s w = c))
/-- The starting conditions. -/
def rotationDue (s : State) (c : CtxNum) (k : StackNum) : Bool :=
  let ws := (stackWaves s c k).filter (fun w => decide (w.status = .running))
  ws.all restless && ws.any spinning && decide ((getCtx s c).state = .live) && !(getCtx s c).saving &&
    (s.teams.any (fun t => decide (t.ctx = c) && decide (t.status = .swapped) && decide (t.stk = k)) || waitsForRoom s k c) &&
    (match (getStack s k).rotatedAt with
      | none => true
      | some a => decide (a + 4096 ≤ masterClock s k))
def largestSpin (s : State) (t : Team) : Nat := ((teamWaves s t.id).filter waveLive).foldl (fun m w => max m w.spin.toNat) 0
/-- Teams that may leave: placed for 65,536 clocks, all waves spinning or PARKED. -/
def mayRotate (s : State) (c : CtxNum) (k : StackNum) (t : Team) : Bool :=
  decide (t.ctx = c) && decide (t.stk = k) && decide (t.status = .running) &&
    decide (t.placedAt + 65536 ≤ masterClock s k) && ((teamWaves s t.id).filter waveLive).all restless &&
    (teamWaves s t.id).any waveLive
/-- Identity of a team for a tie: LAUNCH first, then TEAMIDX (DESIGN CHOICE, notes/assumptions/68.md). -/
def identityOf (t : Team) : Nat := t.launch.toNat * 4294967296 + t.teamIdx.toNat
def rotationVictim (s : State) (c : CtxNum) (k : StackNum) : Option Team :=
  (s.teams.filter (mayRotate s c k)).foldl (fun best t => match best with
    | none => some t
    | some b =>
      if largestSpin s b < largestSpin s t ∨ (largestSpin s b = largestSpin s t ∧ identityOf t < identityOf b) then some t
      else some b) none

/-- The lowest free place of the rotation area for a record, in 4 KiB units. -/
def rotationPlace (s : State) (c : CtxNum) (size : Nat) : Nat :=
  let used := (s.teams.filter (fun t => decide (t.ctx = c) && decide (t.status = .swapped))).filterMap (fun t =>
    t.saved.map (fun v => (v.place, v.size)))
  let base := (getCtx s c).rotbase.toNat
  let ends := base :: used.map (fun u => u.1 + u.2)
  (ends.filter (fun a => used.all (fun u => decide (u.2 = 0) || decide (a + size ≤ u.1) || decide (u.1 + u.2 ≤ a)))).foldl
    (fun m a => if a < m then a else m) (base + (used.map (fun u => u.2)).sum)
/-- The bytes of a team's record. -/
def recordSize (s : State) (t : Team) : Nat :=
  let n := ((t.saved.map (fun v => v.entries)).getD []).length
  (wavesAt t n + ((stoppedWaves s t.id).map imageRoom).sum + 4095) / 4096 * 4096
/-- A stopped team leaves its stack for the rotation area. -/
def rotateOut (s : State) (tid : Nat) : State :=
  let s := saveTeam s tid .swapped .swapped
  match findTeam s tid with
  | none => s
  | some t => writeRecord s tid (rotationPlace s t.ctx (recordSize s t))
/-- The second half of a rotation: the stopped team leaves; the oldest other SWAPPED team that fits comes in, else the next
batch. -/
def swapTeams (s : State) (k : StackNum) (pref : CoreNum) (tid : Nat) : State :=
  let s := rotateOut s tid
  match restoreFirst s k pref ((swappedTeams s k).filter (fun x => decide (x.id ≠ tid))) with
  | some s' => s'
  | none => placeNext s k pref (fun _ => true)
/-- The team of a context that a rotation of a stack has stopped. -/
def leavingTeam (s : State) (c : CtxNum) (k : StackNum) : Option Team :=
  s.teams.find? (fun t => decide (t.ctx = c) && decide (t.stk = k) && decide (t.status = .running) && t.stopping)
/-- The stopped team leaves when no pass of its engine is under way. -/
def endRotation (s : State) (c : CtxNum) (k : StackNum) (pref : CoreNum) : State :=
  match leavingTeam s c k with
  | some t => if teamQuiet s t && !(getCtx s c).saving then swapTeams s k pref t.id else s
  | none => s
/-- Rotation on a stack for a context: one team stops, and leaves as soon as it can. -/
def rotate (s : State) (c : CtxNum) (k : StackNum) (pref : CoreNum) : State :=
  if (leavingTeam s c k).isSome then endRotation s c k pref
  else if rotationDue s c k then
    match rotationVictim s c k with
    | none => s
    | some t =>
      endRotation (updStack (stopTeam s t.id) k (fun x => { x with rotatedAt := some (masterClock s k) })) c k pref
  else s
/-- RESIDENCY_ROTATION: State.who names the stack and the context. -/
def execResidencyRotation (s : State) : Host.Outcome State Fault Refusal := finish (rotate s s.who.ctx s.who.stk s.who.core)

/-! ### Reset of a context (15 R380, 05 R162, 16 R400) -/

/-- Lines and bytes of a context leave a core's cache without write-back. -/
def dropCached (s : State) (c : CtxNum) : State :=
  let lines := s.ccLines.filter (fun e => decide (e.ctx = c))
  { s with
    cc := s.cc.filter (fun b => !(lines.any (fun e => inLine e.core e.host e.line b.1))),
    ccLines := s.ccLines.filter (fun e => decide (e.ctx ≠ c)), tags := s.tags.filter (fun t => decide (t.ctx ≠ c)) }
/-- Entries and gathers of a context leave an engine. -/
def dropEngine (s : State) (c : CtxNum) (ids : List Nat) (cl : ClusterNum) : State :=
  let g := getEngine s cl
  let mine := fun (e : Entry) => match e.kind with
    | .quad t _ => ids.contains t
    | .net x => decide (x.ctx = c)
    | .job t => ids.contains t
  let s := (g.entries.filter mine).foldl (fun acc e => endPass acc cl e) s
  let s := if (getCluster s cl).serving = some .engine ∧ (g.entries.filter mine).any (fun e => e.waitTokens.isSome) = true
    then endServing s cl else s
  refreshEngine (updEngine s cl (fun g => { g with
    entries := g.entries.filter (fun e => !mine e), gathers := g.gathers.filter (fun x => decide (x.ctx ≠ c)) })) cl
/-- A stop that serves one of these waves stops serving. -/
def dropServing (s : State) (wids : List Nat) (cl : ClusterNum) : State :=
  match (getCluster s cl).serving with
  | some (.wave w) => if wids.contains w then endServing s cl else s
  | _ => s
def allClusters : List ClusterNum := (List.range 32).map (BitVec.ofNat 5)

/-- A queue of a context that is reset (16 R400). -/
def resetQueue (q : QueueNum) (x : Queue) (s : State) : State :=
  let s := if x.state = .running ∨ x.state = .waiting then queueError s q 5 else s
  updQueue s q (fun x => { x with paused := false })
/-- Everything of a context goes at once, its TLB entries among it (15 R380). -/
def resetContext (s : State) (c : CtxNum) : State :=
  let teams := s.teams.filter (fun t => decide (t.ctx = c))
  let ids := teams.map (fun t => t.id)
  let runs := (ctxRuns s c).map (fun r => r.id)
  let waves := s.waves.filter (fun w => ids.contains w.team)
  let s := waves.foldl dropHeld s
  let s := allClusters.foldl (fun acc cl => dropServing (dropEngine acc c ids cl) (waves.map (fun w => w.id)) cl) s
  let s := { s with
    waves := s.waves.filter (fun w => !ids.contains w.team), teams := s.teams.filter (fun t => decide (t.ctx ≠ c)),
    recs := s.recs.filter (fun x => !runs.contains x.run), runs := s.runs.filter (fun r => decide (r.ctx ≠ c)) }
  let s := mapCtxQueues (tlbReset (dropCached s c) c) c resetQueue
  updCtx s c (fun x => { x with state := .resetting, frames := [], saving := false, restoring := false })
/-- RESET_COMPLETE (15 R380): State.who names the context. -/
def resetDone (s : State) (c : CtxNum) : State :=
  if (getCtx s c).state = .resetting then respondOwed (updCtx s c (fun x => { x with state := .idle })) 0x0022 c else s
def execResetComplete (s : State) : Host.Outcome State Fault Refusal := finish (resetDone s s.who.ctx)

end Sys2Proof.Machine
end

