-- ==== Sys2Proof/Machine/Raster.lean ====
section
/-! DEFINITION. The binner and the rasteriser of a RASTER node (06 R173 to R184 R435). State.who names the run and the node. -/

namespace Sys2Proof.Machine

/-! ### Parameter memory (06 R175 R178) -/

/-- What an access to parameter memory meets. -/
def pmLoc (s : State) (c : CtxNum) (a n : Nat) (acc : Access) : Except OpFault Loc :=
  let va : DWord := BitVec.ofNat 64 a
  match translate s c va acc with
  | .error k => .error { cause := .translation, fkind := k, lane := 0, addr := va }
  | .ok l => if rangePoisoned s l n then .error { cause := .softError, fkind := 0, lane := 0, addr := va } else .ok l
/-- A read and a write at the home slices, within 64 bytes. -/
def pmRead (s : State) (c : CtxNum) (a n : Nat) : Except OpFault (List Byte) :=
  match pmLoc s c a n .read with
  | .error f => .error f
  | .ok l => .ok (homeRead s l n)
/-- What work on parameter memory comes to: the state, and the fault that has stopped it. Bytes written before the fault stay
(06 R435). -/
abbrev PmResult := State × Option OpFault
def pmWrite (s : State) (c : CtxNum) (a : Nat) (bs : List Byte) : PmResult :=
  match pmLoc s c a (if bs.length < 16 then bs.length else 0) .write with
  | .error f => (s, some f)
  | .ok l => (homeWrite s l bs, none)

/-- Fields of the control block. -/
def Raster.num (x : Raster) : Nat := x.block.toNat
def rbBase (x : Raster) : Nat := bitsOf x.num 147 96
/-- Units of parameter memory. -/
def rbUnits (x : Raster) : Nat := 4 * bitsOf x.num 191 160
def rbWide (x : Raster) : Nat := bitsOf x.num 47 40 + 1
def rbHigh (x : Raster) : Nat := bitsOf x.num 39 32 + 1
def rbHeap (x : Raster) : Nat := heapStart x.num
def rbCull (x : Raster) : Nat := bitsOf x.num 7 6
def rbMs4 (x : Raster) : Bool := x.block.getLsbD 4
def headAddr (x : Raster) (k : Nat) : Nat := rbBase x + 64 + 16 * k
def unitAddr (x : Raster) (u : Nat) : Nat := rbBase x + 64 * u

/-- A tile head. -/
structure TileHead where
  first : Nat
  last : Nat
  count : Nat
  total : Nat
deriving DecidableEq, Repr
def wordNat (bs : List Byte) (k : Nat) : Nat := (wordAt bs (4 * k)).toNat
def readHead (s : State) (c : CtxNum) (x : Raster) (k : Nat) : Except OpFault TileHead :=
  match pmRead s c (headAddr x k) 16 with
  | .error f => .error f
  | .ok bs => .ok { first := wordNat bs 0, last := wordNat bs 1, count := wordNat bs 2, total := wordNat bs 3 }
def headBytes (h : TileHead) : List Byte := leBytes h.first 4 ++ leBytes h.last 4 ++ leBytes h.count 4 ++ leBytes h.total 4
def readHeads (s : State) (c : CtxNum) (x : Raster) : List Nat → Except OpFault (List (Nat × TileHead))
  | [] => .ok []
  | k :: r => match readHead s c x k with
    | .error f => .error f
    | .ok h => match readHeads s c x r with
      | .error f => .error f
      | .ok hs => .ok ((k, h) :: hs)

/-- Writes one after another. -/
def pmWrites (s : State) (c : CtxNum) : List (Nat × List Byte) → PmResult
  | [] => (s, none)
  | (a, bs) :: r => match pmWrite s c a bs with
    | (s, some f) => (s, some f)
    | (s, none) => pmWrites s c r

/-! ### The node stops (06 R435) -/

def updRaster (s : State) (run : Nat) (node : BitVec 8) (f : Raster → Raster) : State :=
  updRun s run (fun r => { r with rasters := r.rasters.map (fun x => if x.node = node then f x else x) })
/-- The records in the node's queue are dropped and counted. -/
def dropQueue (s : State) (r : Run) (node : BitVec 8) : State :=
  let xs := s.recs.filter (fun x => decide (x.run = r.id) && decide (x.node = node))
  countDrops (xs.foldl freeRec (takeRecs s xs)) r.ctx xs.length
def stopNode (s : State) (r : Run) (node : BitVec 8) (f : OpFault) : State :=
  let s := updRaster s r.id node (fun x => { x with stopped := true, flush := none })
  logUnit (dropQueue s r node) r.ctx f.cause f.fkind f.addr none false
/-- The result of work on parameter memory, or the node's stop. -/
def orStop (r : Run) (node : BitVec 8) : PmResult → State
  | (s, none) => s
  | (s, some f) => stopNode s r node f
/-- The raster node of an event, in a run that may go on. -/
def onRaster (f : Run → Raster → State → State) (s : State) : Host.Outcome State Fault Refusal :=
  match findRun s s.who.run with
  | none => .next s
  | some r => match r.rasters.find? (fun x => decide (x.node = s.who.node)) with
    | none => .next s
    | some x => finish (if runOpen s r then f r x s else s)
/-- RASTER_STOP: records that reach a stopped node are dropped too. -/
def execRasterStop (s : State) : Host.Outcome State Fault Refusal :=
  onRaster (fun r x s => if x.stopped then dropQueue s r x.node else s) s

/-- Parameter memory as a run starts (06 R178). -/
def initRaster (s : State) (r : Run) (x : Raster) : State :=
  orStop r x.node (pmWrites s r.ctx ((rbBase x, leBytes (rbHeap x) 64) ::
    (List.range (rasterTiles x.num)).map (fun k => (headAddr x k, List.replicate 16 0))))

/-! ### The binner (06 R176 R177 R179) -/

/-- A coordinate in 16.8 fixed point, none where the primitive is discarded. -/
def snap (x : Word) : Option Int :=
  match (mulVal (f32 x) (pow2Val 8)).1 with
  | .fin neg num den e =>
    let r := (roundInt .ne neg num den e).1
    if -8388608 ≤ r ∧ r ≤ 8388607 then some r else none
  | _ => none
/-- The six snapped coordinates x0, y0, x1, y1, x2, y2. -/
def snapAll (bs : List Byte) : Option (List Int) :=
  (List.range 6).foldr (fun k acc => match acc, snap (wordAt bs (4 * k)) with
    | some l, some v => some (v :: l)
    | _, _ => none) (some [])
def coord (v : List Int) (k : Nat) : Int := v.getD k 0
/-- The signed area A. -/
def signedArea (v : List Int) : Int :=
  (coord v 2 - coord v 0) * (coord v 5 - coord v 1) - (coord v 4 - coord v 0) * (coord v 3 - coord v 1)
def culled (x : Raster) (a : Int) : Bool :=
  decide (a = 0) || (decide (rbCull x = 1) && decide (0 < a)) || (decide (rbCull x = 2) && decide (a < 0))
def min3 (a b c : Int) : Int := min a (min b c)
def max3 (a b c : Int) : Int := max a (max b c)
/-- The closed span of tile t meets a closed interval, in units of 1/256 pixel. -/
def tileMeets (t : Nat) (lo hi : Int) : Bool := decide (lo ≤ 8192 * ((t : Int) + 1)) && decide (8192 * (t : Int) ≤ hi)
/-- The tiles that list a primitive, in ascending order. -/
def listedTiles (x : Raster) (v : List Int) : List Nat :=
  let xs := (List.range (rbWide x)).filter (fun t =>
    tileMeets t (min3 (coord v 0) (coord v 2) (coord v 4)) (max3 (coord v 0) (coord v 2) (coord v 4)))
  let ys := (List.range (rbHigh x)).filter (fun t =>
    tileMeets t (min3 (coord v 1) (coord v 3) (coord v 5)) (max3 (coord v 1) (coord v 3) (coord v 5)))
  ys.flatMap (fun ty => xs.map (fun tx => ty * rbWide x + tx))

/-- What appending a primitive to a tile writes: the head, and the chunk that is new or the last one. -/
def appendWrites (x : Raster) (prim : Nat) (k : Nat) (h : TileHead) (new : Nat) : List (Nat × List Byte) :=
  let fresh := decide (h.count % 15 = 0)
  let link := if fresh ∧ h.count ≠ 0 then [(unitAddr x h.last + 60, leBytes new 4)] else []
  let entry := if fresh then [(unitAddr x new, leBytes prim 64)] else [(unitAddr x h.last + 4 * (h.count % 15), leBytes prim 4)]
  let h' : TileHead := { first := if h.count = 0 then new else h.first, last := if fresh then new else h.last,
                         count := h.count + 1, total := h.total + 1 }
  entry ++ link ++ [(headAddr x k, headBytes h')]
/-- All of them, new chunks taken in ascending tile order. -/
def listWrites (x : Raster) (prim : Nat) : Nat → List (Nat × TileHead) → List (Nat × List Byte)
  | _, [] => []
  | next, (k, h) :: r =>
    appendWrites x prim k h next ++ listWrites x prim (if h.count % 15 = 0 then next + 1 else next) r
/-- The primitive block. -/
def primBlock (v : List Int) (bs : List Byte) : List Byte :=
  padTo 64 (wordBytes (v.map (BitVec.ofInt 32)) ++ ((bs.drop 24).take 8))
/-- Adds 1 to a word of the header. -/
def countWord (s : State) (c : CtxNum) (x : Raster) (k : Nat) : PmResult :=
  match pmRead s c (rbBase x) 64 with
  | .error f => (s, some f)
  | .ok h => pmWrite s c (rbBase x + 4 * k) (leBytes (wordNat h k + 1) 4)

/-- What the binner does with a primitive: it is done with it, or a partial flush comes first. -/
inductive Binned
  | done (q : PmResult)
  | flush
def binPrim (s : State) (c : CtxNum) (x : Raster) (bs : List Byte) : Binned :=
  match snapAll bs with
  | none => .done (countWord s c x 2)
  | some v =>
    if culled x (signedArea v) then .done (countWord s c x 1)
    else
      match readHeads s c x (listedTiles x v), pmRead s c (rbBase x) 64 with
      | .error f, _ => .done (s, some f)
      | _, .error f => .done (s, some f)
      | .ok hs, .ok hd =>
        let need := 1 + (hs.filter (fun h => decide (h.2.count % 15 = 0))).length
        let bump := wordNat hd 0
        if rbUnits x - rbHeap x < need then .done (countWord s c x 2)
        else if rbUnits x < bump + need then .flush
        else .done (pmWrites s c ((rbBase x, leBytes (bump + need) 4) :: (unitAddr x bump, primBlock v bs) ::
          listWrites x bump (bump + 1) hs))

/-! ### A flush (06 R180 R181) -/

/-- The entries of a tile's list, in the order the binner took them. -/
def listUnits (s : State) (c : CtxNum) (x : Raster) : Nat → Nat → Nat → Except OpFault (List Nat)
  | 0, _, _ => .ok []
  | f + 1, u, n =>
    if n = 0 then .ok []
    else match pmRead s c (unitAddr x u) 64 with
      | .error e => .error e
      | .ok bs =>
        let m := min n 15
        match listUnits s c x f (wordNat bs 15) (n - m) with
        | .error e => .error e
        | .ok r => .ok ((List.range m).map (wordNat bs) ++ r)
/-- Stable insertion by PRIM. -/
def insertPrim (a : Nat × Nat) : List (Nat × Nat) → List (Nat × Nat)
  | [] => [a]
  | b :: r => if a.1 ≤ b.1 then a :: b :: r else b :: insertPrim a r
def primNumbers (s : State) (c : CtxNum) (x : Raster) : List Nat → Except OpFault (List (Nat × Nat))
  | [] => .ok []
  | u :: r => match pmRead s c (unitAddr x u) 64 with
    | .error e => .error e
    | .ok bs => match primNumbers s c x r with
      | .error e => .error e
      | .ok l => .ok ((wordNat bs 6, u) :: l)
/-- The primitives of a tile in primitive order. -/
def tilePrims (s : State) (c : CtxNum) (x : Raster) (k : Nat) : Except OpFault (List Nat) :=
  match readHead s c x k with
  | .error e => .error e
  | .ok h => match listUnits s c x (h.count / 15 + 1) h.first h.count with
    | .error e => .error e
    | .ok us => (primNumbers s c x us).map (fun l => (l.foldr insertPrim []).map (fun p => p.2))
/-- The first tile from k on that lists a primitive, of n tiles left; none where no tile is left. -/
def nextTile (s : State) (c : CtxNum) (x : Raster) : Nat → Nat → Except OpFault (Option (Nat × List Nat))
  | 0, _ => .ok none
  | n + 1, k => match tilePrims s c x k with
    | .error e => .error e
    | .ok [] => nextTile s c x n (k + 1)
    | .ok l => .ok (some (k, l))
/-- The end of a flush: the heap is reset. -/
def endFlush (s : State) (r : Run) (x : Raster) (final : Bool) : PmResult :=
  match readHeads s r.ctx x (List.range (rasterTiles x.num)) with
  | .error e => (s, some e)
  | .ok hs =>
    match pmWrites s r.ctx (hs.map (fun h => (headAddr x h.1, headBytes { h.2 with first := 0, last := 0, count := 0 })) ++
        [(rbBase x, leBytes (rbHeap x) 4)]) with
    | (s, some e) => (s, some e)
    | (s, none) =>
      let s := updRaster s r.id x.node (fun x => { x with flush := none, flushSeq := x.flushSeq + 1, finalDone := x.finalDone || final })
      if final then (s, none) else countWord s r.ctx x 3
/-- The flush goes on at tile k, or ends. -/
def flushFrom (s : State) (r : Run) (x : Raster) (final : Bool) (k : Nat) : PmResult :=
  match nextTile s r.ctx x (rasterTiles x.num - k) k with
  | .error e => (s, some e)
  | .ok none => endFlush s r x final
  | .ok (some (t, l)) =>
    (updRaster s r.id x.node (fun x => { x with flush := some { final := final, tile := t, prims := l } }), none)

/-- The primitive that the binner takes from its queue: the one that has called a flush, else the one the event names
(notes/assumptions/82.md). -/
def binChoice (x : Raster) (n : Nat) (part : List Rec) : Option Rec :=
  match x.called with
  | some t => part.find? (fun p => decide (p.tag = t))
  | none => match part[n]? with
    | some p => some p
    | none => part.head?
/-- The binner takes its next primitive. -/
def binNext (r : Run) (x : Raster) (s : State) : State :=
  if x.stopped || x.flush.isSome then s
  else match binChoice x s.who.count (queuePart s r.id x.node (rasterHome x)) with
    | none => s
    | some p =>
      let s := pullRecords s none [p.tag]
      orStop r x.node (match binPrim s r.ctx x p.bytes with
        | .flush => flushFrom (updRaster s r.id x.node (fun x => { x with called := some p.tag })) r x false 0
        | .done (s, some f) => (s, some f)
        | .done (s, none) => (updRaster (freeRec (takeRecs s [p]) p) r.id x.node (fun x => { x with called := none }), none))
/-- BIN_PRIMITIVE (06 R179). -/
def execBinPrimitive (s : State) : Host.Outcome State Fault Refusal := onRaster binNext s

/-- A node from which a path leads to the RASTER node. -/
def feeds (r : Run) (node i : Nat) : Bool := decide (i ≠ node) && (reachFrom r.edges r.nodes.length [i]).contains node
/-- The node's inputs are exhausted: nothing upstream stands, waits or moves, and no RASTER node upstream has primitives to render
(06 R180, notes/assumptions/94.md). -/
def inputsDone (s : State) (r : Run) (x : Raster) : Bool :=
  let up := fun (n : BitVec 8) => feeds r x.node.toNat n.toNat
  s.recs.all (fun y => decide (y.run ≠ r.id) || (decide (y.node ≠ x.node) && !up y.node)) &&
    (runTeams s r).all (fun t => (!teamOpen t || !up t.node) &&
      t.rings.all (fun g => g.pays.isEmpty || !up (meshNode r t g.port))) &&
    r.grids.all (fun g => !up g.node) && r.steals.all (fun v => !up v.node) &&
    r.rasters.all (fun y => decide (y.node = x.node) || !up y.node || rasterIdle y)
/-- FINAL_FLUSH (06 R180). -/
def finalFlush (r : Run) (x : Raster) (s : State) : State :=
  if x.stopped || x.flush.isSome || x.finalDone || !inputsDone s r x then s else orStop r x.node (flushFrom s r x true 0)
def execFinalFlush (s : State) : Host.Outcome State Fault Refusal := onRaster finalFlush s

/-! ### The rasteriser (06 R182 to R184) -/

/-- Sample offsets in 1/256 pixel. -/
def samples (ms4 : Bool) : List (Nat × Int × Int) :=
  if ms4 then [(0, 96, 32), (1, 224, 96), (2, 32, 160), (3, 160, 224)] else [(0, 128, 128)]
/-- The edge function, and whether a sample lies inside its edge. -/
def insideEdge (ax ay bx by_ px py : Int) : Bool :=
  let e := (bx - ax) * (py - ay) - (by_ - ay) * (px - ax)
  decide (0 < e) || (decide (e = 0) && ((decide (ay = by_) && decide (ax < bx)) || decide (by_ < ay)))
/-- Vertices in the order of the rasteriser. -/
def ordered (v : List Int) : List (Int × Int) :=
  let a := (coord v 0, coord v 1)
  let b := (coord v 2, coord v 3)
  let c := (coord v 4, coord v 5)
  if 0 < signedArea v then [a, b, c] else [a, c, b]
def covered (v : List Int) (px py : Int) : Bool :=
  match ordered v with
  | [a, b, c] => insideEdge a.1 a.2 b.1 b.2 px py && insideEdge b.1 b.2 c.1 c.2 px py && insideEdge c.1 c.2 a.1 a.2 px py
  | _ => false
/-- COV of the quad whose top-left pixel is (qx, qy). -/
def quadMask (ms4 : Bool) (v : List Int) (qx qy : Nat) : Nat :=
  ((List.range 4).flatMap (fun i => (samples ms4).map (fun p =>
    if covered v (256 * ((qx + i % 2 : Nat) : Int) + p.2.1) (256 * ((qy + i / 2 : Nat) : Int) + p.2.2)
    then 2 ^ (4 * i + p.1) else 0))).sum
/-- The quad records of a primitive in a tile, in order. -/
def quadBytes (ms4 : Bool) (bs : List Byte) (tx ty : Nat) : List (List Byte) :=
  let v := (List.range 6).map (fun k => (wordAt bs (4 * k)).toInt)
  (List.range 256).filterMap (fun q =>
    let qx := 32 * tx + 2 * (q % 16)
    let qy := 32 * ty + 2 * (q / 16)
    let m := quadMask ms4 v qx qy
    if m = 0 then none
    else some (leBytes (qx + qy * 2 ^ 16 + wordNat bs 6 * 2 ^ 32 + wordNat bs 7 * 2 ^ 64 + m * 2 ^ 96 +
      (decide (0 < signedArea v)).toNat * 2 ^ 112) 16))

/-- 256 slots can be reserved on port 0 of the node without the cycle reserve (06 R184, 02 R80). -/
def quadRoom (s : State) (r : Run) (x : Raster) (dst : BitVec 8) : Bool :=
  let room := recordsFree s r.ctx
  let a := min 256 (min (storeFree s r dst (rasterHome x)) room)
  decide (256 - a ≤ min (spillFree s r.ctx) (room - a))
/-- One quad record is appended; no rule gives its DEPTH, which is free (notes/assumptions/42.md). -/
def emitQuad (r : Run) (node : BitVec 8) (k : StackNum) (edge : Nat) (dst : BitVec 8) (s : State) (bs : List Byte) : State :=
  let d := freeVal s
  let q := nextSeq d.2 r.ctx k
  let spilled := decide (storeFree q.2 r dst k = 0)
  let pos := (((findRun s r.id).bind (fun r => r.rasters.find? (fun x => decide (x.node = node)))).map (fun x => x.emitted)).getD 0
  let y : Rec := { run := r.id, node := dst, stk := k, slot := k, tag := mkTag k (d.1.extractLsb' 0 8) r.ctx q.1, bytes := bs,
                   edge := some edge, spilled := spilled, since := masterClock s k, transit := false, latch := pos }
  let s := updRaster q.2 r.id node (fun x => { x with emitted := x.emitted + 1 })
  let s := updStack s k (fun t => { t with appended := t.appended + 1,
                                           spilledCount := if spilled then t.spilledCount + 1 else t.spilledCount })
  { s with recs := s.recs ++ [y] }
/-- One primitive in one tile. -/
def rasterTile (r : Run) (x : Raster) (s : State) : State :=
  match x.flush, portEdge r x.node 0 with
  | some f, some edge =>
    let dst : BitVec 8 := BitVec.ofNat 8 (((r.edges[edge]?).map (fun e => e.dst)).getD 0)
    (match f.prims with
      | [] => s
      | u :: rest =>
        if x.stopped || !quadRoom s r x dst then s
        else orStop r x.node (match pmRead s r.ctx (unitAddr x u) 64 with
          | .error e => (s, some e)
          | .ok bs =>
            let s := (quadBytes (rbMs4 x) bs (f.tile % rbWide x) (f.tile / rbWide x)).foldl
              (emitQuad r x.node (rasterHome x) edge dst) s
            if rest.isEmpty then flushFrom s r x f.final (f.tile + 1)
            else (updRaster s r.id x.node (fun x => { x with flush := some { f with prims := rest } }), none)))
  | _, _ => s
/-- RASTER_PRIMITIVE_TILE (06 R184). -/
def execRasterPrimitiveTile (s : State) : Host.Outcome State Fault Refusal := onRaster rasterTile s

end Sys2Proof.Machine
end

