-- ==== Sys2Proof/Machine/Keyway.lean ====
section
/-! DEFINITION. Keyway: the instructions of the 32 hardware queues (16 R385 to R394). State.iss.queue names the lane. Time is
the master clock of stack 0, where the command core lies. -/

namespace Sys2Proof.Machine

/-! ### Lanes (16 R386 R388) -/

/-- An offset in the ring of 2^QSIZE bytes. -/
def ringOffset (x : Queue) (a : BitVec 24) : BitVec 24 := BitVec.ofNat 24 (a.toNat % 2 ^ x.qsize.toNat)
/-- The distance of an offset from QFREE, in ring order. -/
def ringAhead (x : Queue) (a : BitVec 24) : Nat := (ringOffset x (a - x.qfree)).toNat
/-- Bytes of the device's part of the ring. -/
def ringHeld (x : Queue) : Nat := ringAhead x x.qwr
/-- An offset lies in the device's part, from QFREE up to QWR. -/
def ringInside (x : Queue) (a : BitVec 24) : Bool := decide (ringAhead x a < ringHeld x)
/-- All 8 bytes of the word at PC lie in the device's part (16 R386). -/
def wordCovered (x : Queue) : Bool := decide (ringAhead x x.pc + 8 ≤ ringHeld x)

def curQueue (s : State) : Queue := getQueue s s.iss.queue
def updLane (s : State) (f : Queue → Queue) : State := updQueue s s.iss.queue f
def qreg (x : Queue) (r : QReg) : DWord := cellsRead x.regs r.toNat
def setQreg (x : Queue) (r : QReg) (v : DWord) : Queue := { x with regs := cellsWrite x.regs r.toNat v }
/-- The queue has executed an instruction and goes on at an offset; under HALT it stops there (16 R385 R399). -/
def queueGoes (x : Queue) (pc : BitVec 24) : Queue :=
  let y := { x with pc := ringOffset x pc, executed := x.executed + 1, wait := none, copy := none, state := .running }
  if x.halting then { y with state := .idle, en := false, halting := false } else y
def queueNext (x : Queue) : Queue := queueGoes x (x.pc + 8)
/-- An instruction that writes a register and goes on. -/
def writeNext (s : State) (d : QReg) (v : DWord) : Host.Outcome State Fault Refusal :=
  .next (updLane s (fun x => queueNext (setQreg x d v)))
/-- The lane meets an error. -/
def laneError (s : State) (code : BitVec 8) : State := queueError s s.iss.queue code

/-! ### Arithmetic (16 R389) -/

/-- QLI. -/
def execQli (d : QReg) (imm : Word) (s : State) : Host.Outcome State Fault Refusal := writeNext s d (imm.signExtend 64)
/-- QLIH. -/
def execQlih (d : QReg) (imm : Word) (s : State) : Host.Outcome State Fault Refusal :=
  writeNext s d (imm ++ (qreg (curQueue s) d).extractLsb' 0 32)
/-- QADD. -/
def execQadd (d a b : QReg) (s : State) : Host.Outcome State Fault Refusal :=
  writeNext s d (qreg (curQueue s) a + qreg (curQueue s) b)
/-- QADDI. -/
def execQaddi (d a : QReg) (imm : Word) (s : State) : Host.Outcome State Fault Refusal :=
  writeNext s d (qreg (curQueue s) a + imm.signExtend 64)
/-- QSUB. -/
def execQsub (d a b : QReg) (s : State) : Host.Outcome State Fault Refusal :=
  writeNext s d (qreg (curQueue s) a - qreg (curQueue s) b)
/-- QAND. -/
def execQand (d a b : QReg) (s : State) : Host.Outcome State Fault Refusal :=
  writeNext s d (qreg (curQueue s) a &&& qreg (curQueue s) b)
/-- QOR. -/
def execQor (d a b : QReg) (s : State) : Host.Outcome State Fault Refusal :=
  writeNext s d (qreg (curQueue s) a ||| qreg (curQueue s) b)
/-- QSHL. -/
def execQshl (d a : QReg) (n : BitVec 6) (s : State) : Host.Outcome State Fault Refusal :=
  writeNext s d (qreg (curQueue s) a <<< n.toNat)
/-- QSHR. -/
def execQshr (d a : QReg) (n : BitVec 6) (s : State) : Host.Outcome State Fault Refusal :=
  writeNext s d (qreg (curQueue s) a >>> n.toNat)

/-! ### Memory (16 R389 R391 R392): at the home slices or the host -/

/-- The place of the aligned 64-bit word at an address, none where it is queue error 0x03 (16 R393). -/
def wordPlace (s : State) (c : CtxNum) (a : DWord) (acc : Access) : Option Loc :=
  if a.toNat % 8 ≠ 0 then none
  else match translate s c a acc with
    | .error _ => none
    | .ok l => if rangePoisoned s l 8 then none else some l
/-- A read with the effect of a relaxed atomic, or an acquire: the line's release tags are pulled (03 R118). -/
def homeLoad64 (s : State) (l : Loc) : DWord × State :=
  let s := pullTags s none l
  (BitVec.ofNat 64 (leNat (homeRead s l 8)), s)
def homeStore64 (s : State) (l : Loc) (v : DWord) : State := homeWrite s l (leBytes v.toNat 8)

/-- QLD. -/
def execQld (d a : QReg) (imm : Word) (s : State) : Host.Outcome State Fault Refusal :=
  let x := curQueue s
  match wordPlace s x.ctx (qreg x a + imm.signExtend 64) .read with
  | none => .next (laneError s 3)
  | some l =>
    let r := homeLoad64 s l
    writeNext r.2 d r.1
/-- QST. -/
def execQst (a b : QReg) (imm : Word) (s : State) : Host.Outcome State Fault Refusal :=
  let x := curQueue s
  match wordPlace s x.ctx (qreg x a + imm.signExtend 64) .write with
  | none => .next (laneError s 3)
  | some l => .next (updLane (homeStore64 s l (qreg x b)) queueNext)
/-- SIGNAL (16 R391): one atomic operation; the command core holds no dirty byte, so the release tag of a lazy write would
cover nothing, and none is made. -/
def execSignal (op : SigOp) (_sys int : Bool) (a b : QReg) (s : State) : Host.Outcome State Fault Refusal :=
  let x := curQueue s
  match wordPlace s x.ctx (qreg x a) .write with
  | none => .next (laneError s 3)
  | some l =>
    let r := homeLoad64 s l
    let v := match op with
      | .set => qreg x b
      | .add => r.1 + qreg x b
    let s' := updLane (homeStore64 r.2 l v) queueNext
    .next (if int then irq s' (s.iss.queue.toNat + 1) else s')

/-! ### Control (16 R388 R389) -/

/-- cc(x, y). -/
def condHolds (cc : QCond) (x y : DWord) : Bool :=
  match cc with
  | .always => true | .eq => decide (x = y) | .ne => decide (x ≠ y) | .lo => decide (x.toNat < y.toNat)
  | .hs => decide (y.toNat ≤ x.toNat) | .lt => decide (x.toInt < y.toInt) | .ge => decide (y.toInt ≤ x.toInt)
/-- A branch target. -/
def branchTarget (x : Queue) (imm : Word) : BitVec 24 := ringOffset x (x.pc + 8 * imm.setWidth 24)
/-- To a target with a change of the queue; a bad target is queue error 0x02 and changes nothing. -/
def branchTo (s : State) (imm : Word) (f : Queue → Queue) : State :=
  let x := curQueue s
  if ringInside x (branchTarget x imm) then updLane s (fun x => queueGoes (f x) (branchTarget x imm)) else laneError s 2
/-- BR. -/
def execBr (cc : QCond) (a b : QReg) (imm : Word) (s : State) : Host.Outcome State Fault Refusal :=
  let x := curQueue s
  .next (if condHolds cc (qreg x a) (qreg x b) then branchTo s imm id else updLane s queueNext)
/-- LOOP. -/
def execLoop (d : QReg) (imm : Word) (s : State) : Host.Outcome State Fault Refusal :=
  let v := qreg (curQueue s) d - 1
  .next (if v ≠ 0 then branchTo s imm (fun x => setQreg x d v) else updLane s (fun x => queueNext (setQreg x d v)))
/-- CALL. -/
def execKeywayCall (imm : Word) (s : State) : Host.Outcome State Fault Refusal :=
  if 4 ≤ (curQueue s).rstack.length then .next (laneError s 4)
  else .next (branchTo s imm (fun x => { x with rstack := ringOffset x (x.pc + 8) :: x.rstack }))
/-- RET. -/
def execKeywayRet (s : State) : Host.Outcome State Fault Refusal :=
  match (curQueue s).rstack with
  | [] => .next (laneError s 4)
  | a :: r => .next (updLane s (fun x => queueGoes { x with rstack := r } a))
/-- END. -/
def execEndq (int : Bool) (s : State) : Host.Outcome State Fault Refusal :=
  let s' := updLane s (fun x => queueNext { x with qfree := ringOffset x (x.pc + 8) })
  .next (if int then irq s' (s.iss.queue.toNat + 1) else s')

/-! ### WAIT (16 R392) -/

/-- One read of the signal: the queue goes on, or waits. -/
def waitRead (s : State) (q : QueueNum) (w : QWait) : State :=
  match wordPlace s (getQueue s q).ctx w.addr .read with
  | none => queueError s q 3
  | some l =>
    let r := homeLoad64 s l
    updQueue r.2 q (fun x =>
      if condHolds w.cc r.1 (qreg x w.b) then queueNext (setQreg x w.d 0)
      else { x with state := .waiting, wait := some { w with woken := false, last := masterClock s 0 } })
/-- WAIT: the first read. -/
def execWait (cc : QCond) (_sys : Bool) (d a b : QReg) (us : Word) (s : State) : Host.Outcome State Fault Refusal :=
  let clk := masterClock s 0
  .next (waitRead s s.iss.queue { addr := qreg (curQueue s) a, cc := cc, d := d, b := b, us := us, first := clk, woken := false,
                                  last := clk })
/-- The signal lies in host memory, and a microsecond has passed since the last read. -/
def pollDue (s : State) (c : CtxNum) (w : QWait) : Bool :=
  decide (w.last + Config.clocksPerUs ≤ masterClock s 0) && (match translate s c w.addr .read with
    | .ok l => l.host
    | .error _ => false)
/-- WAIT_WAKE: a write to the line, the poll of host memory, or the timeout. -/
def waitWake (s : State) (q : QueueNum) : State :=
  let x := getQueue s q
  match x.wait with
  | none => s
  | some w =>
    if x.state ≠ .waiting ∨ x.paused = true then s
    else if w.us ≠ 0 ∧ w.first + Config.clocksPerUs * w.us.toNat ≤ masterClock s 0 then
      updQueue s q (fun x => queueNext (setQreg x w.d 1))
    else if w.woken || pollDue s x.ctx w then waitRead s q w
    else s
def execWaitWake (q : QueueNum) (s : State) : Host.Outcome State Fault Refusal := .next (waitWake s q)

/-! ### LAUNCH (16 R390) -/

/-- Bytes that a Keyway instruction reads at an address: 8-byte aligned (DESIGN CHOICE, notes/assumptions/43.md). -/
def readBlock (s : State) (c : CtxNum) (a : DWord) (n : Nat) : Option Nat :=
  if a.toNat % 8 ≠ 0 ∨ 4503599627370496 ≤ a.toNat then none else (readAt s c a.toNat n).map leNat
def lbSig (b : Nat) : Nat := bitsOf b 243 192
def lbRecs (b : Nat) : Nat := bitsOf b 179 128
def lbNode (b : Nat) : Nat := bitsOf b 87 80
def lbNrec (b : Nat) : Nat := bitsOf b 79 64
def lbGraph (b : Nat) : Nat := bitsOf b 51 0
/-- Check 2 but for NODE. -/
def launchBad (b : Nat) : Bool :=
  anyRz b [(511, 256), (255, 244), (191, 180), (127, 91), (63, 52)] || decide (2 ≤ bitsOf b 90 89) || decide (lbNrec b = 0) ||
    decide (lbRecs b % 16 ≠ 0) || decide (lbSig b % 8 ≠ 0)

/-- What a launch comes to: queue error 0x03, a status, or a started run. -/
inductive Launched
  | error
  | status (st : BitVec 8)
  | started (s : State)
/-- Raster nodes of the newest run get their parameter memory (06 R178). -/
def initRasters (s : State) (id : Nat) : State :=
  match findRun s id with
  | none => s
  | some r => r.rasters.foldl (fun acc x => initRaster acc r x) s
/-- Checks 3 and 4 and the start, with a block and a header that have been read. -/
def launchRun (s : State) (c : CtxNum) (b h : Nat) : Launched :=
  match readGraph s (readAt s c) (lbGraph b) h with
  | none => .error
  | some d =>
    if d.status ≠ 0 then .status d.status
    else if noRoom s c d then .status 6
    else
      let node : BitVec 8 := BitVec.ofNat 8 (lbNode b)
      let k : StackNum := BitVec.ofNat 1 (bitsOf b 88 88)
      let start := startRun s c d (BitVec.ofNat 64 (lbSig b)) (decide (bitsOf b 90 89 = 1)) node k (lbNrec b)
      match start (List.replicate (lbNrec b * (d.nodes.getD node.toNat blankNode).rsize) 0) with
      | none => .status 0x10
      | some _ =>
        match readAt s c (lbRecs b) (lbNrec b * (d.nodes.getD node.toNat blankNode).rsize) with
        | none => .error
        | some bs => match start bs with
          | none => .status 0x10
          | some s' => .started (initRasters s' s.nextId)
def launchOf (s : State) (c : CtxNum) (a : DWord) : Launched :=
  let st := (getCtx s c).state
  if st = .saved ∨ st = .resetting then .status 0x12
  else match readBlock s c a 64 with
    | none => .error
    | some b =>
      if launchBad b then .status 0x11
      else match readAt s c (lbGraph b) 64 with
        | none => .error
        | some hb => if hdrNodes (leNat hb) ≤ lbNode b then .status 0x11 else launchRun s c b (leNat hb)
/-- LAUNCH. -/
def execLaunch (d a : QReg) (s : State) : Host.Outcome State Fault Refusal :=
  let x := curQueue s
  match launchOf s x.ctx (qreg x a) with
  | .error => finish (laneError s 3)
  | .status st => writeNext s d (st.setWidth 64)
  | .started s' => finish (updLane s' (fun x => queueNext (setQreg x d 0)))

/-! ### COPY (16 R394) -/

def cbLen (b : Nat) : Nat := bitsOf b 159 128
def cbDst (b : Nat) : Nat := bitsOf b 115 64
def cbSrc (b : Nat) : Nat := bitsOf b 51 0
def cbWeight (b : Nat) : Bool := decide (bitsOf b 161 160 = 1)
/-- Queue error 0x01 of a copy block. -/
def copyBad (b : Nat) : Bool :=
  anyRz b [(255, 162), (127, 116), (63, 52)] || decide (2 ≤ bitsOf b 161 160) || decide (cbSrc b % 16 ≠ 0) ||
    decide (cbDst b % 16 ≠ 0) || decide (cbLen b % 16 ≠ 0) || decide (cbLen b < 16)
/-- A range of weight addresses lies outside a context's window. -/
def weightOutside (s : State) (c : CtxNum) (a n : Nat) : Bool := decide (weightSize s c < a + n)
/-- COPY: the block is read and checked; the units follow. -/
def execCopy (a : QReg) (s : State) : Host.Outcome State Fault Refusal :=
  let x := curQueue s
  match readBlock s x.ctx (qreg x a) 32 with
  | none => .next (laneError s 3)
  | some b =>
    if copyBad b then .next (laneError s 1)
    else if cbWeight b && weightOutside s x.ctx (cbDst b) (cbLen b) then .next (laneError s 6)
    else .next (updLane s (fun x => { x with copy := some { block := BitVec.ofNat 256 b, units := 0 } }))

/-- A unit read at home; none is queue error 0x03. -/
def unitSource (s : State) (c : CtxNum) (a : Nat) : Option (List Byte) :=
  match translate s c (BitVec.ofNat 64 a) .read with
  | .error _ => none
  | .ok l => if rangePoisoned s l 16 then none else some (homeRead s l 16)
/-- A unit of 16 bytes written into both weight stores; none where no stack serves its bank (18 R427). -/
def unitWeight (s : State) (c : CtxNum) (a : Nat) (bs : List Byte) : Option State :=
  let b := weightBank ((getCtx s c).wbase.toNat + a)
  if bankRetired s 0 b && bankRetired s 1 b then none else some (weightWrite s c a bs)
/-- One 16-byte unit of a copy: the state after it, or a queue error. -/
def keywayUnit (s : State) (c : CtxNum) (b j : Nat) : Except (BitVec 8) State :=
  match unitSource s c (cbSrc b + 16 * j) with
  | none => .error 3
  | some bs =>
    if cbWeight b then (match unitWeight s c (cbDst b + 16 * j) bs with
      | some s => .ok s
      | none => .error 6)
    else match translate s c (BitVec.ofNat 64 (cbDst b + 16 * j)) .write with
      | .error _ => .error 3
      | .ok l => .ok (homeWrite s l bs)
def keywayUnits (c : CtxNum) (b : Nat) : Nat → Nat → State → State × Nat × Option (BitVec 8)
  | 0, j, s => (s, j, none)
  | n + 1, j, s =>
    match keywayUnit s c b j with
    | .error e => (s, j, some e)
    | .ok s => keywayUnits c b n (j + 1) s
/-- Units of a copy, at most n of them; the units before a failing one stay written, and after the last the queue goes on.
State.who.count = 0 stands for all. -/
def copyWork (s : State) (q : QueueNum) (n : Nat) : State :=
  let x := getQueue s q
  match x.copy with
  | none => s
  | some k =>
    let b := k.block.toNat
    let left := cbLen b / 16 - k.units
    if cbWeight b && decide ((getCtx s x.ctx).state = .live) then s
    else
      match keywayUnits x.ctx b (if n = 0 then left else min n left) k.units s with
      | (s, _, some e) => queueError s q e
      | (s, j, none) =>
        if cbLen b / 16 ≤ j then updQueue s q queueNext
        else updQueue s q (fun x => { x with copy := some { k with units := j } })
/-- COPY_COMPLETION. -/
def execCopyCompletion (q : QueueNum) (s : State) : Host.Outcome State Fault Refusal := finish (copyWork s q s.who.count)

/-! ### The command core (16 R386 R387) -/

/-- QUEUE_FETCH: an IDLE queue whose word at PC is covered fetches again. -/
def execQueueFetch (q : QueueNum) (s : State) : Host.Outcome State Fault Refusal :=
  let x := getQueue s q
  .next (if x.state = .idle ∧ x.en = true ∧ x.bound = true ∧ wordCovered x = true then
    updQueue s q (fun x => { x with state := .running }) else s)

/-- The word at PC, read through the context's translation. -/
def fetchWord (s : State) (x : Queue) : Option DWord :=
  match translate s x.ctx (x.qbase + (ringOffset x x.pc).setWidth 64) .read with
  | .error _ => none
  | .ok l => if rangePoisoned s l 8 then none else some (BitVec.ofNat 64 (leNat (homeRead s l 8)))
/-- Rank of a class, 0 the highest. -/
def keywayClass : Instr → Nat
  | .wait _ _ _ _ _ _ => 0 | .signal _ _ _ _ _ => 1 | .launch _ _ => 2 | .copy _ => 3
  | .qld _ _ _ => 4 | .qst _ _ _ => 4 | _ => 5
/-- A lane of the next step: its instruction, or its error. -/
def laneNext (s : State) (x : Queue) : Except (BitVec 8) Instr :=
  match fetchWord s x with
  | none => .error 2
  | some w => match decodeKeyway w with
    | .error _ => .error 1
    | .ok i => .ok i
def laneReady (x : Queue) : Bool := decide (x.state = .running) && x.copy.isNone && !x.paused
/-- Lanes without a covered word become IDLE; lanes that meet an error on their word stop. -/
def settleLane (s : State) (q : QueueNum) : State :=
  let x := getQueue s q
  if !laneReady x then s
  else if !wordCovered x || !x.en then updQueue s q (fun x => { x with state := .idle })
  else match laneNext s x with
    | .error e => queueError s q e
    | .ok _ => s
def allQueues : List QueueNum := (List.range 32).map (BitVec.ofNat 5)
/-- The lanes that would execute, with their instructions, in ascending queue number. -/
def readyLanes (s : State) : List (QueueNum × Instr) :=
  allQueues.filterMap (fun q =>
    let x := getQueue s q
    if laneReady x then (match laneNext s x with
      | .ok i => some (q, i)
      | .error _ => none) else none)
/-- The class of a step: one left unserved for 16 steps first, else the highest with a ready lane. -/
def chosenClass (s : State) (ls : List (QueueNum × Instr)) : Option Nat :=
  let has := fun k => ls.any (fun l => decide (keywayClass l.2 = k))
  match (List.range 6).find? (fun k => has k && decide (16 ≤ s.unserved.getD k 0)) with
  | some k => some k
  | none => (List.range 6).find? has
def runLanes (ex : Instr → State → Host.Outcome State Fault Refusal) :
    List (QueueNum × Instr) → State → Host.Outcome State Fault Refusal
  | [], s => .next s
  | l :: r, s => andThen (ex l.2 { s with iss := { s.iss with queue := l.1 } }) (runLanes ex r)
/-- The ready lanes of a class step, each one word; the other classes with ready lanes wait one step more. -/
def runClass (ex : Instr → State → Host.Outcome State Fault Refusal) (s : State) (ls : List (QueueNum × Instr)) :
    Option Nat → Host.Outcome State Fault Refusal
  | none => .next { s with unserved := List.replicate 6 0 }
  | some k =>
    let waits := (List.range 6).map (fun j =>
      if decide (j ≠ k) && ls.any (fun l => decide (keywayClass l.2 = j)) then s.unserved.getD j 0 + 1 else 0)
    runLanes ex (ls.filter (fun l => decide (keywayClass l.2 = k))) { s with unserved := waits }
/-- One step of the command core. -/
def commandStep (ex : Instr → State → Host.Outcome State Fault Refusal) (s : State) : Host.Outcome State Fault Refusal :=
  let s := allQueues.foldl settleLane s
  runClass ex s (readyLanes s) (chosenClass s (readyLanes s))

end Sys2Proof.Machine
end

