-- ==== Sys2Proof/Machine/PageTables.lean ====
section
/-! DEFINITION. What firmware's MAP, UNMAP and PROTECT packets make of a context's page tables (15 R357 R359 R361, 16 R398). New
tables come from a pool of 4 KiB pages that firmware owns (notes/assumptions/9.md). -/

namespace Sys2Proof.Machine

/-! ### Entries -/

def pteLeaf (e : DWord) : Bool := e.getLsbD 0 && e.getLsbD 1
def pteTable (e : DWord) : Bool := e.getLsbD 0 && !e.getLsbD 1
def pteCont (e : DWord) : Bool := e.getLsbD 5
def pteAddr (e : DWord) : Nat := 4096 * (e.extractLsb' 12 40).toNat
/-- A leaf with the flags of a packet: bit 0 W, bit 1 X, bit 2 HOST. -/
def mkLeaf (addr : Nat) (cont : Bool) (flags : BitVec 3) : DWord :=
  (0 : BitVec 12) ++ BitVec.ofNat 40 (addr / 4096) ++ (0 : BitVec 6) ++ bit cont ++ flags.extractLsb' 2 1 ++ flags.extractLsb' 1 1 ++
    flags.extractLsb' 0 1 ++ (3 : BitVec 2)
def mkTable (addr : Nat) : DWord := (0 : BitVec 12) ++ BitVec.ofNat 40 (addr / 4096) ++ (0 : BitVec 11) ++ (1 : BitVec 1)
def leafFlags (e : DWord) : BitVec 3 := e.extractLsb' 4 1 ++ e.extractLsb' 3 1 ++ e.extractLsb' 2 1
/-- Bytes that one entry of a level spans, and the entries of its table. -/
def entrySpan (level : Nat) : Nat := 2 ^ (12 + 9 * level)
def entryCount (level : Nat) : Nat := if level = 3 then 8192 else 512
def pteAt (table k : Nat) : Nat := table + 8 * k
def writePte (s : State) (a : Nat) (e : DWord) : State := physWrite s a (leBytes e.toNat 8)

/-- The address of a fresh page of the pool: pages go down from 8 GiB (notes/assumptions/9.md). -/
def poolPage (n : Nat) : Nat := 4096 * (2097151 - n)
/-- A fresh table whose entries are given. -/
def newTable (s : State) (es : Nat → DWord) : Nat × State :=
  let a := poolPage s.fwPage
  (a, (List.range 512).foldl (fun acc k => writePte acc (pteAt a k) (es k)) { s with fwPage := s.fwPage + 1 })

/-! ### What is mapped -/

/-- A leaf: the addresses it maps, and the place of the first. -/
structure Leaf where
  va : Nat
  size : Nat
  pa : Nat
  host : Bool
deriving DecidableEq, Repr
/-- The leaves under a table; an entry of a CONT group stands for its own span. -/
def tableLeaves (s : State) : Nat → Nat → Nat → List Leaf
  | level, table, base =>
    (List.range (entryCount level)).flatMap (fun k =>
      let e := readPte s (pteAt table k)
      let va := base + k * entrySpan level
      if pteLeaf e then
        [{ va := va, size := entrySpan level, pa := pteAddr e + (if pteCont e then (k % 16) * entrySpan level else 0),
           host := e.getLsbD 4 }]
      else if pteTable e then (match level with
        | 0 => []
        | l + 1 => tableLeaves s l (pteAddr e) va)
      else [])
def ctxRoot (s : State) (c : CtxNum) : Nat := (getCtx s c).ptroot.toNat
def ctxLeaves (s : State) (c : CtxNum) : List Leaf := tableLeaves s 3 (ctxRoot s c) 0
/-- Bytes of a range that are mapped. -/
def mappedBytes (s : State) (c : CtxNum) (va n : Nat) : Nat :=
  ((ctxLeaves s c).map (fun f => min (f.va + f.size) (va + n) - max f.va va)).sum
/-- 64 KiB units of a size, a part counted whole (notes/assumptions/44.md). -/
def memUnits (n : Nat) : Nat := (n + 65535) / 65536
/-- MEMUSED (15 R356). -/
def memUsed (x : Ctx) : Nat := memUnits x.membytes
/-- A MAP of new bytes would raise MEMUSED above MEMQ (15 R357). -/
def mapOverQuota (x : Ctx) (new : Nat) : Bool :=
  decide (memUsed x < memUnits (x.membytes + new)) && decide (x.memq.toNat < memUnits (x.membytes + new))

/-! ### The edits -/

/-- What a packet does to a range. -/
inductive Edit
  | map (pa : Nat) (flags : BitVec 3)
  | unmap
  | protect (w x : Bool)
deriving DecidableEq, Repr
/-- A range with its edit. -/
structure EditRange where
  lo : Nat
  hi : Nat
  edit : Edit
deriving DecidableEq, Repr
def editPa (r : EditRange) (va : Nat) : Nat := match r.edit with
  | .map pa _ => pa + (va - r.lo)
  | _ => 0
def within (r : EditRange) (a n : Nat) : Bool := decide (r.lo ≤ a) && decide (a + n ≤ r.hi)
def meets (r : EditRange) (a n : Nat) : Bool := decide (r.lo < a + n) && decide (a < r.hi)

/-- A leaf of the range at this entry: contiguous where its group of 16 fits whole. -/
def fittingLeaf (r : EditRange) (level k va : Nat) (flags : BitVec 3) : Option DWord :=
  let span := entrySpan level
  let gva := va - (k % 16) * span
  if level ≤ 1 ∧ within r gva (16 * span) = true ∧ editPa r gva % (16 * span) = 0 then
    some (mkLeaf (editPa r gva) true flags)
  else if level ≤ 2 ∧ within r va span = true ∧ editPa r va % span = 0 then some (mkLeaf (editPa r va) false flags)
  else none
/-- The entries of a CONT group that the range does not hold whole become single ones. -/
def separate (s : State) (r : EditRange) (level table base k : Nat) : State :=
  let e := readPte s (pteAt table k)
  let span := entrySpan level
  let gva := base + (k - k % 16) * span
  if pteLeaf e && pteCont e && meets r gva (16 * span) && !within r gva (16 * span) then
    writePte s (pteAt table k) (mkLeaf (pteAddr e + (k % 16) * span) false (leafFlags e))
  else s
/-- A leaf split into a table of the next lower level. -/
def splitLeaf (s : State) (level a : Nat) (e : DWord) : Nat × State :=
  let q := newTable s (fun i => mkLeaf (pteAddr e + i * entrySpan (level - 1)) false (leafFlags e))
  (q.1, writePte q.2 a (mkTable q.1))
/-- The table under an entry, made where a MAP needs one; none where nothing is mapped there. -/
def tableUnder (s : State) (r : EditRange) (level a : Nat) : Option (Nat × State) :=
  let e := readPte s a
  if pteTable e then some (pteAddr e, s)
  else if pteLeaf e then some (splitLeaf s level a e)
  else match r.edit with
    | .map _ _ =>
      let q := newTable s (fun _ => 0)
      some (q.1, writePte q.2 a (mkTable q.1))
    | _ => none
/-- What the edit makes of an entry that lies whole in the range; none where the level below must be looked at. -/
def editEntry (r : EditRange) (level k va : Nat) (e : DWord) : Option DWord :=
  match r.edit with
  | .map _ flags => fittingLeaf r level k va flags
  | .unmap => some 0
  | .protect w x =>
    if pteLeaf e then some (mkLeaf (pteAddr e) (pteCont e) (e.extractLsb' 4 1 ++ bit x ++ bit w))
    else if pteTable e then none else some e

/-- Edits a table of a level whose first entry maps base. -/
def editTable (r : EditRange) : Nat → Nat → Nat → State → State
  | level, table, base, s =>
    let ks := (List.range (entryCount level)).filter (fun k => meets r (base + k * entrySpan level) (entrySpan level))
    let s := if level ≤ 1 then (List.range 512).foldl (fun acc k => separate acc r level table base k) s else s
    ks.foldl (fun acc k =>
      let a := pteAt table k
      let va := base + k * entrySpan level
      let new := if within r va (entrySpan level) then editEntry r level k va (readPte acc a) else none
      match new with
      | some e => writePte acc a e
      | none => match level with
        | 0 => acc
        | l + 1 => match tableUnder acc r (l + 1) a with
          | some q => editTable r l q.1 va q.2
          | none => acc) s
def editCtx (s : State) (c : CtxNum) (va n : Nat) (e : Edit) : State :=
  editTable { lo := va, hi := va + n, edit := e } 3 (ctxRoot s c) 0 s

end Sys2Proof.Machine
end

