-- ==== Sys2Proof/Machine/Packets.lean ====
section
/-! DEFINITION. Management packets of contexts, memory, queues and telemetry (16 R395 to R400, 15 R355 to R357 R376 R379 R380),
and the first checks that every packet passes. -/

namespace Sys2Proof.Machine

/-! ### The checks of 16 R397 -/

/-- A field that a type knows: its FTYPE and the length of its value. -/
structure KnownField where
  ftype : BitVec 16
  len : Nat
deriving DecidableEq, Repr
def isMandatory (t : BitVec 16) : Bool := t.getLsbD 15
/-- The value of a field as a number. -/
def fieldNat (p : Packet) (t : BitVec 16) : Option Nat := (p.fields.find? (fun f => decide (f.ftype = t))).map (fun f => leNat f.value)
def fieldOr (p : Packet) (t : BitVec 16) (d : Nat) : Nat := (fieldNat p t).getD d
/-- A length is wrong, or a mandatory field is absent. -/
def badFields (known : List KnownField) (p : Packet) : Bool :=
  known.any (fun k => match p.fields.find? (fun f => decide (f.ftype = k.ftype)) with
    | some f => decide (f.value.length ≠ k.len)
    | none => isMandatory k.ftype)
/-- The first mandatory field that the type does not know. -/
def unknownField (known : List KnownField) (p : Packet) : Option (BitVec 16) :=
  (p.fields.find? (fun f => isMandatory f.ftype && !known.any (fun k => decide (k.ftype = f.ftype)))).map (fun f => f.ftype)
/-- Recovery mode takes only the firmware types and TELEMETRY (18 R420). -/
def typeOpen (s : State) (type : BitVec 16) : Bool :=
  decide (s.boot.mode ≠ .recovery) || decide (type = 0x0050) || decide (type = 0x0060) || decide (type = 0x0061) ||
    decide (type = 0x0062)
/-- What the checks before a type's own ones answer: a status and the field of the response, or none. rz says that an RZ bit
of a value is set. -/
def firstChecks (s : State) (type : BitVec 16) (known : List KnownField) (rz : Bool) (p : Packet) :
    Option (BitVec 16 × List PktField) :=
  if !typeOpen s type then some (1, [])
  else if p.malformed || badFields known p || rz then some (2, [])
  else (unknownField known p).map (fun t => (3, [{ ftype := 0x0001, value := leBytes t.toNat 2 }]))
/-- A packet of a type: refused by the first checks, or handled. -/
def handle (type : BitVec 16) (known : List KnownField) (rz : Bool) (p : Packet) (s : State)
    (f : State → State) : Host.Outcome State Fault Refusal :=
  finish (match firstChecks s type known rz p with
    | some (st, fs) => respond s type p.seq st p.ctx fs
    | none => f s)
/-- A packet that is answered with a status. -/
def answer (type : BitVec 16) (p : Packet) (st : BitVec 16) (s : State) : State := respond s type p.seq st p.ctx []

/-- UNKNOWN_TYPE (16 R398). -/
def execUnknownType (type : BitVec 16) (p : Packet) (s : State) : Host.Outcome State Fault Refusal :=
  finish (respond s type p.seq 1 p.ctx [])

/-! ### Contexts (15 R355 R356) -/

/-- CTXBIND. -/
def execCtxbind (p : Packet) (s : State) : Host.Outcome State Fault Refusal :=
  handle 0x0001 [] false p s (fun s =>
    if (getCtx s p.ctx).state ≠ .free then answer 0x0001 p 5 s
    else answer 0x0001 p 0 (setCtx s p.ctx { ctxReset with state := .idle }))

/-- A queue that CTXFREE unbinds (16 R385). -/
def unbindQueue (x : Queue) : Queue := { x with ctx := 0, bound := false, en := false, state := .idle, paused := false }
/-- Some queue bound to a context is not IDLE. -/
def queuesBusy (s : State) (c : CtxNum) : Bool :=
  s.queues.any (fun x => x.bound && decide (x.ctx = c) && decide (x.state ≠ .idle))
/-- CTXFREE. -/
def execCtxfree (p : Packet) (s : State) : Host.Outcome State Fault Refusal :=
  handle 0x0002 [] false p s (fun s =>
    if (getCtx s p.ctx).state ≠ .idle then answer 0x0002 p 5 s
    else if queuesBusy s p.ctx then answer 0x0002 p 8 s
    else answer 0x0002 p 0 (tlbReset (updCtx (mapCtxQueues s p.ctx (fun q _ acc => updQueue acc q unbindQueue)) p.ctx
      (fun x => { x with state := .free })) p.ctx))

def stateCode : CtxState → Nat
  | .free => 0 | .idle => 1 | .live => 2 | .saved => 3 | .resetting => 4
/-- The value of a register of 15 R356. -/
def readCtxReg (x : Ctx) (o : Nat) : DWord :=
  match o with
  | 0x00 => (0 : BitVec 59) ++ bit x.iqmode ++ bit x.bpten ++ BitVec.ofNat 3 (stateCode x.state)
  | 0x08 => x.ptroot | 0x10 => x.psize.setWidth 64 | 0x18 => x.wbase | 0x20 => x.wsize.setWidth 64 | 0x28 => x.spillbase
  | 0x30 => x.spillq.setWidth 64 | 0x38 => x.recq.setWidth 64 | 0x40 => x.memq.setWidth 64 | 0x48 => BitVec.ofNat 64 (memUsed x % 2 ^ 32)
  | 0x50 => x.issueq.setWidth 64 | 0x58 => x.netq.setWidth 64 | 0x60 => x.handler.setWidth 64 | 0x68 => x.tfbase
  | 0x70 => x.tfcount.setWidth 64 | 0x78 => x.savebase | 0x80 => x.rotbase | 0x88 => x.flbase
  | 0x90 => (0 : BitVec 16) ++ x.fltail ++ (0 : BitVec 16) ++ x.flhead | 0x98 => x.flcount.setWidth 64
  | 0xA0 => x.errrec.setWidth 64 | 0xA8 => x.droprec.setWidth 64 | 0xB0 => x.copyerr.setWidth 64
  | 0xB8 => x.loglost.setWidth 64 | _ => 0
/-- Bits [hi:lo] of a written value, in place; every other bit is RZ. -/
def keepBits (v : DWord) (hi lo : Nat) : DWord := v &&& (BitVec.ofNat 64 (2 ^ (hi + 1) - 2 ^ lo))
/-- A register as a write leaves it. -/
def writeCtxReg (x : Ctx) (o : Nat) (v : DWord) : Ctx :=
  let w := v.extractLsb' 0 32
  match o with
  | 0x00 => { x with iqmode := v.getLsbD 4, bpten := v.getLsbD 3 }
  | 0x08 => { x with ptroot := keepBits v 51 16 } | 0x10 => { x with psize := v.extractLsb' 0 17 }
  | 0x18 => { x with wbase := keepBits v 51 16 } | 0x20 => { x with wsize := (keepBits v 28 16).extractLsb' 0 29 }
  | 0x28 => { x with spillbase := keepBits v 51 8 } | 0x30 => { x with spillq := w } | 0x38 => { x with recq := w }
  | 0x40 => { x with memq := w } | 0x50 => { x with issueq := w } | 0x58 => { x with netq := w }
  | 0x60 => { x with handler := (keepBits v 51 5).extractLsb' 0 52 } | 0x68 => { x with tfbase := keepBits v 51 12 }
  | 0x70 => { x with tfcount := v.extractLsb' 0 12 } | 0x78 => { x with savebase := keepBits v 51 12 }
  | 0x80 => { x with rotbase := keepBits v 51 12 } | 0x88 => { x with flbase := keepBits v 51 6 }
  | 0x90 => { x with fltail := v.extractLsb' 32 16 } | 0x98 => { x with flcount := v.extractLsb' 0 16 }
  | 0xA0 => { x with errrec := w } | 0xA8 => { x with droprec := w } | 0xB0 => { x with copyerr := w }
  | 0xB8 => { x with loglost := w } | _ => x
/-- Registers that take a write only while STATE is IDLE. -/
def idleOnly (o : Nat) : Bool := [0x10, 0x18, 0x20, 0x28, 0x68, 0x70, 0x98].contains o
/-- A value outside the range of its register. -/
def ctxValueBad (o : Nat) (v : DWord) : Bool :=
  (decide (o = 0x10) && (decide (v.toNat % 131072 % 16 ≠ 0) || decide (65536 < v.toNat % 131072))) ||
    (decide (o = 0x20) && decide (6144 < v.toNat / 65536 % 8192))
def ctxOffsetBad (o : Nat) : Bool := decide (o % 8 ≠ 0) || decide (256 ≤ o)
/-- The save area of a context, or its rotation area, holds an image (16 R397, notes/assumptions/92.md). -/
def saveHeld (x : Ctx) : Bool := decide (x.state = .saved) || x.saving
def rotationHeld (s : State) (c : CtxNum) : Bool := s.teams.any (fun t => decide (t.ctx = c) && decide (t.status = .swapped))
/-- A write that would move an area in use. -/
def areaMoves (s : State) (c : CtxNum) (o : Nat) : Bool :=
  (decide (o = 0x78) && saveHeld (getCtx s c)) || (decide (o = 0x80) && rotationHeld s c)
/-- The save area of a context is in use by another. -/
def areaTaken (s : State) (c : CtxNum) : Bool :=
  (List.range 64).any (fun d => decide (d ≠ c.toNat) && saveHeld (getCtx s (BitVec.ofNat 6 d)) &&
    decide ((getCtx s (BitVec.ofNat 6 d)).savebase = (getCtx s c).savebase))
/-- CTXWRITE; a write of PTROOT takes every translation of the context away, and is answered as 15 R361 says. -/
def execCtxwrite (p : Packet) (s : State) : Host.Outcome State Fault Refusal :=
  handle 0x0003 [{ ftype := 0x8010, len := 2 }, { ftype := 0x8011, len := 8 }] false p s (fun s =>
    let o := fieldOr p 0x8010 0
    let v : DWord := BitVec.ofNat 64 (fieldOr p 0x8011 0)
    let st := (getCtx s p.ctx).state
    if ctxOffsetBad o || ctxValueBad o v then answer 0x0003 p 4 s
    else if st = .free ∨ (idleOnly o = true ∧ st ≠ .idle) then answer 0x0003 p 5 s
    else if areaMoves s p.ctx o then answer 0x0003 p 8 s
    else
      let s := updCtx s p.ctx (fun x => writeCtxReg x o v)
      if o = 0x08 then answerEdit s 0x0003 p.seq p.ctx 0 4503599627370496 else answer 0x0003 p 0 s)
/-- CTXREAD. -/
def execCtxread (p : Packet) (s : State) : Host.Outcome State Fault Refusal :=
  handle 0x0004 [{ ftype := 0x8010, len := 2 }] false p s (fun s =>
    let o := fieldOr p 0x8010 0
    if ctxOffsetBad o then answer 0x0004 p 4 s
    else if (getCtx s p.ctx).state = .free then answer 0x0004 p 5 s
    else respond s 0x0004 p.seq 0 p.ctx [{ ftype := 0x0011, value := leBytes (readCtxReg (getCtx s p.ctx) o).toNat 8 }])

/-! ### Memory (15 R357 R361) -/

def rangeFields : List KnownField := [{ ftype := 0x8020, len := 8 }, { ftype := 0x8022, len := 8 }]
def flagsField : KnownField := { ftype := 0x8023, len := 2 }
/-- A range that is no whole number of 4 KiB pages of the address space. -/
def rangeBad (p : Packet) : Bool :=
  let va := fieldOr p 0x8020 0
  let n := fieldOr p 0x8022 0
  decide (va % 4096 ≠ 0) || decide (n % 4096 ≠ 0) || decide (n = 0) || decide (4503599627370496 < va + n)
/-- A physical range that does not exist. -/
def placeBad (s : State) (p : Packet) : Bool :=
  let pa := fieldOr p 0x8021 0
  let n := fieldOr p 0x8022 0
  decide (pa % 4096 ≠ 0) || decide (4503599627370496 < pa + n) ||
    (decide (fieldOr p 0x8023 0 / 4 % 2 = 0) && decide (s.svc.installed < pa + n))
def flagsRz (p : Packet) : Bool := decide (8 ≤ fieldOr p 0x8023 0)
/-- MAP: what was mapped in the range before counts once (15 R357). -/
def execMap (p : Packet) (s : State) : Host.Outcome State Fault Refusal :=
  handle 0x0010 (rangeFields ++ [{ ftype := 0x8021, len := 8 }, flagsField]) (flagsRz p) p s (fun s =>
    let x := getCtx s p.ctx
    let va := fieldOr p 0x8020 0
    let n := fieldOr p 0x8022 0
    if rangeBad p || placeBad s p then answer 0x0010 p 4 s
    else if x.state = .free then answer 0x0010 p 5 s
    else
      let new := n - mappedBytes s p.ctx va n
      if mapOverQuota x new then answer 0x0010 p 6 s
      else
        let s := editCtx s p.ctx va n (.map (fieldOr p 0x8021 0) (BitVec.ofNat 3 (fieldOr p 0x8023 0)))
        answerEdit (updCtx s p.ctx (fun x => { x with membytes := x.membytes + new })) 0x0010 p.seq p.ctx va (va + n))
/-- UNMAP. -/
def execUnmap (p : Packet) (s : State) : Host.Outcome State Fault Refusal :=
  handle 0x0011 rangeFields false p s (fun s =>
    let va := fieldOr p 0x8020 0
    let n := fieldOr p 0x8022 0
    if rangeBad p then answer 0x0011 p 4 s
    else if (getCtx s p.ctx).state = .free then answer 0x0011 p 5 s
    else
      let gone := mappedBytes s p.ctx va n
      answerEdit (updCtx (editCtx s p.ctx va n .unmap) p.ctx (fun x => { x with membytes := x.membytes - gone }))
        0x0011 p.seq p.ctx va (va + n))
/-- PROTECT. -/
def execProtect (p : Packet) (s : State) : Host.Outcome State Fault Refusal :=
  handle 0x0012 (rangeFields ++ [flagsField]) (flagsRz p) p s (fun s =>
    let fl : BitVec 16 := BitVec.ofNat 16 (fieldOr p 0x8023 0)
    if rangeBad p || fl.getLsbD 2 then answer 0x0012 p 4 s
    else if (getCtx s p.ctx).state = .free then answer 0x0012 p 5 s
    else
      let va := fieldOr p 0x8020 0
      let n := fieldOr p 0x8022 0
      answerEdit (editCtx s p.ctx va n (.protect (fl.getLsbD 0) (fl.getLsbD 1))) 0x0012 p.seq p.ctx va (va + n))

/-! ### Queues and the context as a whole -/

/-- QBIND. -/
def execQbind (p : Packet) (s : State) : Host.Outcome State Fault Refusal :=
  handle 0x0018 [{ ftype := 0x8030, len := 1 }, { ftype := 0x0031, len := 3 }] false p s (fun s =>
    let n := fieldOr p 0x8030 0
    let q : QueueNum := BitVec.ofNat 5 n
    let x := getQueue s q
    let pc := fieldOr p 0x0031 x.pc.toNat
    if 32 ≤ n ∨ ((fieldNat p 0x0031).isSome = true ∧ (pc % 8 ≠ 0 ∨ 2 ^ x.qsize.toNat ≤ pc)) then answer 0x0018 p 4 s
    else if (getCtx s p.ctx).state = .free then answer 0x0018 p 5 s
    else if x.state ≠ .idle then answer 0x0018 p 8 s
    else answer 0x0018 p 0 (updQueue s q (fun x => { x with
      ctx := p.ctx, bound := true, paused := false, pc := BitVec.ofNat 24 pc, qfree := BitVec.ofNat 24 pc,
      qwr := BitVec.ofNat 24 pc })))

def oweAnswer (s : State) (type : BitVec 16) (p : Packet) : State :=
  { s with mail := { s.mail with owed := some (type, p.ctx, p.seq) } }
/-- PREEMPT (15 R376): with WAIT = 1 the answer follows at SAVE_COMPLETE. -/
def execPreempt (p : Packet) (s : State) : Host.Outcome State Fault Refusal :=
  handle 0x0020 [{ ftype := 0x0040, len := 1 }] false p s (fun s =>
    let st := (getCtx s p.ctx).state
    if 1 < fieldOr p 0x0040 1 then answer 0x0020 p 4 s
    else if st ≠ .idle ∧ st ≠ .live then answer 0x0020 p 5 s
    else if areaTaken s p.ctx then answer 0x0020 p 8 s
    else
      let s := preemptCtx s p.ctx
      if fieldOr p 0x0040 1 = 1 then oweAnswer s 0x0020 p else answer 0x0020 p 0 s)
/-- RESTORE (15 R379): the answer follows when every team has been placed. -/
def execRestore (p : Packet) (s : State) : Host.Outcome State Fault Refusal :=
  handle 0x0021 [] false p s (fun s =>
    if (getCtx s p.ctx).state ≠ .saved then answer 0x0021 p 5 s
    else restoreDone (oweAnswer (updCtx s p.ctx (fun x => { x with restoring := true })) 0x0021 p) p.ctx)
/-- RESET (15 R380): the answer follows at RESET_COMPLETE. -/
def execResetCtx (p : Packet) (s : State) : Host.Outcome State Fault Refusal :=
  handle 0x0022 [] false p s (fun s =>
    if (getCtx s p.ctx).state = .free then answer 0x0022 p 5 s
    else oweAnswer (resetContext s p.ctx) 0x0022 p)

/-! ### WEIGHTLOAD -/

/-- The units of a load that are written before the first that fails. -/
def loadUnits (c : CtxNum) (src dst : Nat) : Nat → Nat → State → Nat × State
  | 0, j, s => (j, s)
  | n + 1, j, s => match unitSource s c (src + 16 * j) with
    | none => (j, s)
    | some bs => loadUnits c src dst n (j + 1) (weightWrite s c (dst + 16 * j) bs)
/-- A bank of the range that no stack serves. -/
def banksGone (s : State) (c : CtxNum) (a n : Nat) : Bool :=
  (List.range (n / 16)).any (fun j =>
    let b := weightBank ((getCtx s c).wbase.toNat + a + 16 * j)
    bankRetired s 0 b && bankRetired s 1 b)
/-- WEIGHTLOAD: it waits while a run of the context is LIVE (16 R400); one that is saved with its context does not hold it
(DESIGN CHOICE, notes/assumptions/92.md). -/
def execWeightload (p : Packet) (s : State) : Host.Outcome State Fault Refusal :=
  handle 0x0030 [{ ftype := 0x8050, len := 8 }, { ftype := 0x8051, len := 4 }, { ftype := 0x8052, len := 4 }] false p s (fun s =>
    let src := fieldOr p 0x8050 0
    let off := fieldOr p 0x8051 0
    let n := fieldOr p 0x8052 0
    if src % 16 ≠ 0 ∨ off % 16 ≠ 0 ∨ n % 16 ≠ 0 ∨ n < 16 ∨ 4503599627370496 ≤ src ∨
        weightOutside s p.ctx off n = true ∨ banksGone s p.ctx off n = true then answer 0x0030 p 4 s
    else if (getCtx s p.ctx).state = .free then answer 0x0030 p 5 s
    else if (getCtx s p.ctx).state = .live then s
    else
      let r := loadUnits p.ctx src off (n / 16) 0 s
      if r.1 = n / 16 then answer 0x0030 p 0 r.2
      else respond r.2 0x0030 p.seq 9 p.ctx [{ ftype := 0x0012, value := leBytes r.1 8 }])

/-! ### TELEMETRY (16 R399, 17 R414) -/

/-- Voltage need of n pulses, and the target voltage of a stack (17 R407 R409). -/
def voltNeed (s : State) (n : Nat) : Nat := s.boot.record.vneed.getD (n - 1) 0
def pulses (p : BitVec 16) : Nat := ((List.range 16).filter (fun i => p.getLsbD i)).length
def clusterPulses (c : Cluster) : Nat := max (pulses c.pattern) (match c.pending with
  | some p => pulses p
  | none => 0)
def stackClusters (k : StackNum) : List ClusterNum := (List.range 16).map (fun j => BitVec.ofNat 5 (16 * k.toNat + j))
/-- A recalibration holds the canary offset of its stack at 50 mV (18 R424). -/
def canaryHeld (s : State) (k : StackNum) : Bool := match s.svc.req with
  | some (u, _) => decide (u.kind = 5) && decide (u.stk = k)
  | none => false
def canaryOf (s : State) (k : StackNum) : Nat := if canaryHeld s k then 50 else (getStack s k).canary
def voltTarget (s : State) (k : StackNum) : Nat :=
  ((stackClusters k).map (fun c => voltNeed s (clusterPulses (getCluster s c)))).foldl max 0 + canaryOf s k

/-- Bytes sent since the last response in one direction: their number is not stated, and is free (notes/assumptions/45.md). -/
def hingeSent (s : State) (k : Nat) : State :=
  let a := freeVal s
  let b := freeVal a.2
  { b.2 with hinge := cellsWrite s.hinge k (cellsRead s.hinge k + (b.1 ++ a.1)) }
def hingeWords (s : State) : List DWord × State :=
  let s := hingeSent (hingeSent s 0) 1
  let spares := ((List.range 8).map (fun m => (cellsRead s.svc.hingeSpares m).toNat)).sum
  ((List.range 5).map (cellsRead s.hinge) ++ [BitVec.ofNat 64 spares], s)
def schedWords (t : Stack) : List DWord := [t.launches, t.appended, t.spilledCount, t.refused]
def nat64 (n : Nat) : DWord := BitVec.ofNat 64 n
def clusterWords (c : Cluster) : List DWord :=
  [(0 : BitVec 32) ++ (c.pending.getD 0) ++ c.pattern, c.charge.setWidth 64, c.captures]
def powerWords (s : State) (k : StackNum) : List DWord :=
  let t := getStack s k
  [t.pop.setWidth 64, t.tpop.setWidth 64, nat64 t.target, nat64 t.ringP, nat64 t.supply, nat64 (voltTarget s k),
    nat64 (canaryOf s k), t.advises, t.throttles, t.throttledUs, t.canarySteps, t.stepDowns] ++
  (stackClusters k).flatMap (fun c => clusterWords (getCluster s c)) ++
  (List.range 36).map (fun i => (t.sensors.getD i 0).setWidth 64)
/-- The counters of a group; none for a group that does not exist. -/
def groupWords (s : State) (g : Nat) : Option (List DWord × State) :=
  match g with
  | 1 => some (hingeWords s)
  | 2 => some ((List.range 32).map (fun n => (getQueue s (BitVec.ofNat 5 n)).executed), s)
  | 3 => some (schedWords (getStack s 0) ++ schedWords (getStack s 1), s)
  | 4 => some (powerWords s 0 ++ powerWords s 1, s)
  | _ => none
/-- TELEMETRY. -/
def execTelemetry (p : Packet) (s : State) : Host.Outcome State Fault Refusal :=
  handle 0x0050 [{ ftype := 0x8060, len := 2 }] false p s (fun s =>
    match groupWords s (fieldOr p 0x8060 0) with
    | none => answer 0x0050 p 4 s
    | some (ws, s) => respond s 0x0050 p.seq 0 p.ctx [{ ftype := 0x0060, value := dwordBytes ws }])

end Sys2Proof.Machine
end

