-- ==== Sys2Proof/Machine/Power.lean ====
section
/-! DEFINITION. The tumbler ring's population, charge, cluster clocks, voltage, canaries and temperature (17 R401 to R413), and
the quota intervals of a context (15 R358). -/

namespace Sys2Proof.Machine

/-! ### The target of a ring (17 R402 R404 R410) -/

/-- The target in force: 0 under THERMTRIP_N, TPOP while throttled, else POP. -/
def targetOf (s : State) (k : StackNum) : Nat :=
  let t := getStack s k
  if s.thermtrip then 0 else if t.throttled then t.tpop.toNat else t.pop.toNat
/-- The base-die stop's work of a clock: it inserts up to 8 tokens, or removes the free ones in excess. -/
def baseDie (s : State) (k : StackNum) : State :=
  let s := updStack s k (fun t => { t with target := targetOf s k })
  let t := getStack s k
  if t.ringP < t.target then
    if t.insertedAt = some t.mclk then s
    else
      let n := min 8 (t.target - t.ringP)
      updStack s k (fun t => { t with ringP := t.ringP + n, free := t.free + n, insertedAt := some t.mclk })
  else
    let s := emptyPools s k
    updStack s k (fun t =>
      let n := min t.free (t.ringP - t.target)
      { t with ringP := t.ringP - n, free := t.free - n })
/-- TARGET_CHANGE (17 R402): State.who names the stack. -/
def execTargetChange (s : State) : Host.Outcome State Fault Refusal := .next (baseDie s s.who.stk)

/-! ### Charge (17 R405) -/

/-- CHARGE_LATCH: the sum of the last window, once at each microsecond boundary; State.who names the cluster. -/
def chargeLatch (s : State) (cl : ClusterNum) : State :=
  let n := masterClock s (clusterStack cl) / Config.clocksPerUs
  updCluster s cl (fun c => if c.latched < n then { c with charge := c.acc, acc := 0, latched := n } else c)
def execChargeLatch (s : State) : Host.Outcome State Fault Refusal := .next (chargeLatch s s.who.cl)

/-! ### Patterns, voltage and canaries (17 R406 to R409) -/

/-- A requested pattern: it replaces the pending one; the pattern in effect cancels it. -/
def requestPattern (p : BitVec 16) (c : Cluster) : Cluster := { c with pending := if p = c.pattern then none else some p }
/-- PATTERN_SWITCH: at a 16-slot boundary, once the supply meets the need; State.who names the cluster. -/
def patternSwitch (s : State) (cl : ClusterNum) : State :=
  let k := clusterStack cl
  match (getCluster s cl).pending with
  | none => s
  | some p =>
    if masterClock s k % 16 = 0 ∧ voltNeed s (pulses p) + canaryOf s k ≤ (getStack s k).supply then
      updCluster s cl (fun c => { c with pattern := p, pending := none })
    else s
def execPatternSwitch (s : State) : Host.Outcome State Fault Refusal := .next (patternSwitch s s.who.cl)
/-- The supply moves 1 mV toward its target every 150 master clocks: 10 mV per microsecond. -/
def moveSupply (s : State) (k : StackNum) : State :=
  if masterClock s k % 150 ≠ 0 then s
  else
    let v := voltTarget s k
    updStack s k (fun t => { t with supply := if t.supply < v then t.supply + 1 else if v < t.supply then t.supply - 1 else t.supply })

/-- The highest set bit of a pattern cleared. -/
def clearHighest (p : BitVec 16) : BitVec 16 :=
  match ((List.range 16).reverse).find? (fun i => p.getLsbD i) with
  | some i => p &&& ~~~(BitVec.twoPow 16 i)
  | none => p
/-- CANARY_WARNING: State.who names the cluster. Within a microsecond of a step it adds nothing more; at 50 mV the cluster
steps down. -/
def canaryWarning (s : State) (cl : ClusterNum) : State :=
  let k := clusterStack cl
  let t := getStack s k
  let clk := t.mclk
  let s := updStack s k (fun t => { t with lastWarn := clk })
  if canaryOf s k = 50 then
    let p := (getCluster s cl).pattern
    let s := if 1 < pulses p then
        updStack (updCluster s cl (fun c => { c with pending := some (clearHighest p) })) k
          (fun t => { t with stepDowns := t.stepDowns + 1 })
      else s
    irq s 38
  else if t.canarySteps ≠ 0 ∧ clk < t.lastStep + Config.clocksPerUs then s
  else updStack s k (fun t => { t with canary := t.canary + 5, lastStep := clk, canarySteps := t.canarySteps + 1 })
def execCanaryWarning (s : State) : Host.Outcome State Fault Refusal := .next (canaryWarning s s.who.cl)
/-- A second in master clocks. -/
def clocksPerSecond : Nat := 1500000000
/-- CANARY_DECAY: State.who names the stack. Each second without a warning lowers the offset by 5 mV. -/
def canaryDecay (s : State) (k : StackNum) : State :=
  updStack s k (fun t => if t.lastWarn + clocksPerSecond ≤ t.mclk ∧ t.canary ≠ 0 then
    { t with canary := t.canary - 5, lastWarn := t.lastWarn + clocksPerSecond } else t)
def execCanaryDecay (s : State) : Host.Outcome State Fault Refusal := .next (canaryDecay s s.who.stk)

/-! ### Temperature (17 R410 to R412) -/

def reaches (rs : List (BitVec 16)) (trip : BitVec 16) : Bool := rs.any (fun r => decide (trip.toInt ≤ r.toInt))
/-- Every sensor is 5 °C, 40 units, below a trip point. -/
def cooled (rs : List (BitVec 16)) (trip : BitVec 16) : Bool := rs.all (fun r => decide (r.toInt + 40 ≤ trip.toInt))
def adviseStep (s : State) (k : StackNum) (rs : List (BitVec 16)) : State :=
  let t := getStack s k
  if !t.advised && reaches rs t.advise then irq (updStack s k (fun t => { t with advised := true, advises := t.advises + 1 })) 39
  else if t.advised && cooled rs t.advise then updStack s k (fun t => { t with advised := false })
  else s
def throttleStep (s : State) (k : StackNum) (rs : List (BitVec 16)) : State :=
  let t := getStack s k
  if !t.throttled && reaches rs t.throttle then
    irq (updStack s k (fun t => { t with throttled := true, throttles := t.throttles + 1 })) 39
  else if t.throttled && cooled rs t.throttle then updStack s k (fun t => { t with throttled := false })
  else s
/-- SENSOR_COMPARE: the 36 readings of a stack against its trip points. -/
def execSensorCompare (stk : StackNum) (readings : List (BitVec 16)) (s : State) : Host.Outcome State Fault Refusal :=
  let rs := (readings ++ List.replicate 36 0).take 36
  let s := updStack s stk (fun t => { t with sensors := rs })
  let s := throttleStep (adviseStep s stk rs) stk rs
  .next (if reaches rs s.boot.record.shutdown then { s with thermtrip := true } else s)

/-! ### POWERCFG (17 R404 R411 R413) -/

def powerStacks (p : Packet) : List StackNum :=
  [(0 : StackNum), 1].filter (fun k => (BitVec.ofNat 8 (fieldOr p 0x8070 0)).getLsbD k.toNat)
/-- Trip values of a packet for a stack, in 0.125 °C. -/
def tripsBad (s : State) (p : Packet) (k : StackNum) : Bool :=
  let t := getStack s k
  let a := fieldOr p 0x0074 t.advise.toNat
  let h := fieldOr p 0x0075 t.throttle.toNat
  ((fieldNat p 0x0074).isSome && (decide (a < 320) || decide (h < a))) ||
    ((fieldNat p 0x0075).isSome && (decide (h < a) || decide (s.boot.record.shutdown.toNat < h + 40)))
def popsBad (s : State) (p : Packet) (k : StackNum) : Bool :=
  let t := getStack s k
  let pop := fieldOr p 0x0071 t.pop.toNat
  let tpop := fieldOr p 0x0072 t.tpop.toNat
  decide (pop < 2176) || decide (16383 < pop) || decide (pop < tpop)
def powerBad (s : State) (p : Packet) : Bool :=
  let n := fieldOr p 0x8070 0
  decide (n = 0) || decide (4 ≤ n) || (powerStacks p).any (fun k => popsBad s p k || tripsBad s p k) ||
    ((fieldNat p 0x0073).isSome && decide (fieldOr p 0x0073 0 / 65536 = 0))
/-- A packet's fields on one stack. -/
def applyPower (p : Packet) (s : State) (k : StackNum) : State :=
  let s := updStack s k (fun t => { t with
    pop := BitVec.ofNat 14 (fieldOr p 0x0071 t.pop.toNat), tpop := BitVec.ofNat 14 (fieldOr p 0x0072 t.tpop.toNat),
    advise := BitVec.ofNat 16 (fieldOr p 0x0074 t.advise.toNat), throttle := BitVec.ofNat 16 (fieldOr p 0x0075 t.throttle.toNat) })
  let s := updStack s k (fun t => { t with target := targetOf s k })
  match fieldNat p 0x0073 with
  | some v => updCluster s (BitVec.ofNat 5 (16 * k.toNat + v % 16)) (requestPattern (BitVec.ofNat 16 (v / 65536)))
  | none => s
/-- POWERCFG. -/
def execPowercfg (p : Packet) (s : State) : Host.Outcome State Fault Refusal :=
  handle 0x0070 [{ ftype := 0x8070, len := 1 }, { ftype := 0x0071, len := 2 }, { ftype := 0x0072, len := 2 },
      { ftype := 0x0073, len := 4 }, { ftype := 0x0074, len := 2 }, { ftype := 0x0075, len := 2 }]
    (decide (fieldOr p 0x0073 0 / 16 % 4096 ≠ 0)) p s (fun s =>
    if powerBad s p then answer 0x0070 p 4 s else answer 0x0070 p 0 ((powerStacks p).foldl (applyPower p) s))

/-! ### Quota intervals (15 R358) -/

/-- 10 ms in master clocks. -/
def quotaClocks : Nat := 15000000
/-- The counts of every context on a stack start again, with the quotas last written. -/
def startInterval (k : StackNum) (x : Ctx) : Ctx :=
  updCtxStack x k (fun q => { q with usedIssue := 0, usedNet := 0, issueQ := x.issueq, netQ := x.netq, quotaFaulted := false })
/-- QUOTA_INTERVAL: State.who names the stack. -/
def quotaInterval (s : State) (k : StackNum) : State :=
  let n := masterClock s k / quotaClocks
  if (getStack s k).interval < n then
    updStack { s with ctxs := s.ctxs.map (startInterval k) } k (fun t => { t with interval := n })
  else s
def execQuotaInterval (s : State) : Host.Outcome State Fault Refusal := .next (quotaInterval s s.who.stk)

/-- The record of an issue quota in fault mode: cause 0x18 and CODE 1. -/
def quotaRecord (s : State) : LogRec × State :=
  let r := unitRecord s .quota 0 0 none true
  ({ r.1 with cause := r.1.cause ||| (1 : DWord) <<< 27 }, r.2)
/-- A team that stands in the rotation area ends FAULTED there: nothing of its waves is left. -/
def endSwapped (s : State) (t : Team) : State :=
  let s := (teamWaves s t.id).foldl (fun acc w => freeFrame acc t.ctx w.frame) s
  let s := mapTeamWaves s t.id (fun w =>
    { blankWave with id := w.id, team := w.team, num := w.num, core := w.core, status := .exited })
  let s := updTeam s t.id (fun t => { t with copies := [], saved := none, job := none, rays := [], faultedMark := true })
  match findTeam s t.id with
  | some t => endTeam s t
  | none => s
/-- ISSUE_QUOTA_REACHED: State.who names the context and the stack. In throttling mode the context's waves are no candidates
until the interval ends (01 R46); in fault mode its teams on the stack end FAULTED. -/
def issueQuota (s : State) (c : CtxNum) (k : StackNum) : State :=
  let x := getCtx s c
  let q := ctxStack x k
  if x.iqmode = true ∧ q.issueQ ≠ 0 ∧ q.issueQ.toNat * 65536 ≤ q.usedIssue ∧ q.quotaFaulted = false then
    let ts := s.teams.filter (fun t => decide (t.ctx = c) && decide (t.stk = k) && teamOpen t)
    let s := ts.foldl (fun acc t => if t.status = .swapped then endSwapped acc t
      else endTeamFaulted (updTeam acc t.id (fun t => { t with stopping := false })) t.id) s
    let s := updCtx s c (fun x => updCtxStack x k (fun q => { q with quotaFaulted := true }))
    let r := quotaRecord s
    writeLog r.2 c r.1
  else s
def execIssueQuotaReached (s : State) : Host.Outcome State Fault Refusal := finish (issueQuota s s.who.ctx s.who.stk)

end Sys2Proof.Machine
end

