-- ==== Sys2Proof/Machine/Firmware.lean ====
section
/-! DEFINITION. Firmware slots, update and the live switch (18 R419 R421 R422), and attestation (18 R423). -/

namespace Sys2Proof.Machine

/-! ### Words of the identity region (18 R418 R419) -/

/-- Bit n: core n of the stack is enabled and not retired. A record that failed its check leaves 0 (18 R415). -/
def enmapWord (s : State) (k : StackNum) : DWord :=
  if s.boot.record.valid then
    BitVec.ofNat 64 (((List.range 64).filter (fun n => coreServes s (BitVec.ofNat 7 (64 * k.toNat + n)))).map (fun n => 2 ^ n)).sum
  else 0
def modeBits : Mode → BitVec 2
  | .starting => 0 | .ready => 1 | .recovery => 2 | .off => 0
/-- FWSTAT. -/
def fwstatWord (s : State) : DWord :=
  let b := s.boot
  (0 : BitVec 45) ++ b.fails ++ modeBits b.mode ++ bit b.warm ++ bit b.live.isSome ++ bit b.slotB.isSome ++ bit b.slotA.isSome ++
    bit b.next ++ bit b.run ++ (0 : BitVec 8)
/-- RETMAP, 32 bytes. -/
def retmapBytes (s : State) : List Byte :=
  leBytes s.svc.retClusters.toNat 4 ++ leBytes s.svc.retChannels.toNat 2 ++ List.replicate 2 0 ++ leBytes s.svc.retBanks.toNat 4 ++
    List.replicate 4 0 ++ leBytes s.svc.retSlices.toNat 16

/-! ### Slots (18 R420 R421) -/

/-- Slot 0 is A, slot 1 B. -/
def fwSlot (b : Boot) (k : Bool) : Option FwSlot := if k then b.slotB else b.slotA
def setSlotImage (b : Boot) (k : Bool) (x : Option FwSlot) : Boot := if k then { b with slotB := x } else { b with slotA := x }
/-- The slot that is not RUN. -/
def otherFw (b : Boot) : Bool := !b.run
def updBoot (s : State) (f : Boot → Boot) : State := { s with boot := f s.boot }

/-- The bytes of host memory from a PCI Express address on. -/
def hostBytes (s : State) (a n : Nat) : List Byte := (List.range n).map (fun i => homeByte s { host := true, addr := a + i })
/-- Bytes of the header from the place of a field on. The places are not stated; each lies before the signature
(notes/assumptions/46.md). -/
def headerField (bs : List Byte) (k n : Nat) : List Byte := (bs.drop (Config.headerPlace k % (4032 - n + 1))).take n
/-- A word of the header, in the byte order of the device (00 R9). -/
def headerWord (bs : List Byte) (k : Nat) : Word := BitVec.ofNat 32 (beNat (headerField bs k 4).reverse)
/-- A 4 KiB header with its magic word and the image's length, and code (notes/assumptions/46.md). -/
def isImage (bs : List Byte) : Bool :=
  decide (4096 ≤ bs.length) && decide (headerWord bs 0 = 0x504C4558) && decide ((headerWord bs 2).toNat = bs.length)
/-- The bytes that the signature covers: every byte of the image but the signature. -/
def signedPart (bs : List Byte) : List Byte := bs.take 4032 ++ bs.drop 4096
/-- A verified image: its key hash is that of the configuration record and of the key that signed it, its part number is
PARTID's, and its signature is valid. -/
def imageVerified (bs : List Byte) (keyHash : BitVec 256) : Bool :=
  let key := Config.signingKey keyHash
  isImage bs && decide (beNat (headerField bs 4 32) = keyHash.toNat) && decide (headerWord bs 3 = 0x960) &&
    decide (beNat (sha256 (beBytes key.toNat 64)) = keyHash.toNat) &&
    signatureValid key (signedPart bs) (BitVec.ofNat 512 (beNat ((bs.drop 4032).take 64)))
/-- An image that has been read goes into the slot that is not RUN, verified; else that slot is empty. -/
def stageImage (p : Packet) (bs : List Byte) (s : State) : State :=
  let s := updBoot s (fun b => { b with next := b.run })
  if imageVerified bs s.boot.record.keyHash then
    answer 0x0060 p 0 (updBoot s (fun b => setSlotImage b (otherFw b) (some { version := headerWord bs 1, image := bs })))
  else answer 0x0060 p 7 (updBoot s (fun b => setSlotImage b (otherFw b) none))
/-- FWSTAGE. -/
def execFwstage (p : Packet) (s : State) : Host.Outcome State Fault Refusal :=
  handle 0x0060 [{ ftype := 0x8080, len := 8 }, { ftype := 0x8081, len := 4 }] false p s (fun s =>
    let a := fieldOr p 0x8080 0
    let n := fieldOr p 0x8081 0
    if a % 4096 ≠ 0 ∨ n < 4096 ∨ 16777216 < n then answer 0x0060 p 4 s
    else if s.boot.live.isSome then answer 0x0060 p 8 s
    else stageImage p (hostBytes s a n) s)

/-- A context is SAVED or RESETTING, so that no live switch may start. -/
def ctxStopped (s : State) : Bool := s.ctxs.any (fun x => decide (x.state = .saved) || decide (x.state = .resetting))
/-- The slot that is not RUN becomes the slot of the next start; a live switch begins, or, in recovery mode, a cold start
follows the response (18 R420). -/
def commitSlot (type : BitVec 16) (back : Bool) (p : Packet) (s : State) : State :=
  let s := updBoot s (fun b => { b with next := otherFw b, fails := 0, recoveryNext := false })
  if s.boot.mode = .recovery then updBoot (answer type p 0 s) (fun b => { b with mode := .starting, startedAt := masterClock s 0 })
  else if fieldOr p 0x0082 0 = 1 then
    updBoot s (fun b => { b with live := some ((List.range 32).map (BitVec.ofNat 5), back, p.seq) })
  else answer type p 0 s
/-- FWCOMMIT and FWROLLBACK. -/
def commitPacket (type : BitVec 16) (back : Bool) (p : Packet) (s : State) : Host.Outcome State Fault Refusal :=
  handle type [{ ftype := 0x0082, len := 1 }] false p s (fun s =>
    if 1 < fieldOr p 0x0082 0 then answer type p 4 s
    else if s.boot.live.isSome then answer type p 8 s
    else if fieldOr p 0x0082 0 = 1 ∧ ctxStopped s = true then answer type p 5 s
    else if (fwSlot s.boot (otherFw s.boot)).isNone then answer type p 7 s
    else commitSlot type back p s)
/-- FWCOMMIT. -/
def execFwcommit (p : Packet) (s : State) : Host.Outcome State Fault Refusal := commitPacket 0x0061 false p s
/-- FWROLLBACK. -/
def execFwrollback (p : Packet) (s : State) : Host.Outcome State Fault Refusal := commitPacket 0x0062 true p s

/-! ### The live switch (18 R422) -/

/-- A quiescent point of a queue. -/
def queueQuiet (x : Queue) : Bool := decide (x.state ≠ .running) || x.copy.isNone
/-- A queue moves to the new firmware; after the last one the management channel changes, and the response is written. -/
def liveSwitch (s : State) (q : QueueNum) : State :=
  match s.boot.live with
  | none => s
  | some (qs, back, seq) =>
    if qs.contains q && queueQuiet (getQueue s q) then
      let left := qs.filter (fun x => decide (x ≠ q))
      if left.isEmpty then
        let ctx : CtxNum := (cellsRead s.mail.req 8).extractLsb' 0 6
        respond (updBoot s (fun b => { b with live := none, run := b.next })) (if back then 0x0062 else 0x0061) seq 0 ctx []
      else updBoot s (fun b => { b with live := some (left, back, seq) })
    else s
/-- LIVE_SWITCH_QUEUE. -/
def execLiveSwitchQueue (q : QueueNum) (s : State) : Host.Outcome State Fault Refusal := .next (liveSwitch s q)

/-! ### Attestation (18 R423) -/

def updSvc (s : State) (f : Service → Service) : State := { s with svc := f s.svc }
/-- ATTREQ: a write of 1 while BUSY = 0 snapshots ATTNONCE and sets BUSY; firmware's next work is the report. -/
def execAttreq (v : DWord) (s : State) : Host.Outcome State Fault Refusal :=
  .next (if v.getLsbD 0 && !s.svc.attBusy then updSvc s (fun x => { x with attBusy := true, attSnap := x.nonce }) else s)
/-- SHA-256 of the running image; the recovery code of the boot ROM is not in the spec, and its digest is free. -/
def runDigest (s : State) : List Byte × State :=
  match s.boot.mode, fwSlot s.boot s.boot.run with
  | .recovery, _ => freeBytes s 32
  | _, some x => (sha256 x.image, s)
  | _, none => freeBytes s 32
/-- Bytes 0x400 to 0x4BF of the report. -/
def reportBody (s : State) (digest : List Byte) : List Byte :=
  leBytes s.svc.attSnap.toNat 32 ++ digest ++ sha256 s.boot.record.bytes ++
    dwordBytes [enmapWord s 0, enmapWord s 1, fwstatWord s, 0] ++ retmapBytes s ++ List.replicate 32 0
/-- Firmware writes ATTREP whole and clears BUSY. The report is signed by the private key that the PUF of stack 0 gives; the
signer's own number is free (notes/assumptions/95.md). -/
def buildReport (s : State) : State :=
  let d := runDigest s
  let body := reportBody d.2 d.1
  let sig := beBytes (signature d.2.boot.puf0 (Config.signNumber d.2.freeCount) body).toNat 64
  let s := { d.2 with freeCount := d.2.freeCount + 1 }
  updSvc s (fun x => { x with attBusy := false, attrep := cellsWriteAll [] ((List.range 256).zip (body ++ sig)) })

end Sys2Proof.Machine
end

