-- ==== Sys2Proof/Machine/Service.lean ====
section
/-! DEFINITION. Units tested, retired, retrained and repaired in service (18 R424 to R427 R429 R430), soft errors (18 R428), and
host accesses through BAR2 (16 R382). -/

namespace Sys2Proof.Machine

/-! ### Counters and units (18 R425 R428) -/

/-- Adds 1 to RAS word w of a stack. -/
def rasAdd (s : State) (k : StackNum) (w : Nat) : State :=
  updSvc s (fun x => { x with ras := cellsWrite x.ras (16 * k.toNat + w) (cellsRead x.ras (16 * k.toNat + w) + 1) })
/-- The readings of both stacks, saved with the retained state (18 R417). -/
def allSensors (s : State) : List (BitVec 16) := (getStack s 0).sensors ++ (getStack s 1).sensors
def saveRetained (s : State) : State := updBoot s (fun b => { b with savedSensors := allSensors s })

/-- Units of a kind in a stack. -/
def unitCount (kind : BitVec 4) : Nat :=
  match kind.toNat with
  | 1 => 16 | 2 => 8 | 3 => 64 | 4 => 16 | 5 => 16 | 6 => 8 | 7 => 64 | _ => 0
/-- ACTIONs that a KIND takes (18 R424). -/
def actionOk (kind a : BitVec 4) : Bool :=
  match kind.toNat with
  | 1 => decide (a = 1) || decide (a = 2) | 2 => decide (a = 2) || decide (a = 3) | 3 => decide (a = 2) | 4 => decide (a = 2)
  | 5 => decide (a = 4) | 6 => decide (a = 5) | 7 => decide (a = 5) | _ => false
def unitValid (u : SvcUnit) (a : BitVec 4) : Bool :=
  actionOk u.kind a && decide (u.unit.toNat < unitCount u.kind) && (decide (u.kind ≠ 6) || decide (u.stk = 0))
/-- A unit of a stack has been retired. -/
def unitGone (s : State) (kind : BitVec 4) (k : StackNum) (n : Nat) : Bool :=
  match kind.toNat with
  | 1 => s.svc.retClusters.getLsbD (16 * k.toNat + n) | 5 => s.svc.retClusters.getLsbD (16 * k.toNat + n)
  | 2 => s.svc.retChannels.getLsbD (8 * k.toNat + n) | 3 => s.svc.retSlices.getLsbD (64 * k.toNat + n)
  | 4 => s.svc.retBanks.getLsbD (16 * k.toNat + n) | _ => false
def unitRetired (s : State) (u : SvcUnit) : Bool := unitGone s u.kind u.stk u.unit.toNat
/-- No other unit of its kind is in service on the stack. -/
def lastOfKind (s : State) (u : SvcUnit) : Bool :=
  (List.range (unitCount u.kind)).all (fun n => decide (n = u.unit.toNat) || unitGone s u.kind u.stk n)
def markRetired (u : SvcUnit) (x : Service) : Service :=
  match u.kind.toNat with
  | 1 => { x with retClusters := x.retClusters ||| BitVec.twoPow 32 (16 * u.stk.toNat + u.unit.toNat) }
  | 5 => { x with retClusters := x.retClusters ||| BitVec.twoPow 32 (16 * u.stk.toNat + u.unit.toNat) }
  | 2 => { x with retChannels := x.retChannels ||| BitVec.twoPow 16 (8 * u.stk.toNat + u.unit.toNat) }
  | 3 => { x with retSlices := x.retSlices ||| BitVec.twoPow 128 (64 * u.stk.toNat + u.unit.toNat) }
  | 4 => { x with retBanks := x.retBanks ||| BitVec.twoPow 32 (16 * u.stk.toNat + u.unit.toNat) }
  | _ => x
/-- A unit leaves service for good. -/
def retireUnit (s : State) (u : SvcUnit) : State := rasAdd (updSvc s (markRetired u)) u.stk 14
def unitCluster (u : SvcUnit) : ClusterNum := BitVec.ofNat 5 (16 * u.stk.toNat + u.unit.toNat)
/-- The action takes a cluster out of placement. -/
def drainsCluster (u : SvcUnit) : Bool := decide (u.kind = 1) || decide (u.kind = 5)
/-- Bytes that a channel gives the device. -/
def channelBytes : Nat := 8589934592

/-! ### Refusals (18 R425 R430) -/

/-- Some core of a stack could hold a team of a node. -/
def nodeFits (s : State) (k : StackNum) (n : Need) : Bool :=
  (List.range 64).any (fun j =>
    let c : CoreNum := BitVec.ofNat 7 (64 * k.toNat + j)
    coreServes s c && (!n.pair || (decide (j % 2 = 0) && coreServes s (c + 1))) &&
      decide ((needSizes n).sum ≤ pairSize s (corePair c)))
/-- Without the unit, a node of a LIVE or SAVED run would have no placement on its stack. -/
def noPlacement (s : State) (u : SvcUnit) : Bool :=
  s.runs.any (fun r => (List.range r.nodes.length).any (fun i =>
    !nodeFits (updSvc s (markRetired u)) u.stk (nodeNeed r (BitVec.ofNat 8 i))))
/-- A context maps a page of device memory in the top 8 GiB of physical space (18 R426). -/
def topMapped (s : State) : Bool :=
  (List.range 64).any (fun c =>
    decide ((getCtx s (BitVec.ofNat 6 c)).state ≠ .free) && (ctxLeaves s (BitVec.ofNat 6 c)).any (fun f =>
      !f.host && decide (s.svc.installed - channelBytes < f.pa + f.size)))
/-- The refusal of a request. A unit that is retired already is no valid UNIT (notes/assumptions/48.md). -/
def svcRefusal (s : State) (u : SvcUnit) (a : BitVec 4) : Option (BitVec 8) :=
  if !unitValid u a || unitRetired s u then some 4
  else if (decide (a = 2) || drainsCluster u) && lastOfKind s u then some 5
  else if (drainsCluster u && noPlacement s u) || (decide (u.kind = 2) && decide (a = 2) && topMapped s) then some 3
  else none

/-! ### Requests (18 R424 R425) -/

/-- The end of a request. -/
def svcResult (s : State) (r : BitVec 8) : State := irq (updSvc s (fun x => { x with req := none, result := r })) 38
/-- A request begins: a cluster takes no more teams and gathers no more lanes; a channel's 8 GiB leave the installed size. -/
def beginService (s : State) (u : SvcUnit) (a : BitVec 4) : State :=
  let s := updSvc s (fun x => { x with req := some (u, a) })
  if drainsCluster u then
    updCluster s (unitCluster u) (fun c => { c with draining := true, drainFrom := masterClock s u.stk })
  else if u.kind = 2 ∧ a = 2 then
    updSvc s (fun x => { x with installed := x.installed - channelBytes, migration := some 0 })
  else s
/-- A request through SVCREQ, or the same work that the device starts on its own; discarded while BUSY. -/
def svcRequest (u : SvcUnit) (a : BitVec 4) (s : State) : State :=
  if s.svc.req.isSome then s
  else match svcRefusal s u a with
    | some r => svcResult s r
    | none => beginService s u a
/-- A counter of a stack has crossed its threshold in the configuration record (18 R424). -/
def overThreshold (s : State) (k : StackNum) : Bool :=
  (List.range 15).any (fun w =>
    let i := 16 * k.toNat + w
    decide ((s.boot.record.thresholds.getD i 0) ≤ (cellsRead s.svc.ras i).toNat))
/-- Work that the device starts on its own, once a counter of the unit's stack has crossed its threshold
(notes/assumptions/96.md). A write of SVCREQ starts the same work at once (svcRequest). -/
def ownRequest (u : SvcUnit) (a : BitVec 4) (s : State) : State := if overThreshold s u.stk then svcRequest u a s else s
/-- TEST_AND_RETURN. -/
def execTestAndReturn (u : SvcUnit) (s : State) : Host.Outcome State Fault Refusal := .next (ownRequest u 1 s)
/-- RETIRE. -/
def execRetire (u : SvcUnit) (s : State) : Host.Outcome State Fault Refusal := .next (ownRequest u 2 s)
/-- RETRAIN. -/
def execRetrain (u : SvcUnit) (s : State) : Host.Outcome State Fault Refusal := .next (ownRequest u 3 s)
/-- RECALIBRATE. -/
def execRecalibrate (u : SvcUnit) (s : State) : Host.Outcome State Fault Refusal := .next (ownRequest u 4 s)
/-- TEST_AND_REPAIR_LANES. -/
def execTestAndRepairLanes (u : SvcUnit) (s : State) : Host.Outcome State Fault Refusal := .next (ownRequest u 5 s)

/-! ### Draining a cluster (18 R424) -/

/-- A team holds places or rings in a cluster. -/
def onCluster (cl : ClusterNum) (t : Team) : Bool := decide (coreCluster t.core = cl) && ringsStand t
def clusterEmpty (s : State) (cl : ClusterNum) : Bool :=
  !s.teams.any (onCluster cl) && (getEngine s cl).entries.isEmpty && (getEngine s cl).gathers.isEmpty
/-- Steals that hold places in the cluster end: a served one arrives, any other gives up what it holds. -/
def drainSteals (s : State) (cl : ClusterNum) : State :=
  s.runs.foldl (fun acc r => r.steals.foldl (fun acc v =>
    match findRun acc r.id, findTeam acc v.team with
    | some r, some t => if coreCluster t.core = cl then (if v.served then stealArrive acc r v else dropSteal acc r v) else acc
    | _, _ => acc) acc) s
/-- The rings of a task team that has ended move to another pair. -/
def moveEnded (s : State) (tid : Nat) : State :=
  match findTeam s tid with
  | none => s
  | some t => match findRun s t.run with
    | none => s
    | some r =>
      let n : Need := { waves := [], pair := t.pair, bars := 0, winSize := 0, tiles := 0, rings := t.rings.map (restoreRing s r t) }
      (match findPlacement s n t.stk 0 with
        | some p => setTeam s { t with core := p.core, winBase := p.winBase, copyBase := p.copyBase,
                                       rings := t.rings.map (moveRing p.rings) }
        | none => s)
def returnTeam (s : State) (tid : Nat) : State :=
  match findTeam s tid with
  | none => s
  | some t => (tryRestore s t.stk 0 t).getD s
/-- Every core of a cluster cleans what its release tags cover, and loses its tags (03 R119). -/
def cleanCluster (s : State) (cl : ClusterNum) : State :=
  (List.range 4).foldl (fun acc j => cleanTagged acc (BitVec.ofNat 7 (4 * cl.toNat + j))) s
/-- The teams still there stop; when no pass of the engine is under way they are rotated off and placed elsewhere on the
stack. -/
def drainCluster (s : State) (cl : ClusterNum) : State :=
  let s := drainSteals s cl
  let ts := s.teams.filter (onCluster cl)
  let live := ts.filter (fun t => decide (t.status = .running))
  let ids := live.map (fun t => t.id)
  let ended := (ts.filter (fun t => decide (t.status ≠ .running))).map (fun t => t.id)
  let s := (live.filter (fun t => !t.stopping)).foldl (fun acc t => stopTeam acc t.id) s
  if live.all (teamQuiet s) then ids.foldl returnTeam (ended.foldl moveEnded (cleanCluster (ids.foldl rotateOut s) cl)) else s
/-- CLUSTER_DRAIN_TIMEOUT: State.who names the cluster. -/
def drainTimeout (s : State) (cl : ClusterNum) : State :=
  let c := getCluster s cl
  if c.draining = true ∧ c.drainFrom + quotaClocks ≤ masterClock s (clusterStack cl) then drainCluster s cl else s
def execClusterDrainTimeout (s : State) : Host.Outcome State Fault Refusal := finish (drainTimeout s s.who.cl)

/-! ### Moves (18 R426 R427) -/

/-- CHANNEL_MIGRATION: so many 64-byte lines move behind the rising boundary. The interleave names no byte of memory. -/
def execChannelMigration (lines : Nat) (s : State) : Host.Outcome State Fault Refusal :=
  .next (updSvc s (fun x => { x with migration := x.migration.map (fun b => min x.installed (b + 64 * lines)) }))
/-- L2_SLICE_MOVE: the slice's homes go to the next slice in service. Its tags move with their homes; every byte at home and
every .sc access of the model is already performed. -/
def sliceMove (s : State) (k : StackNum) (n : BitVec 6) : State :=
  match s.svc.req with
  | some (u, _) => if u.kind = 3 ∧ u.stk = k ∧ u.unit.toNat = n.toNat ∧ unitRetired s u = false then retireUnit s u else s
  | none => s
def execL2SliceMove (stk : StackNum) (slice : BitVec 6) (s : State) : Host.Outcome State Fault Refusal :=
  .next (sliceMove s stk slice)

/-! ### The end of a request (18 R425) -/

/-- The work of a request has been done. -/
def serviceReady (s : State) (u : SvcUnit) (a : BitVec 4) : Bool :=
  if drainsCluster u then clusterEmpty s (unitCluster u)
  else if u.kind = 2 ∧ a = 2 then decide (s.svc.migration = some s.svc.installed)
  else if u.kind = 3 then unitRetired s u
  else true
/-- A cluster returns, or joins RETMAP; the pool of a retired stop goes back into the ring. -/
def endCluster (s : State) (u : SvcUnit) (a : BitVec 4) (passed : Bool) : State :=
  let s := updCluster s (unitCluster u) (fun c => { c with draining := false })
  if a = 2 then svcResult (emptyPool (retireUnit s u) (unitCluster u)) 1
  else if passed then svcResult s 0
  else svcResult (emptyPool (retireUnit s u) (unitCluster u)) 2
def endService (s : State) (u : SvcUnit) (a : BitVec 4) (passed : Bool) : State :=
  if drainsCluster u then endCluster s u a passed
  else if u.kind = 2 ∧ a = 2 then svcResult (updSvc (retireUnit s u) (fun x => { x with migration := none })) 1
  else if u.kind = 3 then svcResult s 1
  else if u.kind = 4 then svcResult (retireUnit s u) 1
  else svcResult (saveRetained s) 0
/-- SERVICE_COMPLETE. -/
def serviceComplete (passed : Bool) (s : State) : State :=
  match s.svc.req with
  | some (u, a) => if serviceReady s u a then endService s u a passed else s
  | none => s
def execServiceComplete (passed : Bool) (s : State) : Host.Outcome State Fault Refusal := .next (serviceComplete passed s)

/-! ### Bond lanes (18 R429) -/

def groupKey (u : SvcUnit) : Nat := 64 * u.stk.toNat + u.unit.toNat
/-- The key of a unit's lane 0 in the lanes' CRC error counts. -/
def laneKey (u : SvcUnit) : Nat := 128 * (if u.kind = 6 then u.unit.toNat else 8 + groupKey u)
/-- A lane shows a CRC error. -/
def crcError (s : State) (u : SvcUnit) (lane : BitVec 7) : State :=
  if unitValid u 5 then
    updSvc s (fun x => { x with laneErrors := cellsWrite x.laneErrors (laneKey u + lane.toNat) (cellsRead x.laneErrors (laneKey u + lane.toNat) + 1) })
  else s
/-- The lane of a unit whose CRC errors have crossed the record's threshold. -/
def badLane (s : State) (u : SvcUnit) : Option Nat :=
  ((List.range 128).map (fun l => laneKey u + l)).find? (fun i => decide (s.boot.record.laneLimit ≤ (cellsRead s.svc.laneErrors i).toNat))
/-- The lane that has been replaced carries nothing more. -/
def clearLane (s : State) (u : SvcUnit) : State :=
  match badLane s u with
  | some i => updSvc s (fun x => { x with laneErrors := cellsWrite x.laneErrors i 0 })
  | none => s
/-- A hinge module takes a spare where it has one left. -/
def hingeRepair (s : State) (m : Nat) : State :=
  let n := cellsRead s.svc.hingeSpares m
  let s := if n.toNat < 4 then rasAdd (updSvc s (fun x => { x with hingeSpares := cellsWrite x.hingeSpares m (n + 1) })) 0 13 else s
  saveRetained (irq (clearLane s { kind := 6, stk := 0, unit := BitVec.ofNat 8 m }) 38)
/-- The lane of a vertical group is switched to a spare, where one is left. -/
def vertRepair (s : State) (u : SvcUnit) : State :=
  let n := cellsRead s.svc.vertSpares (groupKey u)
  let s := if n.toNat < 2 then
      rasAdd (updSvc s (fun x => { x with vertSpares := cellsWrite x.vertSpares (groupKey u) (n + 1) })) u.stk 12
    else s
  saveRetained (irq (clearLane s u) 38)
def findRepair (s : State) (u : SvcUnit) : Option Repair := s.svc.repairs.find? (fun r => decide (r.unit = u))
def setRepair (s : State) (r : Repair) : State :=
  updSvc s (fun x => { x with repairs := x.repairs.filter (fun y => decide (y.unit ≠ r.unit)) ++ [r] })
def dropRepair (s : State) (u : SvcUnit) : State :=
  updSvc s (fun x => { x with repairs := x.repairs.filter (fun y => decide (y.unit ≠ u)) })
/-- LANE_REPAIR, once a lane has crossed the threshold: a hinge lane is replaced at once; a vertical group is quiesced first. -/
def laneRepair (s : State) (u : SvcUnit) : State :=
  if !unitValid u 5 || (badLane s u).isNone then s
  else if u.kind = 6 then hingeRepair s u.unit.toNat
  else match findRepair s u with
    | some _ => s
    | none => setRepair s { unit := u, start := masterClock s u.stk, waiting := false }
def execLaneRepair (u : SvcUnit) (s : State) : Host.Outcome State Fault Refusal := .next (laneRepair s u)
/-- LANE_SWITCH_END: the switch has taken 200 ns, 300 master clocks. -/
def laneSwitchEnd (s : State) (u : SvcUnit) : State :=
  match findRepair s u with
  | some r => if r.waiting = false ∧ r.start + 300 ≤ masterClock s u.stk then vertRepair (dropRepair s u) u else s
  | none => s
def execLaneSwitchEnd (u : SvcUnit) (s : State) : Host.Outcome State Fault Refusal := .next (laneSwitchEnd s u)
/-- REPAIR_ABANDONED: the group was not idle within 2 µs, 3,000 master clocks. -/
def repairAbandoned (s : State) (u : SvcUnit) : State :=
  match findRepair s u with
  | some r => if r.waiting = false ∧ r.start + 3000 ≤ masterClock s u.stk then
      setRepair s { r with waiting := true, start := masterClock s u.stk } else s
  | none => s
def execRepairAbandoned (u : SvcUnit) (s : State) : Host.Outcome State Fault Refusal := .next (repairAbandoned s u)
/-- REPAIR_RETRY: 1 ms later the repair starts again. -/
def repairRetry (s : State) (u : SvcUnit) : State :=
  match findRepair s u with
  | some r => if r.waiting = true ∧ r.start + 1500000 ≤ masterClock s u.stk then
      setRepair s { r with waiting := false, start := masterClock s u.stk } else s
  | none => s
def execRepairRetry (u : SvcUnit) (s : State) : Host.Outcome State Fault Refusal := .next (repairRetry s u)

/-! ### Soft errors (18 R428) -/

/-- The stack a device address is homed on (03 R109). -/
def homeStack (a : Nat) : StackNum := BitVec.ofNat 1 (a / 4096)
def placeStack : ErrPlace → StackNum
  | .gddr a => homeStack a | .l2 a => homeStack a | .queueStore k => k | .localStore c => coreStack c | .weight k _ => k
  | .accumulator e => clusterStack e
def placeWord : ErrPlace → Nat
  | .gddr _ => 0 | .l2 _ => 2 | .queueStore _ => 2 | .localStore _ => 4 | .weight _ _ => 6 | .accumulator _ => 8
/-- The operations whose data lies in a place. -/
def readsPlace (place : ErrPlace) (i : Instr) : Bool :=
  match place, i with
  | .queueStore _, .recld _ => true
  | .localStore _, .ldL _ => true
  | .localStore _, .atomL _ => true
  | .weight _ _, .ldw _ => true
  | _, _ => false
def strikeFault (p : PendOp) (l : BitVec 5) : OpFault :=
  { cause := .softError, fkind := 0, lane := l, addr := match memInfo p.instr with
      | some m => opAddr p m l.toNat
      | none => 0 }
/-- An error met by an operation of a wave that has not been performed: it faults through its flag (09 R258). -/
def strikeOp (s : State) (place : ErrPlace) : State :=
  updWave s s.who.wave (fun w => { w with pend := w.pend.map (fun p =>
    if p.seq = s.who.seq ∧ readsPlace place p.instr = true ∧ p.performed = false ∧ p.fault.isNone = true then
      failPend p (strikeFault p s.who.idx) else p) })
/-- An error met by an entry of an engine (05 R171, 11 R312). -/
def strikeEntry (s : State) (cl : ClusterNum) (i : BitVec 5) : State :=
  updEngine s cl (fun g => { g with entries := g.entries.map (fun e => if e.idx.toNat = i.toNat then { e with softError := true } else e) })
/-- An error met by a copy in its local source (09 R274): only a copy out of the local store reads one. -/
def strikeCopy (s : State) : State :=
  updTeam s s.who.team (fun t => { t with copies := t.copies.map (fun c =>
    if c.wave = s.who.wave ∧ c.seq = s.who.seq ∧ ceDir c.entry ≠ 0 ∧ c.finished = false then copyError c 3 0 else c) })
/-- An uncorrectable error: memory is poisoned; any other place strikes the reader that State.who names, an operation
(count 0), an engine's entry (count 1) or a copy (count 2). -/
def strike (s : State) (place : ErrPlace) : State :=
  match place with
  | .gddr a => { s with poison := if s.poison.contains (a / 16) then s.poison else (a / 16) :: s.poison }
  | .l2 a => { s with poison := if s.poison.contains (a / 16) then s.poison else (a / 16) :: s.poison }
  | .accumulator e => strikeEntry s e s.who.idx
  | _ => if s.who.count = 0 then strikeOp s place else if s.who.count = 1 then strikeEntry s s.who.cl s.who.idx else strikeCopy s
/-- SOFT_ERROR. -/
def execSoftError (place : ErrPlace) (correctable : Bool) (s : State) : Host.Outcome State Fault Refusal :=
  .next (if correctable then rasAdd s (placeStack place) (placeWord place)
    else irq (strike (rasAdd s (placeStack place) (placeWord place + 1)) place) 38)

/-- The trap of a register parity error that recurs: at the boundary, with the bundle's PC as RESUME. -/
def parityTrap (pc : Pc) : TrapInfo :=
  { cause := .softError, code := 0, deliv := .boundary, slot := 3, fkind := 0, flane := 0, faddr := 0, tpc := pc, resume := pc,
    iter := 0, res := 0 }
/-- PARITY_ERROR: the wave's next bundle takes no effect; it is issued again once, and traps if the error recurs. -/
def parityError (s : State) (wid : Nat) (recurs : Bool) : State :=
  match findWave s wid with
  | none => s
  | some w =>
    if !waveLive w then s
    else if recurs && w.parityRetry then
      let pc := ((slotPath (getSlot w w.cur)).getD blankPath).pc
      irq (trapWave (rasAdd (setWave s { w with parityRetry := false }) (coreStack w.core) 11) wid w.cur (parityTrap pc)) 38
    else if recurs then s
    else rasAdd (setWave s { w with parityRetry := true }) (coreStack w.core) 10
def execParityError (wave : Nat) (recurs : Bool) (s : State) : Host.Outcome State Fault Refusal := finish (parityError s wave recurs)

/-! ### BAR2 (16 R382) -/

/-- BAR2_ACCESS: offsets at or above the installed size, and every offset in recovery mode, read zero and ignore writes
(18 R420 R426). -/
def bar2 (s : State) (b : Bar2) : State :=
  match b with
  | .read _ _ => s
  | .write a bs => if s.boot.mode = .ready ∧ a < s.svc.installed then
      homeWrite s { host := false, addr := a } (bs.take (s.svc.installed - a)) else s
/-- Bytes that a BAR2 read returns. -/
def bar2Read (s : State) (a n : Nat) : List Byte :=
  (List.range n).map (fun i => if s.boot.mode = .ready ∧ a + i < s.svc.installed then homeByte s { host := false, addr := a + i } else 0)
def execBar2Access (b : Bar2) (s : State) : Host.Outcome State Fault Refusal := .next (bar2 s b)

end Sys2Proof.Machine
end

