-- ==== Sys2Proof/Machine/Starting.lean ====
section
/-! DEFINITION. Cold and warm starts, failed boots, recovery mode and the loss of power (18 R415 to R417 R420, 17 R412). -/

namespace Sys2Proof.Machine

/-! ### What a start leaves (18 R416) -/

/-- A stack after a start: its population and its supply are those of the configuration record (17 R404 R407). -/
def startStack (s : State) (k : StackNum) : Stack :=
  let r := s.boot.record
  let p := if k = 0 then r.pop0 else r.pop1
  { stackReset with
    sensors := (getStack s k).sensors, pop := p, tpop := if k = 0 then r.tpop0 else r.tpop1, target := p.toNat, ringP := p.toNat,
    free := p.toNat, supply := voltNeed s (pulses r.pattern) }
/-- What a warm start keeps of a stack: its clock and its counters (10 R307, 16 R399, 17 R414). -/
def keepStack (o n : Stack) : Stack :=
  { n with
    mclk := o.mclk, refresh := o.refresh, interval := o.interval, lastStep := o.lastStep, lastWarn := o.lastWarn,
    insertedAt := o.insertedAt, advises := o.advises, throttles := o.throttles, throttledUs := o.throttledUs,
    canarySteps := o.canarySteps, stepDowns := o.stepDowns, launches := o.launches, appended := o.appended,
    spilledCount := o.spilledCount, refused := o.refused, launchId := o.launchId }
def startCluster (s : State) : Cluster := { clusterReset with pattern := s.boot.record.pattern }
def keepCluster (o n : Cluster) : Cluster := { n with clk := o.clk, latched := o.latched, captures := o.captures }
/-- Retired units, spares and RAS counters stay across a warm start. -/
def keepService (o : Service) : Service :=
  { serviceReset with
    retClusters := o.retClusters, retChannels := o.retChannels, retBanks := o.retBanks, retSlices := o.retSlices, ras := o.ras,
    hingeSpares := o.hingeSpares, vertSpares := o.vertSpares, installed := o.installed }
def keepQueue (o n : Queue) : Queue := { n with executed := o.executed }

/-- Everything that is lost, at its Reset values; the board, the host and the model's own fields stay. -/
def blankDevice (s : State) : State :=
  { State.reset with
    hostMem := s.hostMem, hostAtomics := s.hostAtomics, msix := s.msix, boot := s.boot, thermtrip := s.thermtrip, who := s.who, agenda := s.agenda,
    nextId := s.nextId, freeCount := s.freeCount }
/-- The device after the steps of a cold start. -/
def coldDevice (s : State) : State :=
  { blankDevice s with
    stks := [startStack s 0, startStack s 1], clusters := List.replicate 32 (startCluster s) }
/-- The device after the steps of a warm start. -/
def warmDevice (s : State) : State :=
  let n := coldDevice s
  { n with
    stks := [keepStack (getStack s 0) (getStack n 0), keepStack (getStack s 1) (getStack n 1)],
    clusters := s.clusters.map (fun o => keepCluster o (startCluster s)), queues := s.queues.map (fun o => keepQueue o queueReset),
    hinge := s.hinge, svc := keepService s.svc }

/-! ### Failed boots and recovery (18 R420) -/

/-- What a failed boot does to the flash. -/
def failBoot (b : Boot) : Boot :=
  let other := !b.next
  let n := b.fails + 1
  { b with
    fails := n, next := if n = 3 then other else b.next,
    recoveryNext := decide (n = 6) || (decide (3 ≤ n.toNat) && (fwSlot b other).isNone) }
/-- A cold start follows a failed boot. -/
def failedStart (s : State) : State :=
  updBoot (blankDevice s) (fun b => { failBoot b with mode := .starting, live := none, warm := false, startedAt := 0 })
/-- The boot ROM's checks of the configuration record: the vendor's signature, and each base die derives its own key (18 R415). -/
def recordOk (b : Boot) : Bool :=
  signatureValid b.rootKey b.record.bytes b.record.signature && decide (publicKey b.puf0 = b.record.idKey) &&
    decide (publicKey b.puf1 = b.record.idKey1)
/-- Recovery mode, on what the start leaves of the device. A record that has failed its checks is not valid (18 R415). -/
def enterRecovery (dev : State) : State :=
  updBoot dev (fun b => { b with
    mode := .recovery, live := none, warm := false, record := { b.record with valid := recordOk b } })
/-- READY: the image of NEXT runs, FAILS is 0, and the retained state is saved (18 R416 R417). -/
def readyBoot (s : State) (warm : Bool) : State :=
  saveRetained (updBoot s (fun b => { b with
    mode := .ready, run := b.next, fails := 0, warm := warm, live := none, recoveryNext := false,
    record := { b.record with valid := true } }))

/-- A start ended: at READY, or at the step that failed. A configuration record that fails its checks fails at step 1, and a
slot without a verified image at step 7 (18 R422); dev is the device after every step. -/
def endStart (s : State) (dev : State) (warm : Bool) (r : StartResult) : State :=
  if recordOk s.boot = false ∨ r = .failed 1 ∨ s.boot.recoveryNext = true then enterRecovery dev
  else if r ≠ .ready ∨ (fwSlot s.boot s.boot.next).isNone then failedStart s
  else readyBoot dev warm
/-- COLD_START. -/
def execColdStart (r : StartResult) (s : State) : Host.Outcome State Fault Refusal := .next (endStart s (coldDevice s) false r)

/-- Every sensor reads within 20 °C, 160 units, of its reading when the state was saved (18 R417). -/
def sensorsNear (s : State) : Bool :=
  (List.range 72).all (fun i =>
    let d := ((allSensors s).getD i 0).toInt - (s.boot.savedSensors.getD i 0).toInt
    decide (d ≤ 160) && decide (-160 ≤ d))
/-- WARM_START, with power held: retained says that the repair map and the training state pass their checksums. -/
def execWarmStart (retained : Bool) (r : StartResult) (s : State) : Host.Outcome State Fault Refusal :=
  .next (if s.boot.mode = .off then s else endStart s (warmDevice s) (retained && sensorsNear s) r)

/-- 10 s in master clocks. -/
def startLimit : Nat := 15000000000
/-- START_TIMEOUT: the start fails at the step it has reached, State.who.count. -/
def execStartTimeout (s : State) : Host.Outcome State Fault Refusal :=
  .next (if s.boot.mode = .starting ∧ s.boot.startedAt + startLimit ≤ masterClock s 0 then
    endStart s (coldDevice s) false (.failed (BitVec.ofNat 4 s.who.count)) else s)

/-- POWER_REMOVED (17 R412): the device's state is lost, and THERMTRIP_N is high again. -/
def execPowerRemoved (s : State) : Host.Outcome State Fault Refusal :=
  .next { updBoot (blankDevice s) (fun b => { b with mode := .off, live := none }) with thermtrip := false }

end Sys2Proof.Machine
end

