-- ==== Sys2Proof/Machine/HostRegs.lean ====
section
/-! DEFINITION. Host writes to the device registers of BAR0 (16 R383 to R386 R396, 18 R418), and firmware's own steps. -/

namespace Sys2Proof.Machine

/-! ### Hardware queues (16 R385 R386) -/

/-- QWR: a doorbell value in the host's part of the ring, counted from QFREE, is taken; any other is discarded. -/
def execQwr (q : QueueNum) (v : DWord) (s : State) : Host.Outcome State Fault Refusal :=
  let x := getQueue s q
  let a : BitVec 24 := v.extractLsb' 0 24
  .next (if ringHeld x ≤ ringAhead x a then updQueue s q (fun x => { x with qwr := ringOffset x a }) else s)
/-- HALT: a COPY under way completes first; in every case EN becomes 0 and STATE IDLE. -/
def haltQueue (x : Queue) : Queue :=
  if x.state = .running ∧ x.copy.isSome = true then { x with halting := true }
  else { x with state := .idle, en := false, wait := none }
def execHalt (q : QueueNum) (s : State) : Host.Outcome State Fault Refusal := .next (updQueue s q haltQueue)
/-- STATE of a queue that may fetch at PC. -/
def fetchState (x : Queue) : QState := if wordCovered x then .running else .idle
/-- EN: a write of 1. In ERROR it clears QERR and continues at PC; from IDLE with EN = 0 the registers and the return stack are
zero; a queue that runs or waits may fetch again. -/
def enableQueue (x : Queue) : Queue :=
  if x.bound = false then x
  else match x.state with
    | .error => { x with en := true, qerr := 0, qerrpc := 0, state := fetchState x }
    | .idle => if x.en then x else { x with en := true, qerr := 0, qerrpc := 0, regs := [], rstack := [], state := fetchState x }
    | _ => { x with en := true }
def execEn (q : QueueNum) (s : State) : Host.Outcome State Fault Refusal := .next (updQueue s q enableQueue)

/-- A write to a queue's register block at an offset in it. -/
def queueWrite (s : State) (q : QueueNum) (o : Nat) (v : DWord) : State :=
  match o with
  | 0x00 =>
    updQueue s q (fun x => if v.getLsbD 1 then haltQueue x else if v.getLsbD 0 then enableQueue x else { x with en := false })
  | 0x08 => updQueue s q (fun x => if x.en then x else { x with qbase := keepBits v 51 6 })
  | 0x10 =>
    let n : BitVec 5 := v.extractLsb' 0 5
    updQueue s q (fun x => if x.en = true ∨ n.toNat < 12 ∨ 24 < n.toNat then x else { x with qsize := n })
  | 0x20 =>
    let a : BitVec 24 := v.extractLsb' 0 24
    updQueue s q (fun x => if ringHeld x ≤ ringAhead x a then { x with qwr := ringOffset x a } else x)
  | _ => s

/-! ### Interrupts and the mailbox (16 R384 R396) -/

/-- IRQSTAT: a 1 clears its bit. -/
def clearIrq (s : State) (v : DWord) : State := { s with irqstat := s.irqstat &&& ~~~v }
def execIrqstat (v : DWord) (s : State) : Host.Outcome State Fault Refusal := .next (clearIrq s v)
/-- MBSTAT: a 1 in DONE clears it. -/
def clearDone (s : State) (v : DWord) : State :=
  if v.getLsbD 1 then { s with mail := { s.mail with done := false } } else s
def execMbstat (v : DWord) (s : State) : Host.Outcome State Fault Refusal := .next (clearDone s v)
/-- MBDOOR: discarded while BUSY or DONE. -/
def doorbell (s : State) (v : DWord) : State :=
  if s.mail.busy || s.mail.done then s
  else { s with mail := { s.mail with busy := true, door := some (v.extractLsb' 0 13) } }
/-- The request buffer is firmware's while BUSY. -/
def requestWrite (s : State) (o : Nat) (v : DWord) : State :=
  if s.mail.busy then s else { s with mail := { s.mail with req := cellsWriteLE s.mail.req o v.toNat 8 } }

/-! ### The identity and service region (18 R418 R425) -/

/-- A word of ATTNONCE. -/
def nonceWrite (s : State) (i : Nat) (v : DWord) : State :=
  updSvc s (fun x => { x with nonce :=
    (x.nonce &&& ~~~((0xFFFFFFFFFFFFFFFF : BitVec 256) <<< (64 * i))) ||| ((v.setWidth 256 : BitVec 256) <<< (64 * i)) })
def reqUnit (v : DWord) : SvcUnit := { stk := v.extractLsb' 31 1, kind := v.extractLsb' 20 4, unit := v.extractLsb' 32 8 }
def startReport (s : State) (v : DWord) : State :=
  if v.getLsbD 0 && !s.svc.attBusy then updSvc s (fun x => { x with attBusy := true, attSnap := x.nonce }) else s
def identityWrite (s : State) (o : Nat) (v : DWord) : State :=
  if o = 0x040 then (if s.boot.mode = .ready then svcRequest (reqUnit v) (v.extractLsb' 16 4) s else s)
  else if 0x100 ≤ o ∧ o < 0x200 then updSvc s (fun x => { x with ras := cellsWrite x.ras ((o - 0x100) / 8) 0 })
  else if 0x200 ≤ o ∧ o < 0x220 then nonceWrite s ((o - 0x200) / 8) v
  else if o = 0x220 then startReport s v
  else s

/-! ### REGISTER_WRITE (00 R10, 16 R383) -/

/-- Offsets that take a write in recovery mode and while the device starts: the identity region and the mailbox (18 R420). -/
def alwaysOpen (o : Nat) : Bool := decide (o < 0x1000) || (decide (0x8000 ≤ o) && decide (o < 0xA010))
/-- A 64-bit write to BAR0; an offset that is no multiple of 8, or is not listed, discards it. -/
def barWrite (s : State) (o : Nat) (v : DWord) : State :=
  if o % 8 ≠ 0 ∨ s.boot.mode = .off ∨ (s.boot.mode ≠ .ready ∧ alwaysOpen o = false) then s
  else if o < 0x1000 then identityWrite s o v
  else if o < 0x1800 then queueWrite s (BitVec.ofNat 5 ((o - 0x1000) / 64)) ((o - 0x1000) % 64) v
  else if o = 0x2000 then clearIrq s v
  else if o = 0x2008 then { s with irqmask := keepBits v 39 0 }
  else if 0x8000 ≤ o ∧ o < 0x9000 then requestWrite s (o - 0x8000) v
  else if o = 0xA000 then doorbell s v
  else if o = 0xA008 then clearDone s v
  else s
/-- REGISTER_WRITE. -/
def execRegisterWrite (offset : BitVec 20) (v : DWord) (s : State) : Host.Outcome State Fault Refusal :=
  finish (barWrite s offset.toNat v)

/-- What a 64-bit read of BAR0 returns (00 R10, 16 R383 R385, 18 R418): reads change nothing. -/
def queueRead (x : Queue) (o : Nat) : DWord :=
  let st : BitVec 2 := match x.state with
    | .idle => 0 | .running => 1 | .waiting => 2 | .error => 3
  match o with
  | 0x00 => (0 : BitVec 48) ++ x.ctx ++ st ++ (0 : BitVec 5) ++ bit x.bound ++ (0 : BitVec 1) ++ bit x.en
  | 0x08 => x.qbase | 0x10 => x.qsize.setWidth 64 | 0x18 => x.pc.setWidth 64 | 0x20 => x.qwr.setWidth 64
  | 0x28 => x.qfree.setWidth 64 | 0x30 => x.qerrpc ++ (0 : BitVec 24) ++ x.qerr | _ => 0
def wordOf (bs : List Byte) (o : Nat) : DWord := BitVec.ofNat 64 (leNat ((bs.drop o).take 8))
def cellWord (c : Cells 8) (o : Nat) : DWord := BitVec.ofNat 64 (leNat ((List.range 8).map (fun i => cellsRead c (o + i))))
def svcstatWord (s : State) : DWord :=
  (0 : BitVec 48) ++ s.svc.result ++ (0 : BitVec 7) ++ bit s.svc.req.isSome
def slotVersion (x : Option FwSlot) : DWord := match x with
  | some f => f.version.setWidth 64
  | none => 0
def identityRead (s : State) (o : Nat) : DWord :=
  if o = 0x000 then s.boot.record.boardRev ++ (0x960 : Word)
  else if o = 0x008 then enmapWord s 0
  else if o = 0x010 then enmapWord s 1
  else if o = 0x018 then s.boot.record.serial
  else if o = 0x020 then fwstatWord s
  else if o = 0x028 then slotVersion s.boot.slotA
  else if o = 0x030 then slotVersion s.boot.slotB
  else if o = 0x048 then svcstatWord s
  else if 0x080 ≤ o ∧ o < 0x0A0 then wordOf (retmapBytes s) (o - 0x080)
  else if 0x100 ≤ o ∧ o < 0x200 then cellsRead s.svc.ras ((o - 0x100) / 8)
  else if 0x200 ≤ o ∧ o < 0x220 then wordOf (leBytes s.svc.nonce.toNat 32) (o - 0x200)
  else if o = 0x220 then (bit s.svc.attBusy).setWidth 64
  else if 0x400 ≤ o ∧ o < 0x500 then cellWord s.svc.attrep (o - 0x400)
  else if 0x800 ≤ o ∧ o < 0x840 then wordOf (beBytes s.boot.record.idKey.toNat 64) (o - 0x800)
  else 0
def barRead (s : State) (o : Nat) : DWord :=
  if o % 8 ≠ 0 ∨ s.boot.mode = .off ∨ (s.boot.mode ≠ .ready ∧ alwaysOpen o = false) then 0
  else if o < 0x1000 then identityRead s o
  else if o < 0x1800 then queueRead (getQueue s (BitVec.ofNat 5 ((o - 0x1000) / 64))) ((o - 0x1000) % 64)
  else if o = 0x2000 then s.irqstat
  else if o = 0x2008 then s.irqmask
  else if 0x8000 ≤ o ∧ o < 0x9000 then cellWord s.mail.req (o - 0x8000)
  else if 0x9000 ≤ o ∧ o < 0xA000 then cellWord s.mail.resp (o - 0x9000)
  else if o = 0xA008 then (bit s.mail.done ++ bit s.mail.busy).setWidth 64
  else 0

/-! ### Firmware's next piece of work (16 R396 R398, 18 R423) -/

/-- A save that no packet waits for is under way, and the next packet is not a RESET of its context that passes the first
checks (16 R396). -/
def saveBlocks (s : State) (i : Instr) : Bool :=
  (List.range 64).any (fun c => (getCtx s (BitVec.ofNat 6 c)).saving && (match i with
    | .resetCtx p => decide (p.ctx ≠ BitVec.ofNat 6 c) || (firstChecks s 0x0022 [] false p).isSome
    | _ => true))
/-- Firmware writes a report that has been asked for, or handles the packet in the request buffer; a packet that waits for
its answer holds back every later one. -/
def firmwareStep (ex : Instr → State → Host.Outcome State Fault Refusal) (s : State) : Host.Outcome State Fault Refusal :=
  if s.boot.mode = .off ∨ s.boot.mode = .starting then .next s
  else if s.svc.attBusy then .next (buildReport s)
  else match s.mail.door with
    | none => .next s
    | some d =>
      if s.mail.owed.isSome || s.boot.live.isSome then .next s
      else
        let i := decodePacket d.toNat ((List.range 4096).map (cellsRead s.mail.req))
        if saveBlocks s i then .next s else ex i s

end Sys2Proof.Machine
end

