-- ==== Sys2Proof/Machine/Clock.lean ====
section
/-! DEFINITION. One master clock of the device, with what falls due at its boundaries (17 R402 R405 to R408, 15 R358 R361), the
early arrival of a result (07 R204), and what firmware powers off (03 R106). -/

namespace Sys2Proof.Machine

/-! ### A clock -/

/-- A wave's cluster clock: how long it has been READY, and its spin counter (01 R50 R58). -/
def waveClock (s : State) (w : Wave) : Wave := if waveStopped s w then w else spinClock (markCandidate s w)
/-- A cluster's pattern passes this master clock (17 R406). -/
def pulseNow (s : State) (cl : ClusterNum) : Bool := (getCluster s cl).pattern.getLsbD (masterClock s (clusterStack cl) % 16)
/-- A cluster clock: the partitions' issue marks of this clock become those of the last one (01 R48). -/
def clockCluster (c : Cluster) : Cluster :=
  { c with clk := c.clk + 1, sparse := c.sparseNow ||| ~~~c.issuedNow, issuedNow := 0, sparseNow := 0 }
def clusterClocks (s : State) : State :=
  let on := allClusters.filter (pulseNow s)
  let s := { s with waves := s.waves.map (fun w => if on.contains (coreCluster w.core) then waveClock s w else w) }
  on.foldl (fun acc cl => closeDue (updCluster acc cl clockCluster) cl) s
/-- Throttled time in microseconds (17 R414). -/
def countThrottled (t : Stack) : Stack :=
  if t.throttled = true ∧ t.mclk % Config.clocksPerUs = 0 then { t with throttledUs := t.throttledUs + 1 } else t
/-- A stack's master clock, its base-die stop and its supply. -/
def stackClock (s : State) (k : StackNum) : State :=
  baseDie (moveSupply (updStack s k (fun t => countThrottled { t with mclk := t.mclk + 1 })) k) k
/-- What falls due at a boundary of a stack: latches, patterns, the quota interval and the canary's decay. -/
def stackDue (s : State) (k : StackNum) : State :=
  canaryDecay (quotaInterval ((stackClusters k).foldl (fun acc cl => patternSwitch (chargeLatch acc cl) cl) s) k) k
/-- One master clock of both stacks. -/
def tick (s : State) : State :=
  let s := clusterClocks (staleDone { s with clockMark := 0 })
  stackDue (stackDue (stackClock (stackClock s 0) 1) 0) 1

/-! ### A result that arrives early (07 R204) -/

/-- One result of a performed operation reaches its register before its flag is CLEAR. -/
def deliverOne (s : State) (wid seq ix : Nat) : State :=
  match findWave s wid with
  | none => s
  | some w => match findPend seq w.pend with
    | none => s
    | some p =>
      if p.performed && p.fault.isNone then deliverWrs s wid seq p.replayed ((liveResults p)[ix]?).toList else s

/-! ### Power-off (03 R106) -/

/-- A unit joins or leaves the units that are powered off. -/
def putOff {a : Type} [DecidableEq a] (off : Bool) (x : a) (l : List a) : List a :=
  if off then x :: l.filter (fun y => decide (y ≠ x)) else l.filter (fun y => decide (y ≠ x))
/-- A team stands on a core pair. -/
def pairTaken (s : State) (n : Nat) : Bool := s.teams.any (fun t => teamPlaced t && decide (corePair t.core = n))
/-- Firmware powers a unit off or on: a local store only while its pair has no placed team (notes/assumptions/90.md). -/
def setGate (s : State) (u : Gate) (off : Bool) : State :=
  match u with
  | .pair n => if off && pairTaken s n then s else { s with svc := { s.svc with gatedPairs := putOff off n s.svc.gatedPairs } }
  | .slice n => { s with svc := { s.svc with gatedSlices := putOff off n s.svc.gatedSlices } }
  | .bank n => { s with svc := { s.svc with gatedBanks := putOff off n s.svc.gatedBanks } }

end Sys2Proof.Machine
end

