-- ==== Sys2Proof/Machine/CrossLane.lean ====
section
/-! DEFINITION. Cross-lane instructions (08 R240 to R245). -/

namespace Sys2Proof.Machine

/-- A register at another lane position: 0 where the position has held no lane since placement or REGROUP (08 R240). -/
def laneRead (w : Wave) (n l : Nat) : Word := if inMask w.everLive l then readV w n l else 0

/-- The lane SHFL reads (08 R241). -/
def shflSource (mode : ShflMode) (b : Word) (l : Nat) : Nat :=
  let n := b.toNat % 32
  let g := b.toNat / 256 % 8
  let size := if g = 0 ∨ 5 < g then 32 else 2 ^ g
  let base := l - l % size
  let i := l % size
  match mode with
  | .lane => base + n % size
  | .rotl => base + (i + n) % size
  | .rotr => base + (i + 32 - n) % size
  | .xor => base + (i ^^^ n) % size

def effShfl (o : I2) (mode : ShflMode) (s : State) : State :=
  let w := srcWave s
  let n := vnum w.ix.toNat o.a
  putVec s (laneSet s o.pr) o.d (fun l => laneRead w n (shflSource mode (readVB w o.b l) l))

/-- Lanes of L whose value is 1 (08 R242). -/
def voteMask (s : State) (pr : Pred) (a : PReg) (inv : Bool) : Mask :=
  let p := readP (srcWave s) a.toNat
  laneSet s pr &&& (if inv then ~~~p else p)
/-- The condition of VOTE over L. -/
def voteHolds (cond : VoteCond) (m x : Mask) : Bool :=
  match cond with
  | .none => false
  | .all _ => decide (x = m)
  | .any _ => decide (x ≠ 0)
  | .same _ => decide (x = m) || decide (x = 0)
def effVote (pr : Pred) (d : SReg) (a : PReg) (inv : Bool) (cond : VoteCond) (s : State) : State :=
  let m := laneSet s pr
  let x := voteMask s pr a inv
  let s1 := putS s d x
  match cond with
  | .none => s1
  | .all p => putPred s1 m p (fun _ => voteHolds cond m x)
  | .any p => putPred s1 m p (fun _ => voteHolds cond m x)
  | .same p => putPred s1 m p (fun _ => voteHolds cond m x)

/-- The operations of REDUX and their identities (08 R243). -/
def reduxId : ReduxOp → Word
  | .add => 0 | .min => 0x7FFFFFFF | .max => 0x80000000 | .minu => 0xFFFFFFFF | .maxu => 0 | .and => 0xFFFFFFFF
  | .or => 0 | .xor => 0
def reduxOp (op : ReduxOp) (a b : Word) : Word :=
  match op with
  | .add => a + b | .min => minWord false a b | .max => maxWord false a b | .minu => minWord true a b
  | .maxu => maxWord true a b | .and => a &&& b | .or => a ||| b | .xor => a ^^^ b
def reduxAll (op : ReduxOp) (f : Nat → Word) : List Nat → Word
  | [] => reduxId op
  | l :: r => reduxOp op (f l) (reduxAll op f r)
def effRedux (pr : Pred) (dst : ReduxDst) (a : VReg) (op : ReduxOp) (s : State) : State :=
  let w := srcWave s
  let m := laneSet s pr
  match dst with
  | .total d => putS s d (reduxAll op (readVReg w a) (lanesOf m))
  | .scan d => putVec s m d (fun l => reduxAll op (readVReg w a) ((lanesOf m).filter (fun k => decide (k < l))))

/-- BCAST: from the lane a scalar names, or the lowest lane of L (08 R244). -/
def effBcast (pr : Pred) (d a : VReg) (lane : Option SReg) (s : State) : State :=
  let w := srcWave s
  let m := laneSet s pr
  let k := match lane with
    | some b => (readS w b.toNat).toNat % 32
    | none => (lanesOf m).headD 0
  putVec s m d (fun _ => laneRead w (vnum w.ix.toNat a) k)

/-- MATCH: the lanes of L whose value equals the lane's (08 R244). -/
def matchValue (w : Wave) (a : VReg) (wide : Bool) (l : Nat) : DWord :=
  (if wide then readV w (vnum w.ix.toNat a + 1) l else 0) ++ readVReg w a l
def effMatch (o : I1) (wide : Bool) (s : State) : State :=
  let w := srcWave s
  let m := laneSet s o.pr
  putVec s m o.d (fun l => maskOf (fun k => decide (matchValue w o.a wide k = matchValue w o.a wide l)) (lanesOf m))

def effRdlane (d : SReg) (a : VReg) (b : SReg) (s : State) : State :=
  let w := srcWave s
  putS s d (laneRead w (vnum w.ix.toNat a) ((readS w b.toNat).toNat % 32))
def effWrlane (d : VReg) (a b : SReg) (s : State) : State :=
  let w := srcWave s
  let m := (issPath s).mask &&& BitVec.twoPow 32 ((readS w b.toNat).toNat % 32)
  putVec s m d (fun _ => readS w a.toNat)

/-- SHFL (08 R241). -/
def execShfl (o : I2) (mode : ShflMode) (s : State) : Host.Outcome State Fault Refusal :=
  run (.shfl o mode) none false (effShfl o mode) s
/-- VOTE (08 R242). -/
def execVote (pr : Pred) (d : SReg) (a : PReg) (inv : Bool) (cond : VoteCond) (s : State) : Host.Outcome State Fault Refusal :=
  run (.vote pr d a inv cond) none false (effVote pr d a inv cond) s
/-- REDUX (08 R243). -/
def execRedux (pr : Pred) (dst : ReduxDst) (a : VReg) (op : ReduxOp) (s : State) : Host.Outcome State Fault Refusal :=
  run (.redux pr dst a op) none false (effRedux pr dst a op) s
/-- BCAST (08 R244). -/
def execBcast (pr : Pred) (d a : VReg) (lane : Option SReg) (s : State) : Host.Outcome State Fault Refusal :=
  run (.bcast pr d a lane) none false (effBcast pr d a lane) s
/-- MATCH (08 R244). -/
def execMatchLanes (o : I1) (wide : Bool) (s : State) : Host.Outcome State Fault Refusal :=
  run (.matchLanes o wide) none false (effMatch o wide) s
/-- RDLANE (08 R245). -/
def execRdlane (d : SReg) (a : VReg) (b : SReg) (s : State) : Host.Outcome State Fault Refusal :=
  run (.rdlane d a b) none false (effRdlane d a b) s
/-- WRLANE (08 R245). -/
def execWrlane (d : VReg) (a b : SReg) (s : State) : Host.Outcome State Fault Refusal :=
  run (.wrlane d a b) none false (effWrlane d a b) s

end Sys2Proof.Machine
end

