-- ==== Sys2Proof/Machine/DotProduct.lean ====
section
/-! DEFINITION. Packed dot products (08 R238 R239, 04 R139 R140). -/

namespace Sys2Proof.Machine

/-- Sum of the products of n integer elements of a type each (04 R140). -/
def dotInt (ta tb : NumType) (a b : Nat) : Nat → Int
  | 0 => 0
  | k + 1 => dotInt ta tb a b k +
      intOfCode ta (a / 2 ^ (k * typeWidth ta)) * intOfCode tb (b / 2 ^ (k * typeWidth tb))

/-- An integer dot product of one lane: wraps, or clamps to INT32 and raises SA (08 R239). -/
def dotIntLane (ta tb : NumType) (n : Nat) (sat : Bool) (a b c : Word) : Word × FpFlags :=
  let x := c.toInt + dotInt ta tb a.toNat b.toNat n
  if sat then
    let r := clampInt (-2147483648) 2147483647 x
    (BitVec.ofInt 32 r.1, flagIf r.2 flagSA)
  else (BitVec.ofInt 32 x, 0)

/-- Products of n floating-point elements, and whether one is 0 x infinity. -/
def dotProducts (ta tb : NumType) (a b : Nat) : Nat → List Val × Bool
  | 0 => ([], false)
  | k + 1 =>
    let r := dotProducts ta tb a b k
    let p := mulVal (decodeFloat (floatFmt ta) (a / 2 ^ (k * typeWidth ta) % 2 ^ typeWidth ta))
      (decodeFloat (floatFmt tb) (b / 2 ^ (k * typeWidth tb) % 2 ^ typeWidth tb))
    (r.1 ++ [p.1], r.2 || p.2)

/-- A floating-point dot product of one lane: the two roundings of 04 R139. -/
def dotFloatLane (ta tb : NumType) (n : Nat) (m : Round) (a b c : Word) : Word × FpFlags :=
  let p := dotProducts ta tb a.toNat b.toNat n
  let r := accumulate1 m c p.1
  (r.1, r.2 ||| flagIf p.2 flagIV)

def effDotI (ua ub ta tb : NumType) (n : Nat) (o : DotI) (s : State) : State :=
  let w := srcWave s
  vecFp s o.pr o.d (fun l => dotIntLane (if o.au then ua else ta) (if o.bu then ub else tb) n o.sat
    (readVReg w o.a l) (readVB w o.b l) (readVReg w o.c l))
def effDotF (xa xb ta tb : NumType) (n : Nat) (o : DotF) (s : State) : State :=
  let w := srcWave s
  vecFp s o.pr o.d (fun l => dotFloatLane (if o.fa then xa else ta) (if o.fb then xb else tb) n
    (effRound (issFmt s) o.rm) (readVReg w o.a l) (readVB w o.b l) (applyMod o.mc 31 (readVReg w o.c l)))

/-- An integer dot of 4-bit elements; .au and .bu make nibbles unsigned, 0 to 15 (08 R238). -/
def nibble (un : Bool) (x : Nat) : Int := if un then ((x % 16 : Nat) : Int) else intOfCode .int4 x
def dotNibbles (ua ub : Bool) (a b : Nat) : Nat → Int
  | 0 => 0
  | k + 1 => dotNibbles ua ub a b k + nibble ua (a / 16 ^ k) * nibble ub (b / 16 ^ k)
def dotI4Lane (ua ub sat : Bool) (a b c : Word) : Word × FpFlags :=
  let x := c.toInt + dotNibbles ua ub a.toNat b.toNat 8
  if sat then
    let r := clampInt (-2147483648) 2147483647 x
    (BitVec.ofInt 32 r.1, flagIf r.2 flagSA)
  else (BitVec.ofInt 32 x, 0)
def effDotI4 (o : DotI) (s : State) : State :=
  let w := srcWave s
  vecFp s o.pr o.d (fun l => dotI4Lane o.au o.bu o.sat (readVReg w o.a l) (readVB w o.b l) (readVReg w o.c l))

/-- DOT4.I8 (08 R239). -/
def execDot4I8 (o : DotI) (s : State) : Host.Outcome State Fault Refusal :=
  run (.dot4I8 o) none false (effDotI .uint8 .uint8 .int8 .int8 4 o) s
/-- DOT8.I4 (08 R239). -/
def execDot8I4 (o : DotI) (s : State) : Host.Outcome State Fault Refusal := run (.dot8I4 o) none false (effDotI4 o) s
/-- DOT4.F8 (08 R239). -/
def execDot4F8 (o : DotF) (s : State) : Host.Outcome State Fault Refusal :=
  run (.dot4F8 o) none false (effDotF .e5m2 .e5m2 .e4m3 .e4m3 4 o) s
/-- DOT8.F4 (08 R239). -/
def execDot8F4 (o : DotF) (s : State) : Host.Outcome State Fault Refusal :=
  run (.dot8F4 o) none false (effDotF .e2m1 .e2m1 .e2m1 .e2m1 8 o) s
/-- DOT2.H (08 R239). -/
def execDot2H (o : DotF) (s : State) : Host.Outcome State Fault Refusal :=
  run (.dot2H o) none false (effDotF .bf16 .bf16 .fp16 .fp16 2 o) s

end Sys2Proof.Machine
end

