-- ==== Sys2Proof/Machine/VectorInt.lean ====
section
/-! DEFINITION. Vector integer instructions (08 R227 to R229) and moves (08 R248 R249). -/

namespace Sys2Proof.Machine

def effI2 (f : Word → Word → Word) (o : I2) (s : State) : State :=
  let w := srcWave s
  putVec s (laneSet s o.pr) o.d (fun l => f (readVReg w o.a l) (readVB w o.b l))
def effI3 (f : Word → Word → Word → Word) (o : I3) (s : State) : State :=
  let w := srcWave s
  putVec s (laneSet s o.pr) o.d (fun l => f (readVReg w o.a l) (readVB w o.b l) (readVReg w o.c l))
def effI1 (f : Word → Word) (o : I1) (s : State) : State :=
  let w := srcWave s
  putVec s (laneSet s o.pr) o.d (fun l => f (readVReg w o.a l))

/-- IADD and ISUB: a lane that clamps raises SA (08 R229). -/
def effSat (sx ux : Word → Word → Int) (sat : IntSat) (o : I2) (s : State) : State :=
  let w := srcWave s
  let m := laneSet s o.pr
  let r := fun l => satResult sat (sx (readVReg w o.a l) (readVB w o.b l)) (ux (readVReg w o.a l) (readVB w o.b l))
  raiseLanes (putVec s m o.d (fun l => (r l).1)) m (fun l => flagIf (r l).2 flagSA)
def addS (a b : Word) : Int := a.toInt + b.toInt
def addU (a b : Word) : Int := (a.toNat : Int) + b.toNat
def subS (a b : Word) : Int := a.toInt - b.toInt
def subU (a b : Word) : Int := (a.toNat : Int) - b.toNat

/-- IADDC: the sum with the carry predicate, and the carry out (08 R228). -/
def effIaddc (o : I2) (c e : PReg) (s : State) : State :=
  let w := srcWave s
  let m := laneSet s o.pr
  let x := fun l => (readVReg w o.a l).toNat + (readVB w o.b l).toNat + (if inMask (readP w c.toNat) l then 1 else 0)
  putPred (putVec s m o.d (fun l => BitVec.ofNat 32 (x l))) m e (fun l => decide (4294967296 ≤ x l))

/-- Bit-field extract of a[hi:lo] (08 R228). -/
def bfxWord (sx : Bool) (a b : Word) : Word :=
  let lo := b.toNat % 32
  let hi := b.toNat / 256 % 32
  if hi < lo then 0
  else
    let n := hi - lo + 1
    let f := a.toNat / 2 ^ lo % 2 ^ n
    if sx && decide (2 ^ (n - 1) ≤ f) then BitVec.ofInt 32 ((f : Int) - 2 ^ n) else BitVec.ofNat 32 f
/-- Bit-field deposit into c[hi:lo] (08 R228). -/
def bfdWord (a b c : Word) : Word :=
  let lo := b.toNat % 32
  let hi := b.toNat / 256 % 32
  if hi < lo then c
  else
    let m : Word := BitVec.ofNat 32 ((2 ^ (hi - lo + 1) - 1) * 2 ^ lo)
    (c &&& ~~~m) ||| ((a <<< lo) &&& m)
/-- Byte select with zeroing and inversion (08 R228). -/
def bytselByte (a b c : Word) (i : Nat) : Byte :=
  let n := c.toNat / 16 ^ i % 16
  let y : Byte := if n % 8 < 4 then a.extractLsb' (8 * (n % 8)) 8 else b.extractLsb' (8 * (n % 8 - 4)) 8
  let v := if 8 ≤ n then 0 else y
  if c.getLsbD (16 + i) then ~~~v else v
def bytselWord (a b c : Word) : Word :=
  bytselByte a b c 3 ++ bytselByte a b c 2 ++ bytselByte a b c 1 ++ bytselByte a b c 0
def clzWord (a : Word) : Word := if a = 0 then 32 else BitVec.ofNat 32 (31 - Nat.log2 a.toNat)
def popcWord (a : Word) : Word := BitVec.ofNat 32 (popcount a)

def effIcmp (o : ICmp) (s : State) : State :=
  let w := srcWave s
  putPred s (laneSet s o.pr) o.d (fun l => intCond o.cc (readVReg w o.a l) (readVB w o.b l))
def effIsel (o : I2) (c : PReg) (s : State) : State :=
  let w := srcWave s
  putVec s (laneSet s o.pr) o.d (fun l => if inMask (readP w c.toNat) l then readVReg w o.a l else readVB w o.b l)
def effMov (pr : Pred) (d : VReg) (b : VB) (s : State) : State :=
  let w := srcWave s
  putVec s (laneSet s pr) d (fun l => readVB w b l)
def effMovi (pr : Pred) (d : VReg) (imm : Word) (s : State) : State := putVec s (laneSet s pr) d (fun _ => imm)

/-- A new ix for the wave's later bundles (08 R249). -/
def putIx (s : State) (x : BitVec 8) : State := updCur s (fun w => { w with ix := x })

/-- IADD (08 R229). -/
def execIadd (o : I2) (sat : IntSat) (s : State) : Host.Outcome State Fault Refusal :=
  run (.iadd o sat) none false (effSat addS addU sat o) s
/-- IADDC (08 R228). -/
def execIaddc (o : I2) (c e : PReg) (s : State) : Host.Outcome State Fault Refusal :=
  run (.iaddc o c e) none false (effIaddc o c e) s
/-- ISUB (08 R229). -/
def execIsub (o : I2) (sat : IntSat) (s : State) : Host.Outcome State Fault Refusal :=
  run (.isub o sat) none false (effSat subS subU sat o) s
/-- IMUL (08 R227). -/
def execImul (o : I2) (s : State) : Host.Outcome State Fault Refusal := run (.imul o) none false (effI2 (· * ·) o) s
/-- IMULHI (08 R227). -/
def execImulhi (o : I2) (un : Bool) (s : State) : Host.Outcome State Fault Refusal :=
  run (.imulhi o un) none false (effI2 (mulHi un) o) s
/-- IMAD (08 R227). -/
def execImad (o : I3) (s : State) : Host.Outcome State Fault Refusal :=
  run (.imad o) none false (effI3 (fun a b c => a * b + c) o) s
/-- IAND (08 R227). -/
def execIand (o : I2) (s : State) : Host.Outcome State Fault Refusal := run (.iand o) none false (effI2 (· &&& ·) o) s
/-- IOR (08 R227). -/
def execIor (o : I2) (s : State) : Host.Outcome State Fault Refusal := run (.ior o) none false (effI2 (· ||| ·) o) s
/-- IXOR (08 R227). -/
def execIxor (o : I2) (s : State) : Host.Outcome State Fault Refusal := run (.ixor o) none false (effI2 (· ^^^ ·) o) s
/-- ISHL (08 R226 R227). -/
def execIshl (o : I2) (s : State) : Host.Outcome State Fault Refusal := run (.ishl o) none false (effI2 shlWord o) s
/-- ISHR (08 R226 R227). -/
def execIshr (o : I2) (s : State) : Host.Outcome State Fault Refusal := run (.ishr o) none false (effI2 shrWord o) s
/-- ISAR (08 R226 R227). -/
def execIsar (o : I2) (s : State) : Host.Outcome State Fault Refusal := run (.isar o) none false (effI2 sarWord o) s
/-- IMIN (08 R227). -/
def execImin (o : I2) (un : Bool) (s : State) : Host.Outcome State Fault Refusal :=
  run (.imin o un) none false (effI2 (minWord un) o) s
/-- IMAX (08 R227). -/
def execImax (o : I2) (un : Bool) (s : State) : Host.Outcome State Fault Refusal :=
  run (.imax o un) none false (effI2 (maxWord un) o) s
/-- ICMP (08 R224). -/
def execIcmp (o : ICmp) (s : State) : Host.Outcome State Fault Refusal := run (.icmp o) none false (effIcmp o) s
/-- ISEL (08 R227). -/
def execIsel (o : I2) (c : PReg) (s : State) : Host.Outcome State Fault Refusal :=
  run (.isel o c) none false (effIsel o c) s
/-- BFX (08 R228). -/
def execBfx (o : I2) (sx : Bool) (s : State) : Host.Outcome State Fault Refusal :=
  run (.bfx o sx) none false (effI2 (bfxWord sx) o) s
/-- BFD (08 R228). -/
def execBfd (o : I3) (s : State) : Host.Outcome State Fault Refusal := run (.bfd o) none false (effI3 bfdWord o) s
/-- POPC (08 R227). -/
def execPopc (o : I1) (s : State) : Host.Outcome State Fault Refusal := run (.popc o) none false (effI1 popcWord o) s
/-- CLZ (08 R227). -/
def execClz (o : I1) (s : State) : Host.Outcome State Fault Refusal := run (.clz o) none false (effI1 clzWord o) s
/-- BREV (08 R227). -/
def execBrev (o : I1) (s : State) : Host.Outcome State Fault Refusal :=
  run (.brev o) none false (effI1 BitVec.reverse o) s
/-- BYTSEL (08 R228). -/
def execBytsel (o : I3) (s : State) : Host.Outcome State Fault Refusal :=
  run (.bytsel o) none false (effI3 bytselWord o) s
/-- MOV (08 R248). -/
def execMov (pr : Pred) (d : VReg) (b : VB) (s : State) : Host.Outcome State Fault Refusal :=
  run (.mov pr d b) none false (effMov pr d b) s
/-- MOVI (08 R248). -/
def execMovi (pr : Pred) (d : VReg) (imm : Word) (s : State) : Host.Outcome State Fault Refusal :=
  run (.movi pr d imm) none false (effMovi pr d imm) s
/-- IXSET (08 R249). -/
def execIxset (a : SReg) (s : State) : Host.Outcome State Fault Refusal :=
  run (.ixset a) none false (fun s => putIx s ((readS (srcWave s) a.toNat).extractLsb' 0 8)) s
/-- IXADD (08 R249). -/
def execIxadd (a : SReg) (s : State) : Host.Outcome State Fault Refusal :=
  run (.ixadd a) none false (fun s => putIx s ((srcWave s).ix + (readS (srcWave s) a.toNat).extractLsb' 0 8)) s
/-- IXGET (08 R249). -/
def execIxget (d : SReg) (s : State) : Host.Outcome State Fault Refusal :=
  run (.ixget d) none false (fun s => putS s d ((srcWave s).ix.setWidth 32)) s

end Sys2Proof.Machine
end

