-- ==== Sys2Proof/Machine/Paired.lean ====
section
/-! DEFINITION. The halves of paired slots: d := d op b, rounding from FMT.RND, no saturation (07 R211). -/

namespace Sys2Proof.Machine

/-- B of a half, negated in the given sign bits where NB is 1. -/
def halfB (w : Wave) (o : Half) (packed : Bool) (l : Nat) : Word :=
  let m : Mod := { neg := o.nb, abs := false }
  if packed then applyMod2 m (readVB w o.b l) else applyMod m 31 (readVB w o.b l)
def effHalfFp (op : Word → Word → Word × FpFlags) (packed : Bool) (o : Half) (s : State) : State :=
  let w := srcWave s
  vecFp s o.pr o.d (fun l => op (readVReg w o.d l) (halfB w o packed l))
def effHalfRound (op : Round → Word → Word → Word × FpFlags) (packed : Bool) (o : Half) (s : State) : State :=
  effHalfFp (op (fmtRound (issFmt s))) packed o s
def effHalfInt (f : Word → Word → Word) (o : Half) (s : State) : State :=
  let w := srcWave s
  putVec s (laneSet s o.pr) o.d (fun l => f (readVReg w o.d l) (readVB w o.b l))

/-- Paired FADD (07 R211). -/
def execPairedFadd (o : Half) (s : State) : Host.Outcome State Fault Refusal :=
  run (.pairedFadd o) none false (effHalfRound fadd32 false o) s
/-- Paired FSUB (07 R211). -/
def execPairedFsub (o : Half) (s : State) : Host.Outcome State Fault Refusal :=
  run (.pairedFsub o) none false (effHalfRound fsub32 false o) s
/-- Paired FMUL (07 R211). -/
def execPairedFmul (o : Half) (s : State) : Host.Outcome State Fault Refusal :=
  run (.pairedFmul o) none false (effHalfRound fmul32 false o) s
/-- Paired FMIN (07 R211). -/
def execPairedFmin (o : Half) (s : State) : Host.Outcome State Fault Refusal :=
  run (.pairedFmin o) none false (effHalfFp (fminmax32 false) false o) s
/-- Paired FMAX (07 R211). -/
def execPairedFmax (o : Half) (s : State) : Host.Outcome State Fault Refusal :=
  run (.pairedFmax o) none false (effHalfFp (fminmax32 true) false o) s
/-- Paired HADD2 (07 R211). -/
def execPairedHadd2 (o : Half) (s : State) : Host.Outcome State Fault Refusal :=
  run (.pairedHadd2 o) none false (effHalfRound hadd16 true o) s
/-- Paired HMUL2 (07 R211). -/
def execPairedHmul2 (o : Half) (s : State) : Host.Outcome State Fault Refusal :=
  run (.pairedHmul2 o) none false (effHalfRound hmul16 true o) s
/-- Paired MOV (07 R211). -/
def execPairedMov (o : Half) (s : State) : Host.Outcome State Fault Refusal :=
  run (.pairedMov o) none false (effMov o.pr o.d o.b) s
/-- Paired IADD (07 R211). -/
def execPairedIadd (o : Half) (s : State) : Host.Outcome State Fault Refusal :=
  run (.pairedIadd o) none false (effHalfInt (· + ·) o) s
/-- Paired ISUB (07 R211). -/
def execPairedIsub (o : Half) (s : State) : Host.Outcome State Fault Refusal :=
  run (.pairedIsub o) none false (effHalfInt (· - ·) o) s
/-- Paired IAND (07 R211). -/
def execPairedIand (o : Half) (s : State) : Host.Outcome State Fault Refusal :=
  run (.pairedIand o) none false (effHalfInt (· &&& ·) o) s
/-- Paired IOR (07 R211). -/
def execPairedIor (o : Half) (s : State) : Host.Outcome State Fault Refusal :=
  run (.pairedIor o) none false (effHalfInt (· ||| ·) o) s
/-- Paired IXOR (07 R211). -/
def execPairedIxor (o : Half) (s : State) : Host.Outcome State Fault Refusal :=
  run (.pairedIxor o) none false (effHalfInt (· ^^^ ·) o) s
/-- Paired ISHL (07 R211). -/
def execPairedIshl (o : Half) (s : State) : Host.Outcome State Fault Refusal :=
  run (.pairedIshl o) none false (effHalfInt shlWord o) s
/-- Paired ISHR (07 R211). -/
def execPairedIshr (o : Half) (s : State) : Host.Outcome State Fault Refusal :=
  run (.pairedIshr o) none false (effHalfInt shrWord o) s
/-- Paired ISAR (07 R211). -/
def execPairedIsar (o : Half) (s : State) : Host.Outcome State Fault Refusal :=
  run (.pairedIsar o) none false (effHalfInt sarWord o) s
/-- Paired IMIN (07 R211). -/
def execPairedImin (o : Half) (s : State) : Host.Outcome State Fault Refusal :=
  run (.pairedImin o) none false (effHalfInt (minWord false) o) s
/-- Paired IMAX (07 R211). -/
def execPairedImax (o : Half) (s : State) : Host.Outcome State Fault Refusal :=
  run (.pairedImax o) none false (effHalfInt (maxWord false) o) s

end Sys2Proof.Machine
end

