-- ==== Sys2Proof/Machine/Predicates.lean ====
section
/-! DEFINITION. Predicate instructions (08 R246 R247). -/

namespace Sys2Proof.Machine

/-- PLOP of one lane: two truth tables, bit 2x + y for inputs x and y (08 R246). -/
def plopBit (f1 f2 : BitVec 4) (a b c : Bool) : Bool :=
  let t := f1.getLsbD (2 * a.toNat + b.toNat)
  f2.getLsbD (2 * t.toNat + c.toNat)
def effPlop (o : Plop) (s : State) : State :=
  let w := srcWave s
  putPred s (laneSet s o.pr) o.d (fun l => plopBit o.f1 o.f2 (inMask (readP w o.a.toNat) l)
    (inMask (readP w o.b.toNat) l) (inMask (readP w o.c.toNat) l))
/-- The bit PSET writes into lane l (08 R247). -/
def psetBit (w : Wave) (m : PsetMode) (l : Nat) : Bool :=
  match m with
  | .zero => false | .one => true
  | .bits b => inMask (readS w b.toNat) l
  | .nonzero b => decide (readS w b.toNat ≠ 0)
def effPset (pr : Pred) (d : PReg) (m : PsetMode) (s : State) : State :=
  putPred s (laneSet s pr) d (psetBit (srcWave s) m)
/-- The predicate over the path's MASK (08 R246). -/
def pathPred (s : State) (a : PReg) : Mask := (issPath s).mask &&& readP (srcWave s) a.toNat

/-- PLOP (08 R246). -/
def execPlop (o : Plop) (s : State) : Host.Outcome State Fault Refusal := run (.plop o) none false (effPlop o) s
/-- PSET (08 R247). -/
def execPset (pr : Pred) (d : PReg) (mode : PsetMode) (s : State) : Host.Outcome State Fault Refusal :=
  run (.pset pr d mode) none false (effPset pr d mode) s
/-- PGET (08 R246). -/
def execPget (d : SReg) (a : PReg) (s : State) : Host.Outcome State Fault Refusal :=
  run (.pget d a) none false (fun s => putS s d (pathPred s a)) s
/-- PCNT (08 R246). -/
def execPcnt (d : SReg) (a : PReg) (s : State) : Host.Outcome State Fault Refusal :=
  run (.pcnt d a) none false (fun s => putS s d (BitVec.ofNat 32 (popcount (pathPred s a)))) s

end Sys2Proof.Machine
end

