-- ==== Sys2Proof/Machine/ScalarInt.lean ====
section
/-! DEFINITION. Scalar integer instructions (08 R225 R226). -/

namespace Sys2Proof.Machine

/-- A scalar operation on two words. -/
def effS2 (f : Word → Word → Word) (o : S2) (s : State) : State :=
  let w := srcWave s
  putS s o.d (f (readS w o.a.toNat) (readS w o.b.toNat))
/-- The .d form: register pairs (04 R131). -/
def effSp2 (f : DWord → DWord → DWord) (o : S2) (s : State) : State :=
  let w := srcWave s
  putSP s o.d (f (readSP w o.a.toNat) (readSP w o.b.toNat))
def effSsel (o : S2) (c : SReg) (s : State) : State :=
  let w := srcWave s
  putS s o.d (if readS w c.toNat ≠ 0 then readS w o.a.toNat else readS w o.b.toNat)
def effSmov (d a : SReg) (s : State) : State := putS s d (readS (srcWave s) a.toNat)

/-- SADD (08 R225). -/
def execSadd (o : S2) (wide : Bool) (s : State) : Host.Outcome State Fault Refusal :=
  run (.sadd o wide) none false (if wide then effSp2 (· + ·) o else effS2 (· + ·) o) s
/-- SSUB (08 R225). -/
def execSsub (o : S2) (wide : Bool) (s : State) : Host.Outcome State Fault Refusal :=
  run (.ssub o wide) none false (if wide then effSp2 (· - ·) o else effS2 (· - ·) o) s
/-- SMUL (08 R225). -/
def execSmul (o : S2) (s : State) : Host.Outcome State Fault Refusal := run (.smul o) none false (effS2 (· * ·) o) s
/-- SMULHI (08 R225). -/
def execSmulhi (o : S2) (un : Bool) (s : State) : Host.Outcome State Fault Refusal :=
  run (.smulhi o un) none false (effS2 (mulHi un) o) s
/-- SAND (08 R225). -/
def execSand (o : S2) (s : State) : Host.Outcome State Fault Refusal := run (.sand o) none false (effS2 (· &&& ·) o) s
/-- SOR (08 R225). -/
def execSor (o : S2) (s : State) : Host.Outcome State Fault Refusal := run (.sor o) none false (effS2 (· ||| ·) o) s
/-- SXOR (08 R225). -/
def execSxor (o : S2) (s : State) : Host.Outcome State Fault Refusal := run (.sxor o) none false (effS2 (· ^^^ ·) o) s
/-- SSHL (08 R226). -/
def execSshl (o : S2) (s : State) : Host.Outcome State Fault Refusal := run (.sshl o) none false (effS2 shlWord o) s
/-- SSHR (08 R226). -/
def execSshr (o : S2) (s : State) : Host.Outcome State Fault Refusal := run (.sshr o) none false (effS2 shrWord o) s
/-- SSAR (08 R226). -/
def execSsar (o : S2) (s : State) : Host.Outcome State Fault Refusal := run (.ssar o) none false (effS2 sarWord o) s
/-- SMIN (08 R225). -/
def execSmin (o : S2) (un : Bool) (s : State) : Host.Outcome State Fault Refusal :=
  run (.smin o un) none false (effS2 (minWord un) o) s
/-- SMAX (08 R225). -/
def execSmax (o : S2) (un : Bool) (s : State) : Host.Outcome State Fault Refusal :=
  run (.smax o un) none false (effS2 (maxWord un) o) s
/-- SCMP (08 R224). -/
def execScmp (o : S2) (cc : BitVec 4) (s : State) : Host.Outcome State Fault Refusal :=
  run (.scmp o cc) none false (effS2 (fun a b => if intCond cc a b then 1 else 0) o) s
/-- SSEL (08 R225). -/
def execSsel (o : S2) (c : SReg) (s : State) : Host.Outcome State Fault Refusal :=
  run (.ssel o c) none false (effSsel o c) s
/-- SMOV (08 R225). -/
def execSmov (d a : SReg) (s : State) : Host.Outcome State Fault Refusal := run (.smov d a) none false (effSmov d a) s
/-- SMOVI (08 R225). -/
def execSmovi (d : SReg) (imm : Word) (s : State) : Host.Outcome State Fault Refusal :=
  run (.smovi d imm) none false (fun s => putS s d imm) s

end Sys2Proof.Machine
end

