-- ==== Sys2Proof/Machine/SlotRun.lean ====
section
/-! DEFINITION. The bundle of a HELD slot completes its issue (01 R25 R43). Its slots run through the meanings that exec
names; every other instruction of the language stands in no slot of a bundle. -/

namespace Sys2Proof.Machine

/-- The meaning of an instruction of a slot. -/
def execSlot (i : Instr) (s : State) : Host.Outcome State Fault Refusal :=
  match i with
  | .fadd o => execFadd o s
  | .fsub o => execFsub o s
  | .fmul o => execFmul o s
  | .ffma o => execFfma o s
  | .fmin o => execFmin o s
  | .fmax o => execFmax o s
  | .fcmp o => execFcmp o s
  | .frnd o => execFrnd o s
  | .hadd2 o => execHadd2 o s
  | .hmul2 o => execHmul2 o s
  | .hfma2 o => execHfma2 o s
  | .hmin2 o => execHmin2 o s
  | .hmax2 o => execHmax2 o s
  | .cvt o => execCvt o s
  | .pack o => execPack o s
  | .unpack o => execUnpack o s
  | .dot4I8 o => execDot4I8 o s
  | .dot8I4 o => execDot8I4 o s
  | .dot4F8 o => execDot4F8 o s
  | .dot8F4 o => execDot8F4 o s
  | .dot2H o => execDot2H o s
  | .pairedFadd o => execPairedFadd o s
  | .pairedFsub o => execPairedFsub o s
  | .pairedFmul o => execPairedFmul o s
  | .pairedFmin o => execPairedFmin o s
  | .pairedFmax o => execPairedFmax o s
  | .pairedHadd2 o => execPairedHadd2 o s
  | .pairedHmul2 o => execPairedHmul2 o s
  | .pairedMov o => execPairedMov o s
  | .pairedIadd o => execPairedIadd o s
  | .pairedIsub o => execPairedIsub o s
  | .pairedIand o => execPairedIand o s
  | .pairedIor o => execPairedIor o s
  | .pairedIxor o => execPairedIxor o s
  | .pairedIshl o => execPairedIshl o s
  | .pairedIshr o => execPairedIshr o s
  | .pairedIsar o => execPairedIsar o s
  | .pairedImin o => execPairedImin o s
  | .pairedImax o => execPairedImax o s
  | .sadd o wide => execSadd o wide s
  | .ssub o wide => execSsub o wide s
  | .smul o => execSmul o s
  | .smulhi o un => execSmulhi o un s
  | .sand o => execSand o s
  | .sor o => execSor o s
  | .sxor o => execSxor o s
  | .sshl o => execSshl o s
  | .sshr o => execSshr o s
  | .ssar o => execSsar o s
  | .smin o un => execSmin o un s
  | .smax o un => execSmax o un s
  | .scmp o cc => execScmp o cc s
  | .ssel o c => execSsel o c s
  | .smov d a => execSmov d a s
  | .smovi d imm => execSmovi d imm s
  | .iadd o sat => execIadd o sat s
  | .iaddc o c e => execIaddc o c e s
  | .isub o sat => execIsub o sat s
  | .imul o => execImul o s
  | .imulhi o un => execImulhi o un s
  | .imad o => execImad o s
  | .iand o => execIand o s
  | .ior o => execIor o s
  | .ixor o => execIxor o s
  | .ishl o => execIshl o s
  | .ishr o => execIshr o s
  | .isar o => execIsar o s
  | .imin o un => execImin o un s
  | .imax o un => execImax o un s
  | .icmp o => execIcmp o s
  | .isel o c => execIsel o c s
  | .bfx o sx => execBfx o sx s
  | .bfd o => execBfd o s
  | .popc o => execPopc o s
  | .clz o => execClz o s
  | .brev o => execBrev o s
  | .bytsel o => execBytsel o s
  | .shfl o mode => execShfl o mode s
  | .vote pr d a inv cond => execVote pr d a inv cond s
  | .redux pr dst a op => execRedux pr dst a op s
  | .bcast pr d a lane => execBcast pr d a lane s
  | .matchLanes o wide => execMatchLanes o wide s
  | .rdlane d a b => execRdlane d a b s
  | .wrlane d a b => execWrlane d a b s
  | .plop o => execPlop o s
  | .pset pr d mode => execPset pr d mode s
  | .pget d a => execPget d a s
  | .pcnt d a => execPcnt d a s
  | .mov pr d b => execMov pr d b s
  | .movi pr d imm => execMovi pr d imm s
  | .ixset a => execIxset a s
  | .ixadd a => execIxadd a s
  | .ixget d => execIxget d s
  | .scvt o => execScvt o s
  | .bra o => execBra o s
  | .brx o => execBrx o s
  | .call tofs d => execCall tofs d s
  | .ret a => execRet a s
  | .trap code => execTrap code s
  | .bpt code => execBpt code s
  | .rgrowImm g => execRgrowImm g s
  | .rgrowReg a => execRgrowReg a s
  | .rshrinkImm g => execRshrinkImm g s
  | .rshrinkReg a => execRshrinkReg a s
  | .setfmtImm fmt => execSetfmtImm fmt s
  | .setfmtReg a => execSetfmtReg a s
  | .getfmt d => execGetfmt d s
  | .rcp o => execRcp o s
  | .rsq o => execRsq o s
  | .sqrt o => execSqrt o s
  | .ex2 o => execEx2 o s
  | .lg2 o => execLg2 o s
  | .sin o => execSin o s
  | .cos o => execCos o s
  | .tanh o => execTanh o s
  | .ldG o => execLdG o s
  | .ldL o => execLdL o s
  | .ldP o => execLdP o s
  | .stG o => execStG o s
  | .stL o => execStL o s
  | .stP o => execStP o s
  | .sldC o => execSldC o s
  | .sldG o => execSldG o s
  | .ldw o => execLdw o s
  | .atomG o => execAtomG o s
  | .atomL o => execAtomL o s
  | .fatom o => execFatom o s
  | .lr o => execLr o s
  | .sc o => execSc o s
  | .fence ord scope => execFence ord scope s
  | .cclean scope => execCclean scope s
  | .cinv scope => execCinv scope s
  | .prefetch o => execPrefetch o s
  | .waitaddr o => execWaitaddr o s
  | .acopy a => execAcopy a s
  | .acopy2d a => execAcopy2d a s
  | .waitc cls cnt => execWaitc cls cnt s
  | .yieldCopy a cnt => execYieldCopy a cnt s
  | .barInit b a => execBarInit b a s
  | .barArrive b => execBarArrive b s
  | .barSync b => execBarSync b s
  | .barWait b => execBarWait b s
  | .barExpect b a => execBarExpect b a s
  | .qappend o => execQappend o s
  | .recld o => execRecld o s
  | .recinfo o => execRecinfo o s
  | .taskemit port a b => execTaskemit port a b s
  | .mma o => execMma o s
  | .mmaSp o => execMmaSp o s
  | .mload o => execMload o s
  | .mstore o => execMstore o s
  | .mzero pr d => execMzero pr d s
  | .mspload pr a nc1 => execMspload pr a nc1 s
  | .miter o => execMiter o s
  | .mpoly pr d c deg => execMpoly pr d c deg s
  | .mnorm pr d c => execMnorm pr d c s
  | .neval o => execNeval o s
  | .latchB pr => execLatchB pr s
  | .latchE pr => execLatchE pr s
  | .trvBox o => execTrvBox o s
  | .trvTri o => execTrvTri o s
  | .trvPush pr a => execTrvPush pr a s
  | .trvPop pr d pd => execTrvPop pr d pd s
  | .ddx o => execDdx o s
  | .ddy o => execDdy o s
  | .texG o => execTexG o s
  | .texL o => execTexL o s
  | .rdsr d sr => execRdsr d sr s
  | .wrsr sr a => execWrsr sr a s
  | .rplay a => execRplay a s
  | .clock cl d => execClock cl d s
  | .savew a => execSavew a s
  | .restw a => execRestw a s
  | .hint op rest => execHint op rest s
  | .nop => execNop s
  | .join => execJoin s
  | .exit => execExit s
  | .regroup => execRegroup s
  | .slotsw => execSlotsw s
  | .teamdone => execTeamdone s
  | .nodeexit => execNodeexit s
  | .trapret => execTrapret s
  | .haltw => execHaltw s
  | _ => .next s

/-- The size an RGROW in slot 2 of a HELD bundle asks for. -/
def growSize (s : State) (w : Wave) (p : Path) : Option Nat :=
  match slot2At s w.core (waveCtx s w) p.pc with
  | some (.rgrowImm g) => some (8 * g.toNat)
  | some (.rgrowReg a) => some (readS w a.toNat).toNat
  | _ => none
/-- A HELD RGROW whose request was lost in a handler or a save asks again (01 R24 R44). -/
def reask (s : State) (w : Wave) (k : PcSlot) : State :=
  match getSlot w k with
  | .held p => (match growSize s w p with
    | some n => if slotGrow w k = 0 ∧ w.allot.toNat < n ∧ n ≤ 256 then setWave s (askGrow w k n) else s
    | none => s)
  | _ => s

/-- A HELD slot of a wave attempts its bundle: it completes where its condition has cleared, its partition has not issued in
this clock, the stop grants what the bundle does not hold yet, and 01 R47 ranks no other HELD slot of the partition first
(01 R43 R46). -/
def completeHeld (w : Wave) (k : PcSlot) (s : State) : Host.Outcome State Fault Refusal :=
  match getSlot w k, selected s w.core w.part with
  | .held _, some b =>
    if b.who = .wave w.id ∧ b.slot = k then issueBid execSlot s b else .next (reask s w k)
  | _, _ => .next (reask s w k)

/-- HELD_BUNDLE_COMPLETE (01 R43): State.who names the wave and the slot. -/
def execHeldBundleComplete (s : State) : Host.Outcome State Fault Refusal :=
  match whoWave s with
  | some w => completeHeld w s.who.slot s
  | none => .next s

/-- RSHRINK_COMPLETE (01 R25): the outstanding writes at or above the size have completed, and the HELD RSHRINK returns the
top granules. -/
def execRshrinkComplete (s : State) : Host.Outcome State Fault Refusal :=
  match whoWave s with
  | some w => (match slotPath (getSlot w s.who.slot) with
    | some p => if (shrinkSize s w p).isSome then completeHeld w s.who.slot s else .next s
    | none => .next s)
  | none => .next s

end Sys2Proof.Machine
end

