-- ==== Sys2Proof/Machine/Dispatch.lean ====
section
/-! DEFINITION. One arm per constructor of Instr: each instruction's meaning. -/

namespace Sys2Proof.Machine

def exec (i : Instr) (s : State) : Host.Outcome State Fault Refusal :=
  match i with
  | .fadd o => Sys2Proof.Machine.execFadd o s
  | .fsub o => Sys2Proof.Machine.execFsub o s
  | .fmul o => Sys2Proof.Machine.execFmul o s
  | .ffma o => Sys2Proof.Machine.execFfma o s
  | .fmin o => Sys2Proof.Machine.execFmin o s
  | .fmax o => Sys2Proof.Machine.execFmax o s
  | .fcmp o => Sys2Proof.Machine.execFcmp o s
  | .frnd o => Sys2Proof.Machine.execFrnd o s
  | .hadd2 o => Sys2Proof.Machine.execHadd2 o s
  | .hmul2 o => Sys2Proof.Machine.execHmul2 o s
  | .hfma2 o => Sys2Proof.Machine.execHfma2 o s
  | .hmin2 o => Sys2Proof.Machine.execHmin2 o s
  | .hmax2 o => Sys2Proof.Machine.execHmax2 o s
  | .cvt o => Sys2Proof.Machine.execCvt o s
  | .pack o => Sys2Proof.Machine.execPack o s
  | .unpack o => Sys2Proof.Machine.execUnpack o s
  | .dot4I8 o => Sys2Proof.Machine.execDot4I8 o s
  | .dot8I4 o => Sys2Proof.Machine.execDot8I4 o s
  | .dot4F8 o => Sys2Proof.Machine.execDot4F8 o s
  | .dot8F4 o => Sys2Proof.Machine.execDot8F4 o s
  | .dot2H o => Sys2Proof.Machine.execDot2H o s
  | .pairedFadd o => Sys2Proof.Machine.execPairedFadd o s
  | .pairedFsub o => Sys2Proof.Machine.execPairedFsub o s
  | .pairedFmul o => Sys2Proof.Machine.execPairedFmul o s
  | .pairedFmin o => Sys2Proof.Machine.execPairedFmin o s
  | .pairedFmax o => Sys2Proof.Machine.execPairedFmax o s
  | .pairedHadd2 o => Sys2Proof.Machine.execPairedHadd2 o s
  | .pairedHmul2 o => Sys2Proof.Machine.execPairedHmul2 o s
  | .pairedMov o => Sys2Proof.Machine.execPairedMov o s
  | .pairedIadd o => Sys2Proof.Machine.execPairedIadd o s
  | .pairedIsub o => Sys2Proof.Machine.execPairedIsub o s
  | .pairedIand o => Sys2Proof.Machine.execPairedIand o s
  | .pairedIor o => Sys2Proof.Machine.execPairedIor o s
  | .pairedIxor o => Sys2Proof.Machine.execPairedIxor o s
  | .pairedIshl o => Sys2Proof.Machine.execPairedIshl o s
  | .pairedIshr o => Sys2Proof.Machine.execPairedIshr o s
  | .pairedIsar o => Sys2Proof.Machine.execPairedIsar o s
  | .pairedImin o => Sys2Proof.Machine.execPairedImin o s
  | .pairedImax o => Sys2Proof.Machine.execPairedImax o s
  | .sadd o wide => Sys2Proof.Machine.execSadd o wide s
  | .ssub o wide => Sys2Proof.Machine.execSsub o wide s
  | .smul o => Sys2Proof.Machine.execSmul o s
  | .smulhi o un => Sys2Proof.Machine.execSmulhi o un s
  | .sand o => Sys2Proof.Machine.execSand o s
  | .sor o => Sys2Proof.Machine.execSor o s
  | .sxor o => Sys2Proof.Machine.execSxor o s
  | .sshl o => Sys2Proof.Machine.execSshl o s
  | .sshr o => Sys2Proof.Machine.execSshr o s
  | .ssar o => Sys2Proof.Machine.execSsar o s
  | .smin o un => Sys2Proof.Machine.execSmin o un s
  | .smax o un => Sys2Proof.Machine.execSmax o un s
  | .scmp o cc => Sys2Proof.Machine.execScmp o cc s
  | .ssel o c => Sys2Proof.Machine.execSsel o c s
  | .smov d a => Sys2Proof.Machine.execSmov d a s
  | .smovi d imm => Sys2Proof.Machine.execSmovi d imm s
  | .iadd o sat => Sys2Proof.Machine.execIadd o sat s
  | .iaddc o c e => Sys2Proof.Machine.execIaddc o c e s
  | .isub o sat => Sys2Proof.Machine.execIsub o sat s
  | .imul o => Sys2Proof.Machine.execImul o s
  | .imulhi o un => Sys2Proof.Machine.execImulhi o un s
  | .imad o => Sys2Proof.Machine.execImad o s
  | .iand o => Sys2Proof.Machine.execIand o s
  | .ior o => Sys2Proof.Machine.execIor o s
  | .ixor o => Sys2Proof.Machine.execIxor o s
  | .ishl o => Sys2Proof.Machine.execIshl o s
  | .ishr o => Sys2Proof.Machine.execIshr o s
  | .isar o => Sys2Proof.Machine.execIsar o s
  | .imin o un => Sys2Proof.Machine.execImin o un s
  | .imax o un => Sys2Proof.Machine.execImax o un s
  | .icmp o => Sys2Proof.Machine.execIcmp o s
  | .isel o c => Sys2Proof.Machine.execIsel o c s
  | .bfx o sx => Sys2Proof.Machine.execBfx o sx s
  | .bfd o => Sys2Proof.Machine.execBfd o s
  | .popc o => Sys2Proof.Machine.execPopc o s
  | .clz o => Sys2Proof.Machine.execClz o s
  | .brev o => Sys2Proof.Machine.execBrev o s
  | .bytsel o => Sys2Proof.Machine.execBytsel o s
  | .shfl o mode => Sys2Proof.Machine.execShfl o mode s
  | .vote pr d a inv cond => Sys2Proof.Machine.execVote pr d a inv cond s
  | .redux pr dst a op => Sys2Proof.Machine.execRedux pr dst a op s
  | .bcast pr d a lane => Sys2Proof.Machine.execBcast pr d a lane s
  | .matchLanes o wide => Sys2Proof.Machine.execMatchLanes o wide s
  | .rdlane d a b => Sys2Proof.Machine.execRdlane d a b s
  | .wrlane d a b => Sys2Proof.Machine.execWrlane d a b s
  | .plop o => Sys2Proof.Machine.execPlop o s
  | .pset pr d mode => Sys2Proof.Machine.execPset pr d mode s
  | .pget d a => Sys2Proof.Machine.execPget d a s
  | .pcnt d a => Sys2Proof.Machine.execPcnt d a s
  | .mov pr d b => Sys2Proof.Machine.execMov pr d b s
  | .movi pr d imm => Sys2Proof.Machine.execMovi pr d imm s
  | .ixset a => Sys2Proof.Machine.execIxset a s
  | .ixadd a => Sys2Proof.Machine.execIxadd a s
  | .ixget d => Sys2Proof.Machine.execIxget d s
  | .scvt o => Sys2Proof.Machine.execScvt o s
  | .bra o => Sys2Proof.Machine.execBra o s
  | .brx o => Sys2Proof.Machine.execBrx o s
  | .call tofs d => Sys2Proof.Machine.execCall tofs d s
  | .ret a => Sys2Proof.Machine.execRet a s
  | .trap code => Sys2Proof.Machine.execTrap code s
  | .bpt code => Sys2Proof.Machine.execBpt code s
  | .rgrowImm g => Sys2Proof.Machine.execRgrowImm g s
  | .rgrowReg a => Sys2Proof.Machine.execRgrowReg a s
  | .rshrinkImm g => Sys2Proof.Machine.execRshrinkImm g s
  | .rshrinkReg a => Sys2Proof.Machine.execRshrinkReg a s
  | .setfmtImm fmt => Sys2Proof.Machine.execSetfmtImm fmt s
  | .setfmtReg a => Sys2Proof.Machine.execSetfmtReg a s
  | .getfmt d => Sys2Proof.Machine.execGetfmt d s
  | .rcp o => Sys2Proof.Machine.execRcp o s
  | .rsq o => Sys2Proof.Machine.execRsq o s
  | .sqrt o => Sys2Proof.Machine.execSqrt o s
  | .ex2 o => Sys2Proof.Machine.execEx2 o s
  | .lg2 o => Sys2Proof.Machine.execLg2 o s
  | .sin o => Sys2Proof.Machine.execSin o s
  | .cos o => Sys2Proof.Machine.execCos o s
  | .tanh o => Sys2Proof.Machine.execTanh o s
  | .ldG o => Sys2Proof.Machine.execLdG o s
  | .ldL o => Sys2Proof.Machine.execLdL o s
  | .ldP o => Sys2Proof.Machine.execLdP o s
  | .stG o => Sys2Proof.Machine.execStG o s
  | .stL o => Sys2Proof.Machine.execStL o s
  | .stP o => Sys2Proof.Machine.execStP o s
  | .sldC o => Sys2Proof.Machine.execSldC o s
  | .sldG o => Sys2Proof.Machine.execSldG o s
  | .ldw o => Sys2Proof.Machine.execLdw o s
  | .atomG o => Sys2Proof.Machine.execAtomG o s
  | .atomL o => Sys2Proof.Machine.execAtomL o s
  | .fatom o => Sys2Proof.Machine.execFatom o s
  | .lr o => Sys2Proof.Machine.execLr o s
  | .sc o => Sys2Proof.Machine.execSc o s
  | .fence ord scope => Sys2Proof.Machine.execFence ord scope s
  | .cclean scope => Sys2Proof.Machine.execCclean scope s
  | .cinv scope => Sys2Proof.Machine.execCinv scope s
  | .prefetch o => Sys2Proof.Machine.execPrefetch o s
  | .waitaddr o => Sys2Proof.Machine.execWaitaddr o s
  | .acopy a => Sys2Proof.Machine.execAcopy a s
  | .acopy2d a => Sys2Proof.Machine.execAcopy2d a s
  | .waitc cls cnt => Sys2Proof.Machine.execWaitc cls cnt s
  | .yieldCopy a cnt => Sys2Proof.Machine.execYieldCopy a cnt s
  | .barInit b a => Sys2Proof.Machine.execBarInit b a s
  | .barArrive b => Sys2Proof.Machine.execBarArrive b s
  | .barSync b => Sys2Proof.Machine.execBarSync b s
  | .barWait b => Sys2Proof.Machine.execBarWait b s
  | .barExpect b a => Sys2Proof.Machine.execBarExpect b a s
  | .qappend o => Sys2Proof.Machine.execQappend o s
  | .recld o => Sys2Proof.Machine.execRecld o s
  | .recinfo o => Sys2Proof.Machine.execRecinfo o s
  | .taskemit port a b => Sys2Proof.Machine.execTaskemit port a b s
  | .mma o => Sys2Proof.Machine.execMma o s
  | .mmaSp o => Sys2Proof.Machine.execMmaSp o s
  | .mload o => Sys2Proof.Machine.execMload o s
  | .mstore o => Sys2Proof.Machine.execMstore o s
  | .mzero pr d => Sys2Proof.Machine.execMzero pr d s
  | .mspload pr a nc1 => Sys2Proof.Machine.execMspload pr a nc1 s
  | .miter o => Sys2Proof.Machine.execMiter o s
  | .mpoly pr d c deg => Sys2Proof.Machine.execMpoly pr d c deg s
  | .mnorm pr d c => Sys2Proof.Machine.execMnorm pr d c s
  | .neval o => Sys2Proof.Machine.execNeval o s
  | .latchB pr => Sys2Proof.Machine.execLatchB pr s
  | .latchE pr => Sys2Proof.Machine.execLatchE pr s
  | .trvBox o => Sys2Proof.Machine.execTrvBox o s
  | .trvTri o => Sys2Proof.Machine.execTrvTri o s
  | .trvPush pr a => Sys2Proof.Machine.execTrvPush pr a s
  | .trvPop pr d pd => Sys2Proof.Machine.execTrvPop pr d pd s
  | .ddx o => Sys2Proof.Machine.execDdx o s
  | .ddy o => Sys2Proof.Machine.execDdy o s
  | .texG o => Sys2Proof.Machine.execTexG o s
  | .texL o => Sys2Proof.Machine.execTexL o s
  | .rdsr d sr => Sys2Proof.Machine.execRdsr d sr s
  | .wrsr sr a => Sys2Proof.Machine.execWrsr sr a s
  | .rplay a => Sys2Proof.Machine.execRplay a s
  | .clock cl d => Sys2Proof.Machine.execClock cl d s
  | .savew a => Sys2Proof.Machine.execSavew a s
  | .restw a => Sys2Proof.Machine.execRestw a s
  | .hint op rest => Sys2Proof.Machine.execHint op rest s
  | .qli d imm => Sys2Proof.Machine.execQli d imm s
  | .qlih d imm => Sys2Proof.Machine.execQlih d imm s
  | .qadd d a b => Sys2Proof.Machine.execQadd d a b s
  | .qaddi d a imm => Sys2Proof.Machine.execQaddi d a imm s
  | .qsub d a b => Sys2Proof.Machine.execQsub d a b s
  | .qand d a b => Sys2Proof.Machine.execQand d a b s
  | .qor d a b => Sys2Proof.Machine.execQor d a b s
  | .qshl d a n => Sys2Proof.Machine.execQshl d a n s
  | .qshr d a n => Sys2Proof.Machine.execQshr d a n s
  | .qld d a imm => Sys2Proof.Machine.execQld d a imm s
  | .qst a b imm => Sys2Proof.Machine.execQst a b imm s
  | .br cc a b imm => Sys2Proof.Machine.execBr cc a b imm s
  | .loop d imm => Sys2Proof.Machine.execLoop d imm s
  | .keywayCall imm => Sys2Proof.Machine.execKeywayCall imm s
  | .launch d a => Sys2Proof.Machine.execLaunch d a s
  | .signal op sys int a b => Sys2Proof.Machine.execSignal op sys int a b s
  | .wait cc sys d a b us => Sys2Proof.Machine.execWait cc sys d a b us s
  | .waitWake q => Sys2Proof.Machine.execWaitWake q s
  | .copy a => Sys2Proof.Machine.execCopy a s
  | .endq int => Sys2Proof.Machine.execEndq int s
  | .queueFetch q => Sys2Proof.Machine.execQueueFetch q s
  | .qwr q v => Sys2Proof.Machine.execQwr q v s
  | .halt q => Sys2Proof.Machine.execHalt q s
  | .en q => Sys2Proof.Machine.execEn q s
  | .irqstat v => Sys2Proof.Machine.execIrqstat v s
  | .mbstat v => Sys2Proof.Machine.execMbstat v s
  | .registerWrite offset v => Sys2Proof.Machine.execRegisterWrite offset v s
  | .ctxbind p => Sys2Proof.Machine.execCtxbind p s
  | .ctxfree p => Sys2Proof.Machine.execCtxfree p s
  | .ctxwrite p => Sys2Proof.Machine.execCtxwrite p s
  | .ctxread p => Sys2Proof.Machine.execCtxread p s
  | .map p => Sys2Proof.Machine.execMap p s
  | .unmap p => Sys2Proof.Machine.execUnmap p s
  | .protect p => Sys2Proof.Machine.execProtect p s
  | .qbind p => Sys2Proof.Machine.execQbind p s
  | .preempt p => Sys2Proof.Machine.execPreempt p s
  | .restore p => Sys2Proof.Machine.execRestore p s
  | .resetCtx p => Sys2Proof.Machine.execResetCtx p s
  | .weightload p => Sys2Proof.Machine.execWeightload p s
  | .telemetry p => Sys2Proof.Machine.execTelemetry p s
  | .fwstage p => Sys2Proof.Machine.execFwstage p s
  | .fwcommit p => Sys2Proof.Machine.execFwcommit p s
  | .fwrollback p => Sys2Proof.Machine.execFwrollback p s
  | .powercfg p => Sys2Proof.Machine.execPowercfg p s
  | .unknownType type p => Sys2Proof.Machine.execUnknownType type p s
  | .liveSwitchQueue q => Sys2Proof.Machine.execLiveSwitchQueue q s
  | .attreq v => Sys2Proof.Machine.execAttreq v s
  | .testAndReturn u => Sys2Proof.Machine.execTestAndReturn u s
  | .retire u => Sys2Proof.Machine.execRetire u s
  | .retrain u => Sys2Proof.Machine.execRetrain u s
  | .recalibrate u => Sys2Proof.Machine.execRecalibrate u s
  | .testAndRepairLanes u => Sys2Proof.Machine.execTestAndRepairLanes u s
  | .serviceComplete passed => Sys2Proof.Machine.execServiceComplete passed s
  | .channelMigration lines => Sys2Proof.Machine.execChannelMigration lines s
  | .l2SliceMove stk slice => Sys2Proof.Machine.execL2SliceMove stk slice s
  | .laneRepair u => Sys2Proof.Machine.execLaneRepair u s
  | .repairRetry u => Sys2Proof.Machine.execRepairRetry u s
  | .softError place correctable => Sys2Proof.Machine.execSoftError place correctable s
  | .parityError wave recurs => Sys2Proof.Machine.execParityError wave recurs s
  | .sensorCompare stk readings => Sys2Proof.Machine.execSensorCompare stk readings s
  | .coldStart r => Sys2Proof.Machine.execColdStart r s
  | .warmStart retained r => Sys2Proof.Machine.execWarmStart retained r s
  | .bar2Access b => Sys2Proof.Machine.execBar2Access b s
  | .copyCompletion q => Sys2Proof.Machine.execCopyCompletion q s
  | .laneSwitchEnd u => Sys2Proof.Machine.execLaneSwitchEnd u s
  | .repairAbandoned u => Sys2Proof.Machine.execRepairAbandoned u s
  | .nop => Sys2Proof.Machine.execNop s
  | .join => Sys2Proof.Machine.execJoin s
  | .exit => Sys2Proof.Machine.execExit s
  | .regroup => Sys2Proof.Machine.execRegroup s
  | .slotsw => Sys2Proof.Machine.execSlotsw s
  | .teamdone => Sys2Proof.Machine.execTeamdone s
  | .nodeexit => Sys2Proof.Machine.execNodeexit s
  | .trapret => Sys2Proof.Machine.execTrapret s
  | .haltw => Sys2Proof.Machine.execHaltw s
  | .keywayRet => Sys2Proof.Machine.execKeywayRet s
  | .startTimeout => Sys2Proof.Machine.execStartTimeout s
  | .powerRemoved => Sys2Proof.Machine.execPowerRemoved s
  | .heldBundleComplete => Sys2Proof.Machine.execHeldBundleComplete s
  | .rgrowGrant => Sys2Proof.Machine.execRgrowGrant s
  | .rshrinkComplete => Sys2Proof.Machine.execRshrinkComplete s
  | .parkedWake => Sys2Proof.Machine.execParkedWake s
  | .waitaddrWake => Sys2Proof.Machine.execWaitaddrWake s
  | .regroupComplete => Sys2Proof.Machine.execRegroupComplete s
  | .flagComplete => Sys2Proof.Machine.execFlagComplete s
  | .storeDrain => Sys2Proof.Machine.execStoreDrain s
  | .boundaryFault => Sys2Proof.Machine.execBoundaryFault s
  | .fetchFault => Sys2Proof.Machine.execFetchFault s
  | .slotSwitch => Sys2Proof.Machine.execSlotSwitch s
  | .yieldHintExpiry => Sys2Proof.Machine.execYieldHintExpiry s
  | .stallExpiry => Sys2Proof.Machine.execStallExpiry s
  | .starving => Sys2Proof.Machine.execStarving s
  | .starvationCapture => Sys2Proof.Machine.execStarvationCapture s
  | .engineStarving => Sys2Proof.Machine.execEngineStarving s
  | .spinning => Sys2Proof.Machine.execSpinning s
  | .residencyRotation => Sys2Proof.Machine.execResidencyRotation s
  | .trapEntry => Sys2Proof.Machine.execTrapEntry s
  | .frameWaitEnd => Sys2Proof.Machine.execFrameWaitEnd s
  | .engineGrant => Sys2Proof.Machine.execEngineGrant s
  | .enginePassTokens => Sys2Proof.Machine.execEnginePassTokens s
  | .matrixRetire => Sys2Proof.Machine.execMatrixRetire s
  | .miterIteration => Sys2Proof.Machine.execMiterIteration s
  | .gatherClose => Sys2Proof.Machine.execGatherClose s
  | .layerPass => Sys2Proof.Machine.execLayerPass s
  | .nevalRetire => Sys2Proof.Machine.execNevalRetire s
  | .copyChunk => Sys2Proof.Machine.execCopyChunk s
  | .copyRetire => Sys2Proof.Machine.execCopyRetire s
  | .testRetire => Sys2Proof.Machine.execTestRetire s
  | .refreshWindowEnd => Sys2Proof.Machine.execRefreshWindowEnd s
  | .placeTeam => Sys2Proof.Machine.execPlaceTeam s
  | .gatherTimeout => Sys2Proof.Machine.execGatherTimeout s
  | .graphDrain => Sys2Proof.Machine.execGraphDrain s
  | .stealRequest => Sys2Proof.Machine.execStealRequest s
  | .stealServe => Sys2Proof.Machine.execStealServe s
  | .recordArrival => Sys2Proof.Machine.execRecordArrival s
  | .meshPlace => Sys2Proof.Machine.execMeshPlace s
  | .teamEnd => Sys2Proof.Machine.execTeamEnd s
  | .runQuiescence => Sys2Proof.Machine.execRunQuiescence s
  | .binPrimitive => Sys2Proof.Machine.execBinPrimitive s
  | .finalFlush => Sys2Proof.Machine.execFinalFlush s
  | .rasterPrimitiveTile => Sys2Proof.Machine.execRasterPrimitiveTile s
  | .rasterStop => Sys2Proof.Machine.execRasterStop s
  | .matrixJob => Sys2Proof.Machine.execMatrixJob s
  | .quotaInterval => Sys2Proof.Machine.execQuotaInterval s
  | .issueQuotaReached => Sys2Proof.Machine.execIssueQuotaReached s
  | .clusterDrainTimeout => Sys2Proof.Machine.execClusterDrainTimeout s
  | .canaryWarning => Sys2Proof.Machine.execCanaryWarning s
  | .canaryDecay => Sys2Proof.Machine.execCanaryDecay s
  | .patternSwitch => Sys2Proof.Machine.execPatternSwitch s
  | .targetChange => Sys2Proof.Machine.execTargetChange s
  | .chargeLatch => Sys2Proof.Machine.execChargeLatch s
  | .chargeWindowEnd => Sys2Proof.Machine.execChargeWindowEnd s
  | .saveComplete => Sys2Proof.Machine.execSaveComplete s
  | .resetComplete => Sys2Proof.Machine.execResetComplete s

end Sys2Proof.Machine
end

