-- ==== Sys2Proof/Machine/Step.lean ====
section
/-! DEFINITION. One step of the machine: the next move of the agenda, or, with none, one master clock (notes/assumptions/5.md). -/

namespace Sys2Proof.Machine

/-- An instruction that stands in a program or a packet: it runs where a bundle, a ring or the request buffer holds it, and
never as an event of its own. -/
def isProgram (i : Instr) : Bool := (encode i).isSome
/-- What a move does. -/
def runMove (m : Move) (s : State) : Host.Outcome State Fault Refusal :=
  match m with
  | .issue core part => issuePartition exec core part s
  | .complete wave slot => (match findWave s wave with
    | some w => completeHeld w slot s
    | none => .next s)
  | .command => commandStep exec s
  | .firmware => firmwareStep exec s
  | .act who i => if isProgram i then .next s else exec i { s with who := who }
  | .evict core host line => finish (evictLine core host line s)
  | .performLane wave seq => finish (if goesOn s wave then performLane s wave seq else s)
  | .hostAtomics on => .next { s with hostAtomics := on }
  | .tlbFill core ctx va => .next (tlbFill s core ctx va)
  | .tlbDrop n => .next (staleDone { s with tlbs := s.tlbs.eraseIdx n })
  | .codeFill core host line => .next (codeFill s core host line)
  | .codeDrop n => .next { s with codes := s.codes.eraseIdx n }
  | .constDrop n => .next { s with consts := s.consts.eraseIdx n }
  | .gate u off => .next (setGate s u off)
  | .laneError u lane => .next (crcError s u lane)
  | .perform wave seq => finish (if goesOn s wave then performSeq s wave seq else s)
  | .deliver wave seq ix => finish (if goesOn s wave then deliverOne s wave seq ix else s)
  | .capture cl n => .next (capturePool cl n s)
  | .traverse team lane => finish (traverseStep s team lane)
/-- One step. -/
def step (s : State) : Host.Outcome State Fault Refusal :=
  match s.agenda with
  | [] => finish (tick s)
  | m :: r => runMove m { s with agenda := r }

/-! ### An instruction placed where step fetches its next one (notes/assumptions/49.md) -/

/-- The other half of a paired slot: a half that reads and writes one register in a bank the first does not use. -/
def partnerReg (i : Instr) : VReg :=
  { ix := false, base := BitVec.ofNat 8 (((List.range 4).find? (fun r => !(halfBanks 0 i).contains r)).getD 0) }
def partnerHalf (i : Instr) : Half := { d := partnerReg i, b := .vec (partnerReg i), pr := .always, nb := false }
/-- A control word with the kinds of the three slots. -/
def controlWord (k0 k1 k2 : Nat) : DWord := BitVec.ofNat 64 (k0 * 2 ^ 39 + k1 * 2 ^ 41 + k2 * 2 ^ 43)
def bundleOf (c w0 w1 w2 : DWord) : BitVec 256 := w2 ++ w1 ++ w0 ++ c
/-- A bundle whose one slot holds a full word, or a paired half beside its partner. -/
def wordBundle (nbits : Nat) (w : DWord) : BitVec 256 :=
  if nbits ≤ 32 then
    let h : BitVec 32 := w.extractLsb' 0 32
    match parseHalf 0 h, parseHalf 1 h with
    | some i, _ => bundleOf (controlWord 1 2 2) (encHalf 0x05 (partnerHalf i) ++ h) 0 0
    | none, some i => bundleOf (controlWord 2 1 2) 0 (encHalf 0x11 (partnerHalf i) ++ h) 0
    | none, none => bundleOf (controlWord 1 2 2) w 0 0
  else match okOf (decodeSlot 0 w), okOf (decodeSlot 1 w) with
    | some _, _ => bundleOf (controlWord 0 2 2) w 0 0
    | none, some _ => bundleOf (controlWord 2 0 2) 0 w 0
    | none, none => bundleOf (controlWord 2 2 0) 0 0 w

/-- Where the bundle or the ring word stands, and the two tables that map the first GiB onto itself. -/
def codeAddr : Nat := 4096
def rootAddr : Nat := 65536
def tableAddr : Nat := 131072
/-- Context 0 LIVE, with its tables and the bytes at the code address. -/
def withCode (s : State) (x : Nat) (n : Nat) : State :=
  let m := cellsWriteLE s.mem codeAddr x n
  let m := cellsWriteLE m rootAddr (tableAddr + 1) 8
  updCtx { s with mem := cellsWriteLE m tableAddr 15 8 } 0 (fun c => { c with state := .live, ptroot := BitVec.ofNat 64 rootAddr })
/-- A run with one TEAM node whose one wave stands at the code address, on partition 0 of core 0. -/
def withWave (s : State) : State :=
  let n := s.nextId
  let node : Node := { blankNode with kind := 1, regs := 256, entry := BitVec.ofNat 52 codeAddr }
  let run : Run := { id := n, ctx := 0, nodes := [node], edges := [], sig := 0, lazy := false, faulted := false, cores := [0],
                     rasters := [], steals := [], reserves := [], grids := [] }
  let team : Team := { blankTeam with id := n + 1, run := n, status := .running, nwaves := 1, nl := 32 }
  let wave : Wave := { blankWave with
    id := n + 2, team := n + 1, status := .running, allot := 256, everLive := 0xFFFFFFFF,
    slotA := .ready { pc := BitVec.ofNat 52 codeAddr, mask := 0xFFFFFFFF, fmt := 0, jpc := 0, jv := false },
    tlane := cellsWriteAll [] (allLanes.map (fun l => (l, BitVec.ofNat 10 l))) }
  updCluster { s with runs := run :: s.runs, teams := team :: s.teams, waves := wave :: s.waves, nextId := n + 3 } 0
    (fun c => { c with pool := 1024 })
/-- Queue 0 of context 0 RUNNING at the first word of its ring. -/
def withQueue (s : State) : State :=
  updQueue s 0 (fun x => { x with
    ctx := 0, state := .running, bound := true, en := true, qbase := BitVec.ofNat 64 codeAddr, pc := 0, qfree := 0, qwr := 8 })
/-- s with an instruction stored where step fetches its next one, so that the next step runs it: a slot word or a half in
the bundle of a placed wave; 72 bits are a Keyway word. -/
def State.withFetchWord (s : State) (nbits w : Nat) : State :=
  if nbits ≤ 64 then
    let s := withWave (withCode s (wordBundle nbits (BitVec.ofNat 64 w)).toNat 32)
    { s with agenda := .issue 0 0 :: s.agenda }
  else
    let s := withQueue (withCode s w 8)
    { s with agenda := .command :: s.agenda }

end Sys2Proof.Machine
end

