-- ==== Sys2Proof/Safety.lean ====
section
/-! DEFINITION. What counts as a safe run, and the forms that the stores of a state keep. -/

namespace Sys2Proof.Machine

/-- Device and host memory are in their canonical form: addresses strictly rising, and no entry equal to what an unlisted
address reads as. -/
def Memory.wf (s : State) : Bool := cellsWf s.mem && cellsWf s.hostMem

/-- The device's other stores are in the same form. -/
def storesWf (s : State) : Bool :=
  cellsWf s.lstore && cellsWf s.wstore && cellsWf s.tiles && cellsWf s.side && cellsWf s.cc

/-- A step goes on: it neither faults nor is refused. -/
def stepGoesOn (s : State) : Bool :=
  match step s with
  | .next _ => true
  | .fault _ => false
  | .refused _ => false

/-- A run of so many steps goes on to its end. -/
def runsSafely (s : State) : Nat → Bool
  | 0 => true
  | n + 1 => match step s with
    | .next t => runsSafely t n
    | .fault _ => false
    | .refused _ => false

end Sys2Proof.Machine
end

