-- ==== Sys2Proof/Claims/Basis.lean ====
section
/-! DEFINITION. The words the statements are written in: a bundle at the issue stage, operands an instruction may run
with, and a state that differs from another in the registers of one wave only. -/

namespace Sys2Proof.Claims
open Sys2Proof.Machine

/-- The bundle at the issue stage is a wave's: w is the wave as every slot of the bundle reads it, v the wave as it now
stands (07 R205). -/
abbrev Issuing (s : State) (w v : Wave) : Prop := s.iss.src = some w ∧ findWave s s.iss.wave = some v

/-- The operands pass the checks of 07 R213: the fields are well formed, and every vector operand is aligned and within
the allotment (01 R23, 04 R131, 08 R222). -/
abbrev OperandsOk (i : Instr) (w : Wave) : Prop :=
  wellFormed i = true ∧ ∀ u ∈ uses w.ix.toNat i, u.file = .v → u.num % u.align = 0 ∧ u.num + u.count ≤ min w.allot.toNat 256

/-- One register result of an instruction: a vector register in the lanes of a mask, a scalar register, or a predicate in
the lanes of a mask. -/
inductive Out
  | vec (n : Nat) (m : Mask) (f : Nat → Word)
  | scl (n : Nat) (x : Word)
  | prd (n : Nat) (m : Mask) (f : Nat → Bool)

/-- Vector register n of lane l after the results, later ones over earlier ones. -/
def vecAfter (old : Nat → Nat → Word) : List Out → Nat → Nat → Word
  | [], n, l => old n l
  | .vec k m f :: r, n, l => vecAfter (fun n l => if n = k ∧ inMask m l = true then f l else old n l) r n l
  | .scl _ _ :: r, n, l => vecAfter old r n l
  | .prd _ _ _ :: r, n, l => vecAfter old r n l
/-- Scalar register n after the results. -/
def sclAfter (old : Nat → Word) : List Out → Nat → Word
  | [], n => old n
  | .scl k x :: r, n => sclAfter (fun n => if n = k then x else old n) r n
  | .vec _ _ _ :: r, n => sclAfter old r n
  | .prd _ _ _ :: r, n => sclAfter old r n
/-- Predicate n of lane l after the results. -/
def prdAfter (old : Nat → Nat → Bool) : List Out → Nat → Nat → Bool
  | [], n, l => old n l
  | .prd k m f :: r, n, l => prdAfter (fun n l => if n = k ∧ inMask m l = true then f l else old n l) r n l
  | .vec _ _ _ :: r, n, l => prdAfter old r n l
  | .scl _ _ :: r, n, l => prdAfter old r n l

/-- The wave u is the wave v but for its register files, which hold the results, and the sticky flags ORed into FPX:
every other vector, scalar and predicate register, and every other field, is that of v. -/
structure RegsWritten (v u : Wave) (outs : List Out) (flags : FpFlags) : Prop where
  same : u = { v with vr := u.vr, sr := u.sr, pr := u.pr, fpx := v.fpx ||| flags }
  vec : ∀ n l, l < 32 → readV u n l = vecAfter (readV v) outs n l
  scl : ∀ n, readS u n = sclAfter (readS v) outs n
  prd : ∀ n l, l < 32 → inMask (readP u n) l = prdAfter (fun n l => inMask (readP v n) l) outs n l

/-- The state t is s with the registers of one wave written: all of memory, every cache, every other wave, team, queue and
device register is that of s. -/
def RegsOnly (s t : State) (v : Wave) (outs : List Out) (flags : FpFlags) : Prop :=
  ∃ u, RegsWritten v u outs flags ∧ t = { setWave s u with iss := { s.iss with raised := s.iss.raised ||| flags } }

/-- The flags that the lanes of a set raise: helper lanes raise none (04 R137). -/
def laneFlags (w : Wave) (m : Mask) (f : Nat → FpFlags) : FpFlags := orFlags f (lanesOf (m &&& ~~~w.helper))

end Sys2Proof.Claims
end

