-- ==== Sys2Proof/Claims/Paths.lean ====
section
/-! DEFINITION. What instructions that act on paths leave: a state in which one wave has changed, and nothing else. -/

namespace Sys2Proof.Claims
open Sys2Proof.Machine

/-- The wave of the bundle stands on the issuing path, which the issue has moved to the next bundle; no other slot of the
bundle has touched its paths. -/
abbrev OnPath (s : State) (w v : Wave) : Prop :=
  Issuing s w v ∧ getSlot v s.iss.pcSlot = .ready { issPath s with pc := s.iss.pc + 32 } ∧
    getSlot v (otherSlot s.iss.pcSlot) = getSlot w (otherSlot s.iss.pcSlot) ∧ v.stack = w.stack ∧ (issPath s).pc = s.iss.pc

/-- An instruction goes on with the issuing wave changed and the rest of the machine as it was. -/
def ChangesWave (i : Instr) (s : State) (u : Wave) : Prop := exec i s = .next (setWave s u)

/-- The issuing path moved to an address, on a wave. -/
def movedTo (s : State) (u : Wave) (pc : Pc) : Wave := setSlot u s.iss.pcSlot (.ready { issPath s with pc := pc })

/-- The address o bundles from the PC (10 R282). -/
def bundlesOn (pc : Pc) (o : BitVec 24) : Pc := BitVec.ofInt 52 (pc.toInt + 32 * o.toInt)

/-- The wave with its backward-branch mark set where a target lies below the PC (01 R58). -/
def marked (s : State) (v : Wave) (target : Pc) : Wave :=
  { v with backMark := v.backMark || decide (target.toNat < s.iss.pc.toNat) }

/-- The three entries of a divergence (01 R29): the join entry, the taken path and the path that falls through. -/
def joinEntry (p : Path) (j : Pc) : StackEntry :=
  { isJoin := true, pc := j, mask := p.mask, arrv := 0, fmt := p.fmt, jpc := p.jpc, jv := p.jv }
def takenPath (p : Path) (target j : Pc) (t : Mask) : Path := { pc := target, mask := t, fmt := p.fmt, jpc := j, jv := true }
def restPath (p : Path) (j : Pc) (t : Mask) : Path :=
  { pc := p.pc + 32, mask := p.mask &&& ~~~t, fmt := p.fmt, jpc := j, jv := true }
/-- A path as the spill stack holds it. -/
def spilledPath (p : Path) : StackEntry :=
  { isJoin := false, pc := p.pc, mask := p.mask, arrv := 0, fmt := p.fmt, jpc := p.jpc, jv := p.jv }

/-- What a branch to target with join address j leaves, t the lanes that take it (01 R29): not taken; taken by all; and the
three divergences, by what the other slot holds. -/
def BranchLeaves (i : Instr) (s : State) (v : Wave) (t : Mask) (target j : Pc) : Prop :=
  let p := issPath s
  let k := s.iss.pcSlot
  let y := getSlot v (otherSlot k)
  let u := setSlot (marked s v target) k (.ready (restPath p j t))
  (t = 0 → ChangesWave i s (movedTo s v (s.iss.pc + 32))) ∧
  (t ≠ 0 → p.mask &&& ~~~t = 0 → ChangesWave i s (movedTo s (marked s v target) target)) ∧
  (t ≠ 0 → p.mask &&& ~~~t ≠ 0 → y = .empty → v.stack.length + 1 ≤ 1024 →
    ChangesWave i s (setSlot { u with stack := joinEntry p j :: v.stack } (otherSlot k) (.ready (takenPath p target j t)))) ∧
  (t ≠ 0 → p.mask &&& ~~~t ≠ 0 → ∀ q, y = .ready q → v.stack.length + 2 ≤ 1024 →
    ChangesWave i s (setSlot { u with stack := spilledPath q :: joinEntry p j :: v.stack } (otherSlot k)
      (.ready (takenPath p target j t)))) ∧
  (t ≠ 0 → p.mask &&& ~~~t ≠ 0 → ∀ q, (y = .held q ∨ ∃ x, y = .parked q x ∧ x ≠ .regroup) → v.stack.length + 2 ≤ 1024 →
    ChangesWave i s { u with stack := spilledPath (takenPath p target j t) :: joinEntry p j :: v.stack })

/-- A branch that diverges where it may not traps, before any state changes: while the other slot is parked at REGROUP
(01 R38), and where the stack has no room (01 R29). -/
def BranchTraps (i : Instr) (s : State) (v : Wave) (t : Mask) : Prop :=
  let y := getSlot v (otherSlot s.iss.pcSlot)
  t ≠ 0 → (issPath s).mask &&& ~~~t ≠ 0 →
    (∀ q, y = .parked q .regroup → exec i s = finish (takeTrap s (plainFault .illConvergence))) ∧
    (¬ (∃ q, y = .parked q .regroup) → 1024 < v.stack.length + 1 + (if y = .empty then 0 else 1) →
      exec i s = finish (takeTrap s (plainFault .stackOverflow)))

/-- A 64-bit register pair holds a bundle address (10 R283). -/
def goodTarget (x : DWord) : Prop := x.toNat < 2 ^ 52 ∧ x.toNat % 32 = 0

/-- Every lane of the path holds a return address in a register pair. -/
abbrev lanesAgree (s : State) (w : Wave) (a : VReg) (x : DWord) : Prop :=
  (issPath s).mask ≠ 0 ∧ ∀ l, l < 32 → inMask (issPath s).mask l = true → readVP w (vnum w.ix.toNat a) l = x

/-- The join entry that a stack holds at an address, most recent first, and the stack without it. -/
inductive JoinAt (pc : Pc) : List StackEntry → StackEntry → List StackEntry → List StackEntry → Prop
  | here (e : StackEntry) (r : List StackEntry) : e.isJoin = true → e.pc = pc → JoinAt pc (e :: r) e [] r
  | there (e : StackEntry) {r : List StackEntry} {x : StackEntry} {a b : List StackEntry} :
      ¬ (e.isJoin = true ∧ e.pc = pc) → JoinAt pc r x a b → JoinAt pc (e :: r) x (e :: a) b

/-- The granules of a partition cover a growth, and no older wave of the partition waits for one (01 R24). -/
abbrev GrowthFits (s : State) (v : Wave) (n : Nat) : Prop :=
  n / 8 ≤ v.allot.toNat / 8 + granulesFree s v.core v.part ∧
    ∀ x ∈ s.waves, x.core = v.core → x.part = v.part → x.growA = 0 ∧ x.growB = 0

end Sys2Proof.Claims
end

