-- ==== Sys2Proof/Claims/Operations.lean ====
section
/-! DEFINITION. Operations that issue and complete later (07 R203): how an operation stands in its wave, and what its
completion leaves. -/

namespace Sys2Proof.Claims
open Sys2Proof.Machine

/-- The instructions whose result is flagged and that wait in the wave to be performed (07 R214): the special functions,
the loads and atomics, RECLD and the samples. -/
def waitsToPerform : Instr → Bool
  | .rcp _ | .rsq _ | .sqrt _ | .ex2 _ | .lg2 _ | .sin _ | .cos _ | .tanh _ => true
  | .ldG _ | .ldL _ | .ldP _ | .sldC _ | .sldG _ | .ldw _ => true
  | .atomG _ | .atomL _ | .fatom _ | .lr _ | .sc _ => true
  | .recld _ | .texG _ | .texL _ => true
  | _ => false

/-- The accesses of a memory instruction are aligned, inside their space and powered (09 R254, 03 R99 R101 R104 R106): no
lane has a precise fault. -/
abbrev AccessOk (i : Instr) (s : State) (w : Wave) : Prop :=
  ∀ m ∈ (memInfo i).toList, ∀ l ∈ opLanes (issueOp s i) m,
    (opAddr (issueOp s i) m l).toNat % sizeBytes m.size = 0 ∧
    (∀ b ∈ (spaceBound s w m.space).toList, (opAddr (issueOp s i) m l).toNat + sizeBytes m.size ≤ b.2) ∧
    (if m.space = .priv then privGated s w (issueOp s i) l (opAddr (issueOp s i) m l).toNat (sizeBytes m.size)
      else accessGated s w m.space (opAddr (issueOp s i) m l) (sizeBytes m.size)) = false

/-- What an instruction of waitsToPerform asks beside its operands: an LDW no bank in its refresh window (09 R261), a RECLD
an offset inside the record of every lane (10 R295), a sample a descriptor without reserved values (06 R197). -/
abbrev IssueOk (i : Instr) (s : State) (w : Wave) : Prop :=
  AccessOk i s w ∧ (match i with
    | .ldw o => ldwHeld o s = false
    | .recld o => ∀ l ∈ lanesOf (laneSet s o.pr), recldBad (teamOf s w) w (issueOp s i) o l = false
    | .texG _ => (opSampler (issueOp s i)).isSome = true
    | .texL _ => (opSampler (issueOp s i)).isSome = true
    | _ => True)

/-- The flags that the bundle's set fields name for the slot under way (07 R203). -/
def setsOf (s : State) : List (BitVec 4) := (s.iss.sets.filter (fun e => decide (e.1 = s.iss.pipe))).map (fun e => e.2)

/-- An operation as 15 R370 captures it at issue: the instruction as encoded and with ix added, the PC and slot, the set L, the
path's mask and format, the flags it sets, its source values in the order A, B, C, and each lane's place in its team. -/
def captured (s : State) (w v : Wave) (i : Instr) : PendOp :=
  { seq := v.opSeq, raw := i, ix := w.ix, instr := resolve w.ix.toNat i, pc := s.iss.pc, slotn := s.iss.pipe,
    lanes := laneSet s (predOfInstr i), mask := (issPath s).mask, fmt := (issPath s).fmt, flags := setsOf s, svals := captureS w i,
    vals := allLanes.map (fun l => if inMask (laneSet s (predOfInstr i)) l then captureV w i l else []), tlane := w.tlane,
    helper := w.helper, begun := false, todo := [], performed := false, results := [], fault := none, noFpx := false, left := 0,
    replayed := false }

/-- The flags of a list are in a state, and every other flag of the wave is as it was. -/
def FlagsSet (v u : Wave) (fs : List (BitVec 4)) (x : BitVec 2) : Prop :=
  ∀ f : BitVec 4, cellsRead u.flags f.toNat = if f ∈ fs then x else cellsRead v.flags f.toNat

/-- An earlier access of the wave is neither unperformed nor queued (03 R112). -/
abbrev Drained (v : Wave) : Prop :=
  v.sq = [] ∧ ∀ p ∈ v.pend, memOrdered p.instr = true → p.performed = true ∨ p.fault ≠ none

/-- FLAG_COMPLETE finds an operation of a running wave that no pre-emption has stopped, none of it performed and no fault met. -/
abbrev Completing (s : State) (w : Wave) (p : PendOp) : Prop :=
  findWave s s.who.wave = some w ∧ findPend s.who.seq w.pend = some p ∧ w.status = .running ∧ w.frame = none ∧
    waveStopped s w = false ∧ p.performed = false ∧ p.begun = false ∧ p.results = [] ∧ p.fault = none ∧ s.badAddr = none

/-- What the completion of an operation leaves in its wave: the vector, scalar and predicate results, the flags of FPX ORed in,
the operation gone, and its completion flags CLEAR; the rest of the wave as it was. -/
structure CompletedWave (w u : Wave) (p : PendOp) (outs : List Out) (fpx : FpFlags) : Prop where
  same : u = { w with vr := u.vr, sr := u.sr, pr := u.pr, fpx := w.fpx ||| fpx, flags := u.flags,
                      pend := w.pend.filter (fun q => decide (q.seq ≠ p.seq)) }
  vec : ∀ n l, l < 32 → readV u n l = vecAfter (readV w) outs n l
  scl : ∀ n, readS u n = sclAfter (readS w) outs n
  prd : ∀ n, readP u n = readP w n
  clear : FlagsSet w u p.flags 0

/-- The same of an operation that has moved bytes of its core's cache: a line that goes home may end reservations and wake a
parked slot (03 R114, 09 R267 R270). -/
structure CompletedRegs (w u : Wave) (p : PendOp) (outs : List Out) : Prop where
  same : u = { w with vr := u.vr, sr := u.sr, pr := u.pr, flags := u.flags, slotA := u.slotA, slotB := u.slotB, resv := u.resv,
                      pend := w.pend.filter (fun q => decide (q.seq ≠ p.seq)) }
  slots : slotPath u.slotA = slotPath w.slotA ∧ slotPath u.slotB = slotPath w.slotB ∧ ∀ r ∈ u.resv, r ∈ w.resv
  vec : ∀ n l, l < 32 → readV u n l = vecAfter (readV w) outs n l
  scl : ∀ n, readS u n = sclAfter (readS w) outs n
  prd : ∀ n, readP u n = readP w n
  clear : FlagsSet w u p.flags 0

/-- The byte of a place as a core sees it: the valid copy in its column cache, or the byte at home (03 R107). -/
def seenByte (s : State) (c : CoreNum) (l : Loc) : Byte :=
  if cbValid (ccByte s c l) then (ccByte s c l).extractLsb' 0 8 else homeByte s l
/-- A core's access writes home at most bytes that were dirty in its own cache, for lines that must make room (03 R107); every
other core's cache, the local stores and the weight stores are as they were. -/
def WroteBack (s t : State) (c : CoreNum) : Prop :=
  (∀ b, homeByte t b = homeByte s b ∨ (cbDirty (ccByte s c b) = true ∧ homeByte t b = (ccByte s c b).extractLsb' 0 8)) ∧
    (∀ k b, k ≠ c → b.addr < 2 ^ 52 → ccByte t k b = ccByte s k b) ∧ t.lstore = s.lstore ∧ t.wstore = s.wstore
/-- A byte that is x is what a core saw: its copy where that is valid or dirty, or, where the copy is not dirty and may have left the
cache, the byte at home (03 R107 R114). -/
def Sees (s : State) (c : CoreNum) (b : Loc) (x : Byte) : Prop :=
  x = seenByte s c b ∨ (cbDirty (ccByte s c b) = false ∧ x = homeByte s b) ∨
    (cbDirty (ccByte s c b) = true ∧ x = (ccByte s c b).extractLsb' 0 8)
def Loc.plus (l : Loc) (k : Nat) : Loc := { l with addr := l.addr + k }

/-- An address of a context translates to a place for an access of a core, whatever of the core's dirty bytes, and of the bytes that an
operation writes itself, goes home meanwhile. -/
def Placed (s : State) (core : CoreNum) (c : CtxNum) (va : DWord) (acc : Access) (place : Loc) (written : Loc → Prop) : Prop :=
  ∀ t, t.tlbs = s.tlbs → t.ctxs = s.ctxs → t.svc = s.svc → (∀ k ∈ t.poison, k ∈ s.poison) →
    (∀ b, homeByte t b = homeByte s b ∨ cbDirty (ccByte s core b) = true ∨ written b) → translateAt t core c va acc = .ok place
/-- A read of a range meets no uncorrectable error: none at home, or, where it is the operation's only read, none that it fills from. -/
def Sound (s : State) (core : CoreNum) (l : Loc) (n : Nat) (only : Prop) : Prop :=
  rangePoisoned s l n = false ∨ (only ∧ loadPoisoned s core l n = false)

/-- Little-endian number of n bytes (00 R9). -/
def littleEndian (f : Nat → Byte) : Nat → Nat
  | 0 => 0
  | n + 1 => (f 0).toNat + 256 * littleEndian (fun k => f (k + 1)) n

/-- The registers of one lane's load of n bytes: zero- or sign-extended, or consecutive words (09 R255). -/
def loadedWord (sx : Bool) (n : Nat) (f : Nat → Byte) (k : Nat) : Word :=
  if sx = true ∧ n = 1 then (f 0).signExtend 32
  else if sx = true ∧ n = 2 then ((f 1) ++ (f 0)).signExtend 32
  else BitVec.ofNat 32 (littleEndian (fun j => f (4 * k + j)) (min n 4))

/-- Byte k of the data a store writes in a lane. -/
def storedByte (p : PendOp) (l k : Nat) : Byte := (opWord p .d (k / 4) l).extractLsb' (8 * (k % 4)) 8

end Sys2Proof.Claims
end

