-- ==== Sys2Proof/Claims/Lanes.lean ====
section
/-! DEFINITION. The words about Keyway and the hardware queues (16 R385 to R394): how a lane goes on, stops, reads and writes. -/

namespace Sys2Proof.Claims
open Sys2Proof.Machine

/-- A lane after an instruction: it goes on at an offset of its ring; a HALT that waits for the instruction's end stops it there
(16 R385 R388). -/
def goneTo (x : Queue) (pc : Nat) : Queue :=
  let y := { x with pc := BitVec.ofNat 24 (pc % 2 ^ x.qsize.toNat), executed := x.executed + 1, wait := none, copy := none, state := .running }
  if x.halting then { y with state := .idle, en := false, halting := false } else y
/-- The offset of the next word. -/
def nextWord (x : Queue) : Nat := (x.pc + 8).toNat
/-- The offset that IMM names: the word IMM words from the current one (16 R388). -/
def wordsOn (x : Queue) (imm : Word) : Nat := (BitVec.ofInt 24 (x.pc.toInt + 8 * imm.toInt)).toNat
/-- A lane stopped by an error at its word (16 R393); one that HALT stops after its instruction is IDLE with EN = 0 (16 R385,
notes/assumptions/92.md). -/
def stoppedAt (x : Queue) (code : BitVec 8) : Queue :=
  { x with state := if x.halting then .idle else .error, en := x.en && !x.halting, qerr := code, qerrpc := x.pc.setWidth 32,
           wait := none, copy := none, halting := false }

/-- The lane's queue is replaced, and nothing else. -/
def LaneIs (s t : State) (y : Queue) : Prop := t = updQueue s s.iss.queue (fun _ => y)
/-- The lane goes on with a register written. -/
def LaneWrites (s t : State) (d : QReg) (v : DWord) : Prop :=
  let x := getQueue s s.iss.queue
  ∃ y, LaneIs s t y ∧ y = { goneTo x (nextWord x) with regs := y.regs } ∧
    ∀ r : QReg, cellsRead y.regs r.toNat = if r = d then v else cellsRead x.regs r.toNat
/-- The lane stops in ERROR and its vector is sent (16 R393). -/
def LaneStops (i : Instr) (s : State) (code : BitVec 8) : Prop :=
  let q := s.iss.queue
  exec i s = .next (irq (updQueue s q (fun x => stoppedAt x code)) (q.toNat + 1))

/-- Register r of the lane. -/
def laneReg (s : State) (r : QReg) : DWord := cellsRead (getQueue s s.iss.queue).regs r.toNat

/-- Results of the instructions of 16 R389 that only compute. -/
def laneValue (s : State) : Instr → Option (QReg × DWord)
  | .qli d imm => some (d, BitVec.ofInt 64 imm.toInt)
  | .qlih d imm => some (d, BitVec.ofNat 64 (2 ^ 32 * imm.toNat + (laneReg s d).toNat % 2 ^ 32))
  | .qadd d a b => some (d, laneReg s a + laneReg s b)
  | .qaddi d a imm => some (d, laneReg s a + BitVec.ofInt 64 imm.toInt)
  | .qsub d a b => some (d, laneReg s a - laneReg s b)
  | .qand d a b => some (d, laneReg s a &&& laneReg s b)
  | .qor d a b => some (d, laneReg s a ||| laneReg s b)
  | .qshl d a n => some (d, BitVec.ofNat 64 ((laneReg s a).toNat * 2 ^ n.toNat))
  | .qshr d a n => some (d, BitVec.ofNat 64 ((laneReg s a).toNat / 2 ^ n.toNat))
  | _ => none

/-- The aligned word at an address is mapped, and holds no uncorrectable error. -/
abbrev WordAt (s : State) (c : CtxNum) (a : DWord) (acc : Access) (l : Loc) : Prop :=
  a.toNat % 8 = 0 ∧ translate s c a acc = .ok l ∧ (l.host = true ∨ l.addr / 16 ∉ s.poison)
/-- The word at an address is queue error 0x03 (16 R393). -/
abbrev NoWord (s : State) (c : CtxNum) (a : DWord) (acc : Access) : Prop :=
  a.toNat % 8 ≠ 0 ∨ (∃ k, translate s c a acc = .error k) ∨
    ∃ l, translate s c a acc = .ok l ∧ l.host = false ∧ l.addr / 16 ∈ s.poison
/-- No release tag stands on a place's line: a read there pulls nothing (03 R118). -/
abbrev NoTags (s : State) (l : Loc) : Prop := l.host = true ∨ ∀ g ∈ s.tags, g.place ≠ .line (l.addr / 64)
/-- The 64-bit word at home. -/
def homeWord (s : State) (l : Loc) : DWord := BitVec.ofNat 64 (littleEndian (fun k => homeByte s (Loc.plus l k)) 8)
/-- Home memory with one word written: every other byte is as it was. -/
def WordWritten (s t : State) (l : Loc) (v : DWord) : Prop :=
  homeWord t l = v ∧ ∀ b, (b.host ≠ l.host ∨ b.addr < l.addr ∨ l.addr + 8 ≤ b.addr) → homeByte t b = homeByte s b

/-- cc(x, y) of 16 R388. -/
def holds (cc : QCond) (x y : DWord) : Prop :=
  match cc with
  | .always => True
  | .eq => x = y
  | .ne => x ≠ y
  | .lo => x.toNat < y.toNat
  | .hs => y.toNat ≤ x.toNat
  | .lt => x.toInt < y.toInt
  | .ge => y.toInt ≤ x.toInt

/-- An offset lies in the device's part of the ring, from QFREE up to QWR (16 R386). -/
def insideRing (x : Queue) (pc : Nat) : Prop :=
  let size := 2 ^ x.qsize.toNat
  (pc + 2 ^ 24 - x.qfree.toNat) % 2 ^ 24 % size < (x.qwr.toNat + 2 ^ 24 - x.qfree.toNat) % 2 ^ 24 % size

end Sys2Proof.Claims
end

