-- ==== Sys2Proof/Claims/Host.lean ====
section
/-! DEFINITION. The words about the host's registers, the mailbox and its packets (16 R385 R386 R395 to R398, 15 R356). -/

namespace Sys2Proof.Claims
open Sys2Proof.Machine

/-- The distance of a ring offset from QFREE (16 R386). -/
def fromFree (x : Queue) (a : Nat) : Nat := (a + 2 ^ 24 - x.qfree.toNat) % 2 ^ 24 % 2 ^ x.qsize.toNat
/-- The word at an offset lies whole in the device's part of the ring. -/
abbrev Covered (x : Queue) (a : Nat) : Prop := fromFree x a + 8 ≤ fromFree x x.qwr.toNat
/-- A queue that HALT stops (16 R385). -/
def halted (x : Queue) : Queue :=
  if x.state = .running ∧ x.copy ≠ none then { x with halting := true } else { x with state := .idle, en := false, wait := none }
/-- A queue after a write of EN = 1 (16 R385). -/
def enabled (x : Queue) : Queue :=
  let go : QState := if Covered x x.pc.toNat then .running else .idle
  if x.bound = false then x
  else if x.state = .error then { x with en := true, qerr := 0, qerrpc := 0, state := go }
  else if x.state = .idle ∧ x.en = false then { x with en := true, qerr := 0, qerrpc := 0, regs := [], rstack := [], state := go }
  else { x with en := true }

/-! ### Packets (16 R395 to R398) -/

/-- TYPE and the fields that a packet's type knows, each with the length of its value; M is bit 15. -/
def packetOf : Instr → Option (BitVec 16 × List (BitVec 16 × Nat) × Packet)
  | .ctxbind p => some (0x0001, [], p)
  | .ctxfree p => some (0x0002, [], p)
  | .ctxwrite p => some (0x0003, [(0x8010, 2), (0x8011, 8)], p)
  | .ctxread p => some (0x0004, [(0x8010, 2)], p)
  | .map p => some (0x0010, [(0x8020, 8), (0x8022, 8), (0x8021, 8), (0x8023, 2)], p)
  | .unmap p => some (0x0011, [(0x8020, 8), (0x8022, 8)], p)
  | .protect p => some (0x0012, [(0x8020, 8), (0x8022, 8), (0x8023, 2)], p)
  | .qbind p => some (0x0018, [(0x8030, 1), (0x0031, 3)], p)
  | .preempt p => some (0x0020, [(0x0040, 1)], p)
  | .restore p => some (0x0021, [], p)
  | .resetCtx p => some (0x0022, [], p)
  | .weightload p => some (0x0030, [(0x8050, 8), (0x8051, 4), (0x8052, 4)], p)
  | .telemetry p => some (0x0050, [(0x8060, 2)], p)
  | .fwstage p => some (0x0060, [(0x8080, 8), (0x8081, 4)], p)
  | .fwcommit p => some (0x0061, [(0x0082, 1)], p)
  | .fwrollback p => some (0x0062, [(0x0082, 1)], p)
  | .powercfg p => some (0x0070, [(0x8070, 1), (0x0071, 2), (0x0072, 2), (0x0073, 4), (0x0074, 2), (0x0075, 2)], p)
  | _ => none

/-- The field of a packet with an FTYPE, and its value as a number. -/
def fieldAt (p : Packet) (t : BitVec 16) : Option PktField := p.fields.find? (fun f => decide (f.ftype = t))
def bytesNat : List Byte → Nat
  | [] => 0
  | b :: r => b.toNat + 256 * bytesNat r
def valueAt (p : Packet) (t : BitVec 16) (absent : Nat) : Nat := match fieldAt p t with
  | some f => bytesNat f.value
  | none => absent
/-- In recovery mode only the firmware types and TELEMETRY are taken (18 R420). -/
abbrev TypeTaken (s : State) (type : BitVec 16) : Prop := s.boot.mode ≠ .recovery ∨ type ∈ [(0x0050 : BitVec 16), 0x0060, 0x0061, 0x0062]
/-- Every field that a type knows has its length, and every mandatory one stands in the packet; no RZ bit of a value is set. -/
abbrev WellMade (known : List (BitVec 16 × Nat)) (p : Packet) : Prop :=
  p.malformed = false ∧
    ∀ k ∈ known, (∀ f ∈ fieldAt p k.1, f.value.length = k.2) ∧ (k.1.getLsbD 15 = true → fieldAt p k.1 ≠ none)
abbrev NoRz (known : List (BitVec 16 × Nat)) (p : Packet) : Prop :=
  ((0x8023, 2) ∈ known → valueAt p 0x8023 0 < 8) ∧ ((0x0073, 4) ∈ known → valueAt p 0x0073 0 / 16 % 4096 = 0)
/-- Every mandatory field of the packet is one that its type knows. -/
abbrev AllKnown (known : List (BitVec 16 × Nat)) (p : Packet) : Prop :=
  ∀ f ∈ p.fields, f.ftype.getLsbD 15 = true → ∃ k ∈ known, k.1 = f.ftype
/-- A packet passes the checks that come before its type's own. -/
abbrev Accepted (i : Instr) (s : State) (type : BitVec 16) (p : Packet) : Prop :=
  ∃ known, packetOf i = some (type, known, p) ∧ TypeTaken s type ∧ WellMade known p ∧ NoRz known p ∧ AllKnown known p ∧ s.badAddr = none

/-- Number of n bytes of the response buffer. -/
def respNat (t : State) (o n : Nat) : Nat := littleEndian (fun k => cellsRead t.mail.resp (o + k)) n
/-- Firmware has answered over the state u: the response holds TYPE, LEN, the packet's SEQ, STATUS and its fields; BUSY is 0, DONE
1, vector 0 sent; nothing else of u has changed (16 R395 R396). -/
def Answered (u t : State) (type status : BitVec 16) (p : Packet) (fs : List PktField) : Prop :=
  t = { u with mail := { t.mail with req := u.mail.req, busy := false, done := true, door := none, owed := none, stale := none },
               irqstat := u.irqstat ||| 1, msix := t.msix } ∧
    respNat t 0 2 = type.toNat ∧ respNat t 4 2 = p.seq.toNat ∧ respNat t 6 2 = status.toNat ∧
    (fs = [] → respNat t 2 2 = 16) ∧
    ∀ f, fs = [f] → f.value.length ≤ 4072 → respNat t 2 2 = 24 + (f.value.length + 7) / 8 * 8 ∧ respNat t 16 2 = f.ftype.toNat ∧
      respNat t 18 2 = f.value.length ∧ ∀ k, k < f.value.length → cellsRead t.mail.resp (24 + k) = f.value.getD k 0

/-- An instruction is a packet that is answered so, and changes nothing else. -/
def OnlyAnswers (i : Instr) (s : State) (type status : BitVec 16) (p : Packet) : Prop :=
  ∃ t, exec i s = .next t ∧ Answered s t type status p []
/-- An instruction is a packet that is done: answered with STATUS 0 over a state. -/
def Done (i : Instr) (s : State) (type : BitVec 16) (p : Packet) (holds : State → Prop) : Prop :=
  ∃ u t, exec i s = .next t ∧ Answered u t type 0 p [] ∧ holds u

/-- No TLB holds an entry of a context that meets a range, and no atomic of it is under way with places found before (15 R361). -/
abbrev Settled (s : State) (c : CtxNum) (lo hi : Nat) : Prop :=
  (∀ e ∈ s.tlbs, e.ctx = c → ¬ (e.leaf.base < hi ∧ lo < e.leaf.base + e.leaf.size)) ∧
    ∀ w ∈ s.waves, waveCtx s w = c → ∀ p ∈ w.pend, p.begun = true → p.performed = true
/-- A packet that changes the translations of a range is done: answered at once where no access can use an older one, else later
(15 R361). -/
def DoneOnceSettled (i : Instr) (s : State) (type : BitVec 16) (p : Packet) (lo hi : Nat) (holds : State → Prop) : Prop :=
  (Settled s p.ctx lo hi → Done i s type p (fun u => holds { u with mail := s.mail })) ∧
  (¬ Settled s p.ctx lo hi → ∃ t, exec i s = .next t ∧ holds { t with mail := s.mail } ∧
    t.mail = { s.mail with owed := some (type, p.ctx, p.seq), stale := some (lo, hi) })
/-- An area that a context's SAVEBASE or ROTBASE names holds an image (16 R397). -/
abbrev AreaInUse (s : State) (c : CtxNum) (o : Nat) : Prop :=
  (o = 0x78 ∧ ((getCtx s c).state = .saved ∨ (getCtx s c).saving = true)) ∨
    (o = 0x80 ∧ ∃ tm ∈ s.teams, tm.ctx = c ∧ tm.status = .swapped)

/-- Bits that a write of a context register sets, but for the registers at 0x00 and 0x90 (15 R356). -/
def writable (o : Nat) : DWord :=
  let bits := fun (hi lo : Nat) => BitVec.ofNat 64 (2 ^ (hi + 1) - 2 ^ lo)
  match o with
  | 0x08 => bits 51 16 | 0x10 => bits 16 0 | 0x18 => bits 51 16 | 0x20 => bits 28 16 | 0x28 => bits 51 8 | 0x30 => bits 31 0
  | 0x38 => bits 31 0 | 0x40 => bits 31 0 | 0x50 => bits 31 0 | 0x58 => bits 31 0 | 0x60 => bits 51 5 | 0x68 => bits 51 12
  | 0x70 => bits 11 0 | 0x78 => bits 51 12 | 0x80 => bits 51 12 | 0x88 => bits 51 6 | 0x98 => bits 15 0 | 0xA0 => bits 31 0
  | 0xA8 => bits 31 0 | 0xB0 => bits 31 0 | 0xB8 => bits 31 0 | _ => 0
/-- A context register's value outside its range (15 R356). -/
abbrev OutOfRange (o : Nat) (v : DWord) : Prop :=
  o % 8 ≠ 0 ∨ 256 ≤ o ∨ (o = 0x10 ∧ (v.toNat % 2 ^ 17 % 16 ≠ 0 ∨ 65536 < v.toNat % 2 ^ 17)) ∨ (o = 0x20 ∧ 6144 < v.toNat / 65536 % 8192)
/-- Registers marked "IDLE only". -/
abbrev IdleOnly (o : Nat) : Prop := o ∈ [0x10, 0x18, 0x20, 0x28, 0x68, 0x70, 0x98]
/-- A context as the host reads it. -/
abbrev SameCtx (x y : Ctx) (except : Nat) : Prop := ∀ o, o < 256 → o ≠ except → readCtxReg y o = readCtxReg x o
/-- A range of whole pages of the address space. -/
abbrev PageRange (va n : Nat) : Prop := va % 4096 = 0 ∧ n % 4096 = 0 ∧ 0 < n ∧ va + n ≤ 2 ^ 52
/-- No queue, team, run or record of a context but what a state keeps: everything else is as it was. -/
abbrev OtherContexts (s u : State) (c : CtxNum) : Prop := ∀ d, d ≠ c → getCtx u d = getCtx s d

end Sys2Proof.Claims
end

