-- ==== Sys2Proof/Claims/Service.lean ====
section
/-! DEFINITION. The words about units in service, starts and power (17 R402 to R411, 18 R415 to R430). -/

namespace Sys2Proof.Claims
open Sys2Proof.Machine

/-- Units of a kind on a stack (18 R425). -/
def unitsOf (kind : BitVec 4) : Nat := [0, 16, 8, 64, 16, 16, 8, 64].getD kind.toNat 0
/-- KIND, ACTION and UNIT are ones the device takes (18 R425). -/
abbrev UnitOk (u : SvcUnit) (a : BitVec 4) : Prop :=
  (u.kind, a) ∈ [((1 : BitVec 4), (1 : BitVec 4)), (1, 2), (2, 2), (2, 3), (3, 2), (4, 2), (5, 4), (6, 5), (7, 5)] ∧
    u.unit.toNat < unitsOf u.kind ∧ (u.kind = 6 → u.stk = 0)
/-- An instruction asks for an action on a unit: a write of SVCREQ, or the device's own work once an error counter of the stack has
crossed its threshold (18 R424 R425, notes/assumptions/96.md). -/
def Requests (s : State) (i : Instr) (u : SvcUnit) (a : BitVec 4) : Prop :=
  ((i, a) ∈ [(Instr.testAndReturn u, (1 : BitVec 4)), (.retire u, 2), (.retrain u, 3), (.recalibrate u, 4), (.testAndRepairLanes u, 5)] ∧
    overThreshold s u.stk = true) ∨
  (s.boot.mode = .ready ∧ s.badAddr = none ∧ ∃ v : DWord, i = .registerWrite 0x040 v ∧ u.stk = BitVec.ofNat 1 (v.toNat / 2 ^ 31) ∧
    u.kind = BitVec.ofNat 4 (v.toNat / 2 ^ 20) ∧ u.unit = BitVec.ofNat 8 (v.toNat / 2 ^ 32) ∧ a = BitVec.ofNat 4 (v.toNat / 2 ^ 16))
/-- Unit n of a kind is named by RETMAP (18 R418). -/
def Retired (x : Service) (kind : BitVec 4) (k : StackNum) (n : Nat) : Prop :=
  match kind.toNat with
  | 1 => x.retClusters.getLsbD (16 * k.toNat + n) = true
  | 5 => x.retClusters.getLsbD (16 * k.toNat + n) = true
  | 2 => x.retChannels.getLsbD (8 * k.toNat + n) = true
  | 3 => x.retSlices.getLsbD (64 * k.toNat + n) = true
  | 4 => x.retBanks.getLsbD (16 * k.toNat + n) = true
  | _ => False
/-- The action takes a cluster out of placement. -/
abbrev OnCluster (u : SvcUnit) : Prop := u.kind = 1 ∨ u.kind = 5
def clusterOf (u : SvcUnit) : ClusterNum := BitVec.ofNat 5 (16 * u.stk.toNat + u.unit.toNat)
/-- Word w of the RAS counters of a stack (18 R428). -/
def rasWord (s : State) (k : StackNum) (w : Nat) : DWord := cellsRead s.svc.ras (16 * k.toNat + w)
/-- One RAS counter has counted one event, and no other has changed. -/
def Counted (s t : State) (k : StackNum) (w : Nat) : Prop :=
  ∀ j, cellsRead t.svc.ras j = if j = 16 * k.toNat + w then cellsRead s.svc.ras j + 1 else cellsRead s.svc.ras j
/-- A request has ended with a RESULT, and its interrupt is raised (18 R425). -/
def Ended (t : State) (r : BitVec 8) : Prop := t.svc.req = none ∧ t.svc.result = r ∧ t.irqstat.getLsbD 38 = true
/-- A team holds a place or rings on a cluster. -/
abbrev Holds (tm : Team) (cl : ClusterNum) : Prop := coreCluster tm.core = cl ∧ tm.status ≠ .swapped ∧ tm.status ≠ .saved
/-- Nothing is left on a cluster. -/
abbrev ClusterFree (s : State) (cl : ClusterNum) : Prop :=
  (∀ tm ∈ s.teams, ¬ Holds tm cl) ∧ (getEngine s cl).entries = [] ∧ (getEngine s cl).gathers = []
/-- A unit has left service: RETMAP names it beside the units it named before, and word 14 of its stack has counted it. -/
def LeftService (s t : State) (u : SvcUnit) : Prop :=
  (∀ kind k n, n < unitsOf kind → (Retired t.svc kind k n ↔ Retired s.svc kind k n ∨
    (k = u.stk ∧ n = u.unit.toNat ∧ (kind = u.kind ∨ (kind = 1 ∧ u.kind = 5) ∨ (kind = 5 ∧ u.kind = 1))))) ∧ Counted s t u.stk 14

/-- The voltage a stack's clusters ask for: the need of the cluster with the most slots, in effect or pending, and the canary
offset, held at 50 mV under a recalibration (17 R407 to R409, 18 R424). -/
def slotsOn (p : BitVec 16) : Nat := ((List.range 16).filter (fun i => p.getLsbD i)).length
def offsetOf (s : State) (k : StackNum) : Nat := match s.svc.req with
  | some (u, _) => if u.kind = 5 ∧ u.stk = k then 50 else (getStack s k).canary
  | none => (getStack s k).canary
/-- V(n) of the configuration record. -/
def voltOf (s : State) (p : BitVec 16) : Nat := s.boot.record.vneed.getD (slotsOn p - 1) 0

/-- Every run, team, wave and record is gone, caches and release tags are empty, and queues, contexts, interrupts and the mailbox
stand at their Reset values; host memory is as it was (18 R416). -/
def Blank (s t : State) : Prop :=
  t.waves = [] ∧ t.teams = [] ∧ t.runs = [] ∧ t.recs = [] ∧ t.cc = [] ∧ t.tags = [] ∧ t.queues.map (fun x => { x with executed := 0 }) = State.reset.queues ∧
    t.ctxs = State.reset.ctxs ∧ t.irqstat = 0 ∧ t.mail = State.reset.mail ∧ t.hostMem = s.hostMem
/-- Both stacks run with the population, and every cluster with the pattern, of the configuration record (17 R404, 18 R416). -/
def Configured (s t : State) : Prop :=
  (getStack t 0).pop = s.boot.record.pop0 ∧ (getStack t 1).pop = s.boot.record.pop1 ∧ (getStack t 0).tpop = s.boot.record.tpop0 ∧
    (getStack t 1).tpop = s.boot.record.tpop1 ∧ (∀ k, (getStack t k).ringP = (getStack t k).pop.toNat) ∧
    ∀ cl, (getCluster t cl).pattern = s.boot.record.pattern
/-- What a failed start leaves of the flash (18 R420): FAILS counts, the third failure tries the other slot, and the sixth, or a third
with no other image, makes the next start enter recovery mode. -/
def FailedBoot (s t : State) : Prop :=
  let n := s.boot.fails + 1
  t.boot.mode = .starting ∧ t.boot.fails = n ∧ t.boot.next = (if n = 3 then !s.boot.next else s.boot.next) ∧
    (t.boot.recoveryNext = true ↔ n = 6 ∨ (3 ≤ n.toNat ∧ fwSlot s.boot (!s.boot.next) = none)) ∧
    t.boot.slotA = s.boot.slotA ∧ t.boot.slotB = s.boot.slotB
/-- A start has reached READY with the image of NEXT (18 R416 R420). -/
def RunsNext (s t : State) (warm : Bool) : Prop :=
  t.boot.mode = .ready ∧ t.boot.run = s.boot.next ∧ t.boot.next = s.boot.next ∧ t.boot.fails = 0 ∧ t.boot.warm = warm
/-- A reading reaches a trip point; every reading is 5 degrees, 40 units, below it (17 R410). -/
def reach (rs : List (BitVec 16)) (trip : BitVec 16) : Prop := ∃ r ∈ rs, trip.toInt ≤ r.toInt
def cool (rs : List (BitVec 16)) (trip : BitVec 16) : Prop := ∀ r ∈ rs, r.toInt + 40 ≤ trip.toInt

end Sys2Proof.Claims
end

