-- ==== Sys2Proof/Claims/Waves.lean ====
section
/-! DEFINITION. The words about the events of waves: a HELD bundle that may complete, and the waves of a team that stand at
REGROUP (01 R24 R38 to R43). -/

namespace Sys2Proof.Claims
open Sys2Proof.Machine

/-- The event names a live wave that a save or a drain has not stopped. -/
abbrev Named (s : State) (w : Wave) : Prop :=
  findWave s s.who.wave = some w ∧ waveLive w = true ∧ waveStopped s w = false ∧ s.badAddr = none

/-- The bundle of a HELD slot issues now: no trap or hold is left, its wave may issue, no wave of a higher place has acted in
this clock, its partition has not issued, and the stop grants what the slot does not hold yet (01 R43 R46). -/
structure MayComplete (s : State) (w : Wave) (p : Path) (b : Bundle) : Prop where
  named : Named s w
  held : getSlot w s.who.slot = .held p
  issues : verdict s w s.who.slot = .issues b ∧ verdict (markTurn s w) w s.who.slot = .issues b ∧ w.bfaults = []
  open_ : w.frameWait = none ∧ s.clockMark ≤ wavePlace w ∧
    (getCluster s (coreCluster w.core)).issuedNow.getLsbD (partIndex w.core w.part) = false
  alone : (∀ x ∈ s.waves, x.core = w.core → x.part = w.part → x = w) ∧ ∀ q, getSlot w (otherSlot s.who.slot) ≠ .held q
  granted : grants s (coreCluster w.core) (poolFree s (coreCluster w.core))
    (mkBid s w s.who.slot (bundlePrice (stageOf s w s.who.slot []) b) (heldTokens w s.who.slot)) = true
  free : anyHeld (stageOf s w s.who.slot []) b = false ∧ anyHeld (stageOf (markTurn s w) w s.who.slot (bundleSets b)) b = false ∧
    anyDrains (stageOf (markTurn s w) w s.who.slot (bundleSets b)) b = false

/-- The lanes of a list of waves that are parked in slot A, by wave and lane. -/
def parkedLanes (ws : List Wave) : List (Wave × Nat) :=
  ws.flatMap (fun w => match w.slotA with
    | .parked p _ => ((List.range 32).filter (inMask p.mask)).map (fun l => (w, l))
    | _ => [])

/-- The waves of a team, in the order of their numbers, all parked at one REGROUP with one format, and quiet (01 R38 R39). -/
structure AtRegroup (s : State) (tm : Team) (ws : List Wave) (pc : Pc) (fmt : BitVec 14) : Prop where
  team : findTeam s s.who.team = some tm ∧ tm.status = .running ∧ teamStopped s tm = false ∧ tm.nbars = 0 ∧ tm.pair = false ∧ s.badAddr = none
  waves : s.waves = ws ∧ ws ≠ []
  order : ws.Pairwise (fun a b => a.num.toNat < b.num.toNat ∧ a.id ≠ b.id ∧ a.allot = b.allot ∧ a.tsbase = b.tsbase)
  parked : ∀ w ∈ ws, w.team = tm.id ∧ w.status = .running ∧ w.slotB = .empty ∧ w.stack = [] ∧ ∃ p, w.slotA = .parked p .regroup ∧
    p.pc = pc ∧ p.fmt = fmt ∧ p.mask ≠ 0
  quiet : ∀ w ∈ ws, w.flags = [] ∧ w.cntCopy = 0 ∧ w.cntMatrix = 0 ∧ w.cntNet = 0 ∧ w.cntTest = 0

/-- A candidate launches: the team with the next identity runs with the records that left the queue (02 R68 R86). -/
def Launches (s t : State) (r : Run) (node : BitVec 8) (batch : List Rec) : Prop :=
  ∃ u, findTeam t s.nextId = some u ∧ u.status = .running ∧ u.batch = batch ∧ u.run = r.id ∧ u.node = node ∧ u.recsHeld = true ∧
    t.recs = batch.foldl (fun l x => l.erase x) s.recs

end Sys2Proof.Claims
end

