-- ==== Sys2Proof/Claims/Jobs.lean ====
section
/-! DEFINITION. The words about work that runs beside the waves: the copy unit (09 R271 to R275), a MATRIX job (05 R433) and
the binner and rasteriser of a RASTER node (06 R173 to R184). -/

namespace Sys2Proof.Claims
open Sys2Proof.Machine

/-! ### Copies -/

/-- The copy that COPY_CHUNK and COPY_RETIRE name, of a running team that no pre-emption has stopped, with an entry that passed its
issue. -/
structure NamedCopy (s : State) (tm : Team) (c : CopyOp) : Prop where
  team : findTeam s s.who.team = some tm ∧ tm.status = .running ∧ teamStopped s tm = false ∧ s.badAddr = none
  copy : findCopy tm s.who.wave s.who.seq = some c
  entry : entryIllegal c.entry (ceTwod c.entry) tm.nbars = false
  powered : pairGated s (corePair tm.core) = false
/-- The team with its copy replaced. -/
def withCopy (tm : Team) (c d : CopyOp) : Team :=
  { tm with copies := tm.copies.map (fun x => if x.seq = c.seq ∧ x.wave = c.wave then d else x) }
/-- Where a step of the copy ends: at the aligned 256-byte block's end, or after the units that the event counts (09 R275). -/
def stepEnd (s : State) (c : CopyOp) : Nat := if s.who.count = 0 then blockEnd c else min (blockEnd c) (c.units + s.who.count)
/-- A place is byte i of a unit that the step moves out of the local window. -/
def UnitByte (s : State) (c : CopyOp) (place : Nat → Loc) (l : Loc) : Prop :=
  ceDir c.entry ≠ 0 ∧ ∃ j i, c.units ≤ j ∧ j < stepEnd s c ∧ i < 16 ∧ l = Loc.plus (place j) i
/-- Every unit of the step has a place in powered memory, without an error where the unit is read. -/
def UnitsPlaced (s : State) (tm : Team) (c : CopyOp) (place : Nat → Loc) : Prop :=
  let core := waveCore s c.wave tm
  ∀ j, c.units ≤ j → j < stepEnd s c → locGated s (place j) = false ∧ (place j).addr + 16 ≤ 2 ^ 52 ∧
    Placed s core tm.ctx (unitGlobal c.entry j) (if ceDir c.entry = 0 then .read else .write) (place j) (UnitByte s c place) ∧
    (ceDir c.entry = 0 → Sound s core (place j) 16 (stepEnd s c = c.units + 1))

/-- Byte i of unit j of a team's local window. -/
def unitKey (tm : Team) (c : CopyOp) (j i : Nat) : Nat := localKey tm (unitLocal c.entry j) + i

/-- The bytes that a step of a copy has moved (09 R273): into the local window, or into the core's column cache. A line that must
make room for another goes home (03 R107). -/
def UnitsMoved (s t : State) (tm : Team) (c : CopyOp) (place : Nat → Loc) : Prop :=
  let core := waveCore s c.wave tm
  (∀ l, homeByte t l = homeByte s l ∨ cbDirty (ccByte s core l) = true ∨ UnitByte s c place l) ∧ t.wstore = s.wstore ∧
  (ceDir c.entry = 0 →
    (∀ j i, c.units ≤ j → j < stepEnd s c → i < 16 →
      Sees s core (Loc.plus (place j) i) (cellsRead t.lstore (unitKey tm c j i)) ∧
      (stepEnd s c = c.units + 1 → cellsRead t.lstore (unitKey tm c j i) = seenByte s core (Loc.plus (place j) i))) ∧
    ∀ k, (∀ j i, c.units ≤ j → j < stepEnd s c → i < 16 → k ≠ unitKey tm c j i) → cellsRead t.lstore k = cellsRead s.lstore k) ∧
  (ceDir c.entry ≠ 0 → t.lstore = s.lstore ∧
    ((∀ j k a b, c.units ≤ j → j < k → k < stepEnd s c → a < 16 → b < 16 → Loc.plus (place j) a ≠ Loc.plus (place k) b) →
      ∀ j i, c.units ≤ j → j < stepEnd s c → i < 16 → seenByte t core (Loc.plus (place j) i) = cellsRead s.lstore (unitKey tm c j i))) ∧
  ∀ l, l.addr < 2 ^ 52 → ¬ UnitByte s c place l → Sees s core l (seenByte t core l)

/-! ### A MATRIX job -/

/-- A running MATRIX team with one record, without a result record, whose waves end without a fault unreported. -/
structure JobTeam (s : State) (tm : Team) (r : Rec) : Prop where
  team : findTeam s s.who.team = some tm ∧ tm.status = .running ∧ s.badAddr = none
  node : (teamNode s tm).kind = 6 ∧ (teamNode s tm).outs = 0
  batch : tm.batch = [r]
  live : ∃ w ∈ s.waves, w.team = tm.id ∧ waveLive w = true
  calm : ∀ w ∈ s.waves, w.team = tm.id → endFaults w = []
/-- The entry of a team's job in the table of its cluster's engine. -/
def jobEntry (s : State) (tm : Team) : Option Entry :=
  (getEngine s (coreCluster tm.core)).entries.find? (fun e => decide (e.kind = .job tm.id))

/-- Rows of n bytes, a stride apart, have places in powered memory, in order within a page and without errors, whatever the job
writes meanwhile. -/
def RowsPlaced (s : State) (tm : Team) (acc : Access) (base stride n rows : Nat) (written : Loc → Prop) (place : Nat → Nat → Loc) : Prop :=
  ∀ i k, i < rows → k < n → locGated s (place i k) = false ∧ (place i k).addr < 2 ^ 52 ∧
    Placed s tm.core tm.ctx (BitVec.ofNat 64 (base + i * stride + k)) acc (place i k) written ∧
    ((place i k).host = true ∨ (place i k).addr / 16 ∉ s.poison) ∧
    (k + 1 < n → (base + i * stride + k + 1) % 4096 ≠ 0 → place i (k + 1) = Loc.plus (place i k) 1)
/-- Every byte that a core may see at the places of some rows. -/
def RowsHold (s : State) (tm : Team) (rows n : Nat) (place : Nat → Nat → Loc) (f : Nat → Nat → Byte) : Prop :=
  ∀ i k, i < rows → k < n → ∀ x, Sees s tm.core (place i k) x → x = f i k

/-- A job of class I8, start value 0 and one tile of D of one pass, which has its entry and tokens; A and B hold known bytes, and D
has a place of its own for every byte. -/
structure JobReady (s : State) (tm : Team) (r : Rec) (e : Entry) (fa fb : Nat → Nat → Byte) (a b d : Nat → Nat → Loc) : Prop where
  team : JobTeam s tm r
  job : jobClass r = some .i8 ∧ jobBad r .i8 = false ∧ jobCin r = false ∧ jobM r ≤ 64 ∧ jobN r ≤ 64 ∧ jobK r ≤ 256
  pass : jobEntry s tm = some e ∧ e.state = .running ∧ e.tokens ≠ 0 ∧ e.eligibleSince = none ∧ e.parts = []
  work : tm.job = some { left := [0], pass := 0, acc := [], old := [] }
  rowsA : RowsPlaced s tm .read (jobBits r 51 0) (jobBits r 383 352) (jobK r) (jobM r)
    (fun l => ∃ i k, i < jobM r ∧ k < 4 * jobN r ∧ l = d i k) a
  rowsB : RowsPlaced s tm .read (jobBits r 115 64) (jobBits r 415 384) (jobN r) (jobK r)
    (fun l => ∃ i k, i < jobM r ∧ k < 4 * jobN r ∧ l = d i k) b
  rowsD : RowsPlaced s tm .write (jobBits r 243 192) (jobBits r 447 416) (4 * jobN r) (jobM r)
    (fun l => ∃ i k, i < jobM r ∧ k < 4 * jobN r ∧ l = d i k) d
  bytes : RowsHold s tm (jobM r) (jobK r) a fa ∧ RowsHold s tm (jobK r) (jobN r) b fb
  distinct : ∀ i j k n, i < jobM r → j < jobM r → k < 4 * jobN r → n < 4 * jobN r → d i k = d j n → i = j ∧ k = n

/-! ### RASTER nodes -/

/-- The event names a raster node of a run that may go on. -/
structure NamedRaster (s : State) (r : Run) (x : Raster) : Prop where
  run : findRun s s.who.run = some r
  node : r.rasters.find? (fun y => decide (y.node = s.who.node)) = some x
  going : runOpen s r = true ∧ s.badAddr = none
/-- The raster node as it stands. -/
def rasterNow (t : State) (r : Run) (x : Raster) : Option Raster :=
  (findRun t r.id).bind (fun g => g.rasters.find? (fun y => decide (y.node = x.node)))

/-- Every byte of parameter memory has a place of its own, in order within a unit, free of errors, and its contents hold no
entry of the page tables that place it. -/
structure PmPlaced (s : State) (r : Run) (x : Raster) (place : Nat → Loc) : Prop where
  size : rbUnits x < 2 ^ 32 ∧ heapStart x.num + 2 ≤ rbUnits x
  units : ∀ u k, u < rbUnits x → k < 64 → place (64 * u + k) = Loc.plus (place (64 * u)) k
  aligned : ∀ u, u < rbUnits x → (place (64 * u)).addr % 64 = 0
  distinct : ∀ o n, o < 64 * rbUnits x → n < 64 * rbUnits x → place o = place n → o = n
  clean : ∀ o, o < 64 * rbUnits x → (place o).host = true ∨ (place o).addr / 16 ∉ s.poison
  mapped : ∀ m : Cells 8, (∀ a, (∀ o, o < 64 * rbUnits x → place o ≠ { host := false, addr := a }) → cellsRead m a = cellsRead s.mem a) →
    ∀ o acc, o < 64 * rbUnits x → acc ≠ .fetch →
      translate { s with mem := m } r.ctx (BitVec.ofNat 64 (rbBase x + o)) acc = .ok (place o)

/-- The 32-bit word at an offset of parameter memory. -/
def pmWord (s : State) (place : Nat → Loc) (o : Nat) : Nat := littleEndian (fun k => homeByte s (place (o + k))) 4
/-- Words of the header (06 R178). -/
def bumpWord (s : State) (place : Nat → Loc) : Nat := pmWord s place 0
/-- Word j of the head of tile k: FIRST, LAST, COUNT, TOTAL. -/
def headWord (s : State) (place : Nat → Loc) (k j : Nat) : Nat := pmWord s place (64 + 16 * k + 4 * j)
/-- One word of parameter memory has risen by 1 and every other byte at home is as it was. -/
def WordRaised (s t : State) (x : Raster) (place : Nat → Loc) (o : Nat) : Prop :=
  pmWord t place o = (pmWord s place o + 1) % 2 ^ 32 ∧
    ∀ l, (∀ k, k < 4 → o + k < 64 * rbUnits x → l ≠ place (o + k)) → homeByte t l = homeByte s l

/-- The primitive at the head of the node's queue leaves it. -/
def Taken (s t : State) (p : Rec) : Prop := t.recs = s.recs.erase p

/-- The units that a primitive needs (06 R179): its block, and a chunk for each listed tile whose COUNT is a multiple of 15. -/
def unitsNeeded (s : State) (x : Raster) (place : Nat → Loc) (v : List Int) : Nat :=
  1 + ((listedTiles x v).filter (fun k => decide (headWord s place k 2 % 15 = 0))).length
/-- The heads of the listed tiles are as the binner leaves them: counts that can rise, and last chunks inside the heap. -/
def HeadsSane (s : State) (x : Raster) (place : Nat → Loc) (v : List Int) : Prop :=
  heapStart x.num ≤ bumpWord s place ∧ ∀ k ∈ listedTiles x v, headWord s place k 2 ≤ headWord s place k 3 ∧
    headWord s place k 3 + 1 < 2 ^ 32 ∧
    (headWord s place k 2 ≠ 0 → heapStart x.num ≤ headWord s place k 1 ∧ headWord s place k 1 < bumpWord s place)

/-- A field of a quad record (06 R183). -/
def quadField (y : Rec) (hi lo : Nat) : Nat := bitsOf (leNat y.bytes) hi lo
/-- A sample of pixel i of the quad at (qx, qy) is covered (06 R182). -/
def sampleIn (v : List Int) (qx qy i : Nat) (p : Nat × Int × Int) : Bool :=
  covered v (256 * ((qx + i % 2 : Nat) : Int) + p.2.1) (256 * ((qy + i / 2 : Nat) : Int) + p.2.2)
/-- The quads of a tile with a covered sample, by row and column. -/
def quadsOf (ms4 : Bool) (v : List Int) (tx ty : Nat) : List Nat :=
  (List.range 256).filter (fun q => (List.range 4).any (fun i =>
    (samples ms4).any (sampleIn v (32 * tx + 2 * (q % 16)) (32 * ty + 2 * (q / 16)) i)))

end Sys2Proof.Claims
end

