-- ==== Sys2Proof/Claims/Sharing.lean ====
section
/-! DEFINITION. What several waves or agents share: the column caches of fences, barriers, copies and records. -/

namespace Sys2Proof.Claims
open Sys2Proof.Machine

/-- The waves of a state with their registers: what accesses to memory leave as it is. -/
def registersOf (s : State) : List (Nat × Cells 32 × Cells 32 × Cells 32) := s.waves.map (fun w => (w.id, w.vr, w.sr, w.pr))

/-- A core has cleaned: every byte that was dirty and global is at home, no such byte is left dirty, and the core's tags are
gone (03 R116). -/
def Cleaned (s t : State) (c : CoreNum) : Prop :=
  (∀ l, l.addr < 2 ^ 52 → cbDirty (ccByte s c l) = true → cbPrivate (ccByte s c l) = false →
    homeByte t l = (ccByte s c l).extractLsb' 0 8) ∧
  (∀ l, l.addr < 2 ^ 52 → cbDirty (ccByte t c l) = true → cbPrivate (ccByte t c l) = true) ∧
  ∀ g ∈ t.tags, g.core ≠ c
/-- A core has invalidated: a valid byte of it is dirty or private (03 R116). -/
def Invalidated (t : State) (c : CoreNum) : Prop :=
  ∀ l, l.addr < 2 ^ 52 → cbValid (ccByte t c l) = true → cbDirty (ccByte t c l) = true ∨ cbPrivate (ccByte t c l) = true

/-- What FENCE, CCLEAN and CINV leave (03 R116, 09 R268): nothing at a scope inside the core; else the row's clean and
invalidation, and no register of any wave changed. -/
def FenceLeaves (i : Instr) (s : State) (v : Wave) (scope : Scope) (clean inval : Bool) : Prop :=
  (wideScope (teamOf s v).pair scope = false → exec i s = .next s) ∧
  (wideScope (teamOf s v).pair scope = true → ∃ t, exec i s = .next t ∧ (clean = true → Cleaned s t v.core) ∧
    (inval = true → Invalidated t v.core) ∧ (clean = false → t.mem = s.mem ∧ t.hostMem = s.hostMem) ∧
    registersOf t = registersOf s ∧ t.lstore = s.lstore ∧ t.wstore = s.wstore ∧ t.teams = s.teams)

/-- The word that a WAITADDR of a CORE team, or of a scope inside the core, sees: local bytes at the banks, or global bytes
through the column cache. -/
def watchedWord (s : State) (w : Wave) (o : WaitAddr) (place : Loc) (a : Nat) : DWord :=
  BitVec.ofNat 64 (littleEndian (fun k =>
    if o.isLocal then cellsRead s.lstore (localKey (teamOf s w) a + k) else seenByte s w.core (Loc.plus place k)) (sizeBytes o.size))

/-- Bytes of other waves' interest have gone home: a slot parked in WAITADDR may be woken, a reservation may have ended
(09 R267 R270). -/
def Stirred (v y : Wave) : Prop :=
  y = { v with slotA := y.slotA, slotB := y.slotB, resv := y.resv } ∧ slotPath y.slotA = slotPath v.slotA ∧
    slotPath y.slotB = slotPath v.slotB ∧ ∀ r ∈ y.resv, r ∈ v.resv

/-! ### Barriers (03 R124) -/

/-- The bit of a barrier. -/
def bitOf (x : BitVec 16) (b : Bar) : Bool := x.getLsbD b.toNat
/-- A wave waits at a barrier: a slot of it, or of its trapped path, is parked there. -/
def waitsAt (x : Wave) (b : Bar) : Bool := parkedOn b x.slotA || parkedOn b x.slotB || waitsOn b x.saveA || waitsOn b x.saveB
/-- A team with one barrier's arrival count, or its expected count, at a value, and everything else as it was. -/
def countAt (t u : Team) (b : Bar) (n : BitVec 8) : Prop :=
  u = { t with barCount := u.barCount } ∧ ∀ k, cellsRead u.barCount k = if k = b.toNat then n else cellsRead t.barCount k
def expectAt (t u : Team) (b : Bar) (n : BitVec 8) : Prop :=
  u = { t with barExpect := u.barExpect } ∧ ∀ k, cellsRead u.barExpect k = if k = b.toNat then n else cellsRead t.barExpect k

/-- The phase of a barrier has completed between two states: the count is 0 and the phase bit flips; in every wave of the
team the awaited bit flips and the arrived bit is 0, and a wave that had arrived without waiting has its pending bit set. -/
def PhaseCompletes (s t : State) (tm : Team) (b : Bar) (arriver : Option Nat) : Prop :=
  (∃ u, findTeam t tm.id = some u ∧ cellsRead u.barCount b.toNat = 0 ∧ bitOf u.barPhase b = !bitOf tm.barPhase b) ∧
  ∀ id x, findWave s id = some x → x.team = tm.id → ∃ y, findWave t id = some y ∧ bitOf y.awaited b = !bitOf x.awaited b ∧
    bitOf y.arrived b = false ∧
    (some id ≠ arriver → (bitOf x.arrived b = true ∧ waitsAt x b = false → bitOf y.pendingBit b = true) ∧
      (¬ (bitOf x.arrived b = true ∧ waitsAt x b = false) → bitOf y.pendingBit b = bitOf x.pendingBit b))

/-- The arrivals a phase still needs. -/
def expectedOf (t : Team) (b : Bar) : Nat := (cellsRead t.barExpect b.toNat).toNat
def countOf (t : Team) (b : Bar) : Nat := (cellsRead t.barCount b.toNat).toNat

/-! ### Records (02, 10) -/

/-- The bytes of one lane's record: n registers from A, low register first, little-endian. -/
def laneRecord (w : Wave) (a : VReg) (n l : Nat) : List Byte :=
  (List.range (4 * n)).map (fun k => (readV w (vnum w.ix.toNat a + k / 4) l).extractLsb' (8 * (k % 4)) 8)

end Sys2Proof.Claims
end

