-- ==== Sys2Proof/Claims/Matrices.lean ====
section
/-! DEFINITION. The words about the matrix engine: what a part of a quad operation must satisfy (05 R147, 11 R310), the entry
it makes, and elements of the tiles that operations leave. -/

namespace Sys2Proof.Claims
open Sys2Proof.Machine

/-- The instructions of 11 R309. -/
def matrixInstr : Instr → Bool
  | .mma _ | .mmaSp _ | .mload _ | .mstore _ | .mzero _ _ | .mspload _ _ _ | .miter _ | .mpoly _ _ _ _ | .mnorm _ _ _ => true
  | _ => false

/-- The waves that the wave's QUAD names (05 R146 R147): four distinct numbers of the team, one of them the wave's own, each a
live wave that holds the same value. -/
structure QuadOk (s : State) (w : Wave) : Prop where
  distinct : ∀ j k, j < 4 → k < 4 → quadNum w.quad j = quadNum w.quad k → j = k
  own : ∃ k, k < 4 ∧ quadNum w.quad k = w.num.toNat
  live : ∀ k, k < 4 → quadNum w.quad k < (teamOf s w).nwaves ∧
    ∃ x, waveOfNum s (teamOf s w).id (quadNum w.quad k) = some x ∧ x.quad = w.quad ∧ waveLive x = true

/-- What a part must satisfy at its issue (05 R147, 11 R310), c the class of the path's formats. -/
structure PartOk (i : Instr) (s : State) (w : Wave) (c : MxClass) : Prop where
  formats : mxClass (fmtAType (issFmt s)) = some c ∧ mxClass (fmtBType (issFmt s)) = some c ∧
    ¬ (c = .i8 ∧ fmtScaled (issFmt s) = true)
  values : partIllegal s c i = false
  tiles : ∀ x ∈ tilesOf i, x.toNat < (teamOf s w).tiles
  scales : ∀ o, (i = .mma o ∨ i = .mmaSp o) → fmtScaled (issFmt s) = true →
    vnum w.ix.toNat o.vs + scaleRegs c o.nc1 ≤ min w.allot.toNat 256
  full : laneSet s (predOfInstr i) = 0xFFFFFFFF
  quad : QuadOk s w
  ranges : ∀ r ∈ partRanges s c i, (r.2.2 = true → r.1 % 16 = 0) ∧ r.1 + r.2.1 ≤ (teamOf s w).winSize
  side : ∀ r ∈ partSide s c i, r.1 % 16 = 0 ∧ r.1 + r.2 ≤ 1024 * (teamOf s w).tiles
  room : w.cntMatrix ≠ 255

/-- The part that a wave adds: its captured B quarter and scales (05 R149). -/
def partFrom (s : State) (v : Wave) (i : Instr) : QuadPart :=
  { wave := v.id, seq := v.opSeq, pc := s.iss.pc, b := (partB s i).1, scales := (partB s i).2 }
/-- The wave after a part: its part number and MATRIX counter have risen (05 R148, 03 R122). -/
def afterPart (v : Wave) : Wave := { v with mparts := v.mparts + 1, opSeq := v.opSeq + 1, cntMatrix := v.cntMatrix + 1 }
/-- The entry that a first part makes (05 R148 R152 R156): GATHERING, with the captured encoding, scalars, format and the
team's coefficient registers. -/
def madeEntry (s : State) (v : Wave) (i : Instr) (ix : BitVec 4) (cl : ClusterNum) : Entry :=
  { idx := ix, kind := .quad (teamOf s v).id v.mparts.toNat, state := .gathering, instr := maskPart i, svals := partVals s i,
    fmt := captureFmt (issFmt s), coeffs := coefsAt (teamOf s v) (coreClock s v.core), parts := [partFrom s v i],
    quad := v.quad, age := (getCluster s cl).clk, order := (getEngine s cl).nextOrder, eligibleSince := none, starving := false,
    waitTokens := none, tokenStarving := false, tokens := 0, loop := { iter := 0, res := 0, rprev := inf32, product := 0 },
    softError := false }

/-- The single-pass operation that retires next on an engine, of a team, with no error and no pass to end. -/
abbrev Retiring (s : State) (e : Entry) (tm : Team) : Prop :=
  (getEngine s s.who.cl).entries.find? retirable = some e ∧ s.who.cl.toNat < s.engines.length ∧
    (∃ n, e.kind = .quad tm.id n) ∧ findTeam s tm.id = some tm ∧ e.softError = false ∧ s.badAddr = none ∧ (e.parts.map (fun p => p.wave)).Nodup

/-- Element (a, b) of tile k of a team. -/
def tileElem (s : State) (cl : ClusterNum) (tm : Team) (k : Tile) (a b : Nat) : Word :=
  cellsRead s.tiles (4096 * (32 * cl.toNat + tileNum tm k.toNat) + 64 * a + b)
/-- Byte x of a team's local-store window. -/
def localByte (s : State) (tm : Team) (x : Nat) : Byte := cellsRead s.lstore (524288 * (tm.core.toNat / 2) + tm.winBase + x)
/-- Element (a, b), n bytes wide, of rows in the local store. -/
def rowElem (s : State) (tm : Team) (e : Entry) (n a b : Nat) : Nat :=
  littleEndian (fun k => localByte s tm (entVal e 0 + a * entStride e 1 + n * b + k)) n

/-- Element (a, b) that a class I8 MMA leaves (04 R140, 05 R150): the tile C's element plus the exact products of the row of A in
the local store and the column of B in the quad's registers, modulo 2^32. -/
def intElement (s : State) (cl : ClusterNum) (tm : Team) (e : Entry) (o : Mma) (a b : Nat) : Word :=
  tileElem s cl tm o.c a b + BitVec.ofInt 32 ((List.range (32 * (o.nc1.toNat + 1))).map (fun k =>
    (localByte s tm (entVal e 0 + a * entStride e 1 + k)).toInt * int8 (codeAt (readB s e 8 32 (32 * (o.nc1.toNat + 1))) b k))).sum
/-- The groups of products of element (a, b) of a floating-point MMA without scales, one group a chunk (04 R139). -/
def floatGroups (s : State) (e : Entry) (tm : Team) (o : Mma) (a b : Nat) : List (List Val) :=
  let n := chunkLen (entClass e)
  let width := classWidth (entClass e)
  (List.range (o.nc1.toNat + 1)).map (fun c => (List.range n).map (fun k =>
    (mulVal (decodeFloat (codeFmt (fmtAType e.fmt)) (codeAt (readA s tm (entVal e 0) (entStride e 1) width (n * (o.nc1.toNat + 1))) a (c * n + k)))
      (decodeFloat (codeFmt (fmtBType e.fmt)) (codeAt (readB s e width n (n * (o.nc1.toNat + 1))) b (c * n + k)))).1))

/-- A wave after an operation it had a part in has retired: its MATRIX counter is one lower, a scalar register may hold the
result, and its registers are otherwise as they were (11 R311). -/
def PartRetired (s t : State) (p : QuadPart) (r : Option (SReg × Word)) : Prop :=
  ∀ x, findWave s p.wave = some x → ∃ y, findWave t p.wave = some y ∧ y.cntMatrix = x.cntMatrix - 1 ∧ y.vr = x.vr ∧
    y.pr = x.pr ∧ (x.frame = none → waveLive x = true → ∀ n, readS y n = match r with
      | some q => if n = q.1.toNat then q.2 else readS x n
      | none => readS x n)

/-- What a retired single-pass operation has written (11 R315 to R317 R321). -/
def SingleResult (s t : State) (cl : ClusterNum) (tm : Team) (e : Entry) : Prop :=
  match e.instr with
  | .mma o =>
    (entClass e = .i8 → ∀ a b, a < 64 → b < 64 → tileElem t cl tm o.d a b = intElement s cl tm e o a b) ∧
    (entClass e ≠ .i8 → fmtScaled e.fmt = false → ∀ a b, a < 64 → b < 64 →
      tileElem t cl tm o.d a b = tileAccumulate (tileElem s cl tm o.c a b) (floatGroups s e tm o a b)) ∧
    (∀ a b, a < 64 → b < 64 → tileElem t cl tm o.d a b = matAt (runMma s cl tm e o false) a b) ∧ t.lstore = s.lstore ∧ t.side = s.side
  | .mmaSp o => (∀ a b, a < 64 → b < 64 → tileElem t cl tm o.d a b = matAt (runMma s cl tm e o true) a b) ∧ t.lstore = s.lstore ∧ t.side = s.side
  | .mload o => (∀ a b, a < 64 → b < 64 →
      tileElem t cl tm o.d a b = loadElem o.ty (rowElem s tm e (elemBytes o.ty) a b)) ∧ t.lstore = s.lstore ∧ t.side = s.side
  | .mstore o => t.tiles = s.tiles ∧ t.side = s.side ∧ (64 * elemBytes o.ty ≤ entStride e 1 → ∀ a b k, a < 64 → b < 64 → k < elemBytes o.ty →
      localByte t tm (entVal e 0 + a * entStride e 1 + elemBytes o.ty * b + k) =
        BitVec.ofNat 8 (storeElem o.ty (entSat e) (tileElem s cl tm o.d a b) / 256 ^ k))
  | .mzero _ d => (∀ a b, a < 64 → b < 64 → tileElem t cl tm d a b = 0) ∧ t.lstore = s.lstore ∧ t.side = s.side
  | .mspload _ _ nc1 => t.tiles = s.tiles ∧ t.lstore = s.lstore ∧
      let n := 8 * ((nc1.toNat + 1) * chunkLen (entClass e))
      (tm.tblocks.Nodup → entVal e 1 + n ≤ 8192 * tm.tblocks.length →
        ∀ k, k < n → cellsRead t.side (sideKey cl tm (entVal e 1 + k)) = localByte s tm (entVal e 0 + k))
  | _ => t.tiles = s.tiles ∧ t.lstore = s.lstore ∧ t.side = s.side

end Sys2Proof.Claims
end

