-- ==== Sys2Proof/Claims/Registers.lean ====
section
/-! DEFINITION. What the instructions of slots 0 and 1 that only write registers write, one table a family: each entry gives
the registers, the lanes, the values and the flags of 08. -/

namespace Sys2Proof.Claims
open Sys2Proof.Machine

/-- A vector result in the lanes of L. -/
def inVec (s : State) (w : Wave) (pr : Pred) (d : VReg) (f : Nat → Word) : Out := .vec (vnum w.ix.toNat d) (laneSet s pr) f
/-- A vector result with the flags of its lanes. -/
def withFlags (s : State) (w : Wave) (pr : Pred) (d : VReg) (f : Nat → Word × FpFlags) : List Out × FpFlags :=
  ([inVec s w pr d (fun l => (f l).1)], laneFlags w (laneSet s pr) (fun l => (f l).2))
/-- A result without flags. -/
def silent (o : Out) : List Out × FpFlags := ([o], 0)

/-- A and B of an FP32 instruction in lane l, under their modifiers (08 R221). -/
def opA (w : Wave) (a : VReg) (m : Mod) (l : Nat) : Word := applyMod m 31 (readVReg w a l)
def opB (w : Wave) (b : VB) (m : Mod) (l : Nat) : Word := applyMod m 31 (readVB w b l)
/-- The same for both FP16 elements. -/
def opA2 (w : Wave) (a : VReg) (m : Mod) (l : Nat) : Word := applyMod2 m (readVReg w a l)
def opB2 (w : Wave) (b : VB) (m : Mod) (l : Nat) : Word := applyMod2 m (readVB w b l)
/-- The rounding mode in effect (04 R133). -/
def modeOf (s : State) (rm : Rm) : Round := effRound (issFmt s) rm
/-- B of a half, negated where NB is 1 (07 R211). -/
def halfOp (w : Wave) (o : Half) (l : Nat) : Word := applyMod { neg := o.nb, abs := false } 31 (readVB w o.b l)
def halfOp2 (w : Wave) (o : Half) (l : Nat) : Word := applyMod2 { neg := o.nb, abs := false } (readVB w o.b l)

/-! ### Floating point (08 R230 to R239) -/

/-- FADD to DOT2.H: the registers and flags of each. -/
def fpResult (s : State) (w : Wave) : Instr → Option (List Out × FpFlags)
  | .fadd o => withFlags s w o.pr o.d (fun l =>
      res32 (addF fmtFP32 (modeOf s o.rm) (f32 (opA w o.a o.ma l)) (f32 (opB w o.b o.mb l))))
  | .fsub o => withFlags s w o.pr o.d (fun l =>
      res32 (addF fmtFP32 (modeOf s o.rm) (f32 (opA w o.a o.ma l)) (negVal (f32 (opB w o.b o.mb l)))))
  | .fmul o => withFlags s w o.pr o.d (fun l =>
      res32 (mulF fmtFP32 (modeOf s o.rm) (f32 (opA w o.a o.ma l)) (f32 (opB w o.b o.mb l))))
  | .ffma o => withFlags s w o.pr o.d (fun l =>
      res32 (fmaF fmtFP32 (modeOf s o.rm) (f32 (opA w o.a o.ma l)) (f32 (opB w o.b o.mb l)) (f32 (opA w o.c o.mc l))))
  | .fmin o => silent (inVec s w o.pr o.d (fun l =>
      BitVec.ofNat 32 (minMaxF fmtFP32 false (opA w o.a o.ma l).toNat (opB w o.b o.mb l).toNat)))
  | .fmax o => silent (inVec s w o.pr o.d (fun l =>
      BitVec.ofNat 32 (minMaxF fmtFP32 true (opA w o.a o.ma l).toNat (opB w o.b o.mb l).toNat)))
  | .fcmp o => silent (.prd o.d.toNat (laneSet s o.pr) (fun l =>
      fpCond o.cc (f32 (opA w o.a o.ma l)) (f32 (opB w o.b o.mb l))))
  | .frnd o => silent (inVec s w o.pr o.d (fun l => frnd32 (modeOf s o.rm) (opA w o.a o.ma l)))
  | .hadd2 o => withFlags s w o.pr o.d (fun l => hadd16 (modeOf s o.rm) (opA2 w o.a o.ma l) (opB2 w o.b o.mb l))
  | .hmul2 o => withFlags s w o.pr o.d (fun l => hmul16 (modeOf s o.rm) (opA2 w o.a o.ma l) (opB2 w o.b o.mb l))
  | .hfma2 o => withFlags s w o.pr o.d (fun l =>
      hfma16 (modeOf s o.rm) (opA2 w o.a o.ma l) (opB2 w o.b o.mb l) (opA2 w o.c o.mc l))
  | .hmin2 o => withFlags s w o.pr o.d (fun l => hminmax16 false (opA2 w o.a o.ma l) (opB2 w o.b o.mb l))
  | .hmax2 o => withFlags s w o.pr o.d (fun l => hminmax16 true (opA2 w o.a o.ma l) (opB2 w o.b o.mb l))
  | .pack o =>
    let r := fun l => packLane o (modeOf s o.rm) (o.sat || fmtSat (issFmt s)) (packScale w o l)
      (fun k => (readV w (vnum w.ix.toNat o.a + k) l).toNat) (packCount o.dt)
    withFlags s w o.pr o.d (fun l => (BitVec.ofNat 32 (r l).1, (r l).2))
  | .dot4I8 o => withFlags s w o.pr o.d (fun l => dotIntLane (if o.au then .uint8 else .int8) (if o.bu then .uint8 else .int8)
      4 o.sat (readVReg w o.a l) (readVB w o.b l) (readVReg w o.c l))
  | .dot8I4 o => withFlags s w o.pr o.d (fun l => dotI4Lane o.au o.bu o.sat (readVReg w o.a l) (readVB w o.b l) (readVReg w o.c l))
  | .dot4F8 o => withFlags s w o.pr o.d (fun l => dotFloatLane (if o.fa then .e5m2 else .e4m3) (if o.fb then .e5m2 else .e4m3)
      4 (modeOf s o.rm) (readVReg w o.a l) (readVB w o.b l) (applyMod o.mc 31 (readVReg w o.c l)))
  | .dot8F4 o => withFlags s w o.pr o.d (fun l => dotFloatLane .e2m1 .e2m1 8 (modeOf s o.rm) (readVReg w o.a l) (readVB w o.b l)
      (applyMod o.mc 31 (readVReg w o.c l)))
  | .dot2H o => withFlags s w o.pr o.d (fun l => dotFloatLane (if o.fa then .bf16 else .fp16) (if o.fb then .bf16 else .fp16)
      2 (modeOf s o.rm) (readVReg w o.a l) (readVB w o.b l) (applyMod o.mc 31 (readVReg w o.c l)))
  | _ => none

/-- The source code of a conversion: one register, or a pair (04 R131). -/
def cvtSource (w : Wave) (o : Cvt) (l : Nat) : Nat :=
  if is64 o.st then (readVP w (vnum w.ix.toNat o.a) l).toNat else (readVReg w o.a l).toNat
/-- CVT, SCVT and UNPACK: one register or several (08 R235 R237). -/
def convertResult (s : State) (w : Wave) : Instr → Option (List Out × FpFlags)
  | .cvt o =>
    let r := fun l => cvtCode o.dt o.st (modeOf s o.rm) (o.sat || fmtSat (issFmt s)) o.ma (cvtSource w o l)
    let n := vnum w.ix.toNat o.d
    let lo := Out.vec n (laneSet s o.pr) (fun l => BitVec.ofNat 32 (r l).1)
    let hi := Out.vec (n + 1) (laneSet s o.pr) (fun l => BitVec.ofNat 32 ((r l).1 / 2 ^ 32))
    some (if is64 o.dt then [lo, hi] else [lo], laneFlags w (laneSet s o.pr) (fun l => (r l).2))
  | .scvt o =>
    let x := if is64 o.st then (readSP w o.a.toNat).toNat else (readS w o.a.toNat).toNat
    let r := cvtCode o.dt o.st (modeOf s o.rm) (o.sat || fmtSat (issFmt s)) o.ma x
    let lo := Out.scl o.d.toNat (BitVec.ofNat 32 r.1)
    let hi := Out.scl (o.d.toNat + 1) (BitVec.ofNat 32 (r.1 / 2 ^ 32))
    some (if is64 o.dt then [lo, hi] else [lo], r.2)
  | .unpack o =>
    let e := fun l k => unpackElem o (modeOf s o.rm) (o.sat || fmtSat (issFmt s)) (packScale w o l) (readVReg w o.a l).toNat k
    let ks := List.range (packCount o.st)
    some (ks.map (fun k => Out.vec (vnum w.ix.toNat o.d + k) (laneSet s o.pr) (fun l => BitVec.ofNat 32 (e l k).1)),
      laneFlags w (laneSet s o.pr) (fun l => ks.foldl (fun f k => f ||| (e l k).2) 0))
  | _ => none

/-! ### Halves of paired slots (07 R211) -/

/-- d := d op b in the lanes of L, the rounding from FMT.RND. -/
def pairedResult (s : State) (w : Wave) : Instr → Option (List Out × FpFlags)
  | .pairedFadd o => withFlags s w o.pr o.d (fun l =>
      res32 (addF fmtFP32 (fmtRound (issFmt s)) (f32 (readVReg w o.d l)) (f32 (halfOp w o l))))
  | .pairedFsub o => withFlags s w o.pr o.d (fun l =>
      res32 (addF fmtFP32 (fmtRound (issFmt s)) (f32 (readVReg w o.d l)) (negVal (f32 (halfOp w o l)))))
  | .pairedFmul o => withFlags s w o.pr o.d (fun l =>
      res32 (mulF fmtFP32 (fmtRound (issFmt s)) (f32 (readVReg w o.d l)) (f32 (halfOp w o l))))
  | .pairedFmin o => silent (inVec s w o.pr o.d (fun l =>
      BitVec.ofNat 32 (minMaxF fmtFP32 false (readVReg w o.d l).toNat (halfOp w o l).toNat)))
  | .pairedFmax o => silent (inVec s w o.pr o.d (fun l =>
      BitVec.ofNat 32 (minMaxF fmtFP32 true (readVReg w o.d l).toNat (halfOp w o l).toNat)))
  | .pairedHadd2 o => withFlags s w o.pr o.d (fun l => hadd16 (fmtRound (issFmt s)) (readVReg w o.d l) (halfOp2 w o l))
  | .pairedHmul2 o => withFlags s w o.pr o.d (fun l => hmul16 (fmtRound (issFmt s)) (readVReg w o.d l) (halfOp2 w o l))
  | .pairedMov o => silent (inVec s w o.pr o.d (fun l => readVB w o.b l))
  | .pairedIadd o => silent (inVec s w o.pr o.d (fun l => readVReg w o.d l + readVB w o.b l))
  | .pairedIsub o => silent (inVec s w o.pr o.d (fun l => readVReg w o.d l - readVB w o.b l))
  | .pairedIand o => silent (inVec s w o.pr o.d (fun l => readVReg w o.d l &&& readVB w o.b l))
  | .pairedIor o => silent (inVec s w o.pr o.d (fun l => readVReg w o.d l ||| readVB w o.b l))
  | .pairedIxor o => silent (inVec s w o.pr o.d (fun l => readVReg w o.d l ^^^ readVB w o.b l))
  | .pairedIshl o => silent (inVec s w o.pr o.d (fun l => readVReg w o.d l <<< ((readVB w o.b l).toNat % 256)))
  | .pairedIshr o => silent (inVec s w o.pr o.d (fun l => readVReg w o.d l >>> ((readVB w o.b l).toNat % 256)))
  | .pairedIsar o => silent (inVec s w o.pr o.d (fun l => (readVReg w o.d l).sshiftRight ((readVB w o.b l).toNat % 256)))
  | .pairedImin o => silent (inVec s w o.pr o.d (fun l => BitVec.ofInt 32 (min (readVReg w o.d l).toInt (readVB w o.b l).toInt)))
  | .pairedImax o => silent (inVec s w o.pr o.d (fun l => BitVec.ofInt 32 (max (readVReg w o.d l).toInt (readVB w o.b l).toInt)))
  | _ => none

/-! ### Scalar integers (08 R225 R226 R248) -/

/-- The lesser or greater of two words, signed or unsigned. -/
def minOf (un : Bool) (a b : Word) : Word :=
  if un then BitVec.ofNat 32 (min a.toNat b.toNat) else BitVec.ofInt 32 (min a.toInt b.toInt)
def maxOf (un : Bool) (a b : Word) : Word :=
  if un then BitVec.ofNat 32 (max a.toNat b.toNat) else BitVec.ofInt 32 (max a.toInt b.toInt)
/-- Bits 63 to 32 of the 64-bit product. -/
def highHalf (un : Bool) (a b : Word) : Word :=
  if un then BitVec.ofNat 32 (a.toNat * b.toNat / 2 ^ 32) else BitVec.ofInt 32 (a.toInt * b.toInt / 2 ^ 32)
/-- The shifts by b[7:0]: a count of 32 or more leaves 0, or 32 sign bits. -/
def shiftLeft (a b : Word) : Word := a <<< (b.toNat % 256)
def shiftRight (a b : Word) : Word := a >>> (b.toNat % 256)
def shiftArith (a b : Word) : Word := a.sshiftRight (b.toNat % 256)
/-- One scalar result of the words of A and B. -/
def sclOut (w : Wave) (o : S2) (f : Word → Word → Word) : List Out × FpFlags :=
  silent (.scl o.d.toNat (f (readS w o.a.toNat) (readS w o.b.toNat)))
/-- A scalar pair of the pairs of A and B, the even register low. -/
def sclPair (w : Wave) (o : S2) (f : DWord → DWord → DWord) : List Out × FpFlags :=
  let x := f (readSP w o.a.toNat) (readSP w o.b.toNat)
  ([.scl o.d.toNat (x.extractLsb' 0 32), .scl (o.d.toNat + 1) (x.extractLsb' 32 32)], 0)

def scalarResult (w : Wave) : Instr → Option (List Out × FpFlags)
  | .sadd o wide => some (if wide then sclPair w o (· + ·) else sclOut w o (· + ·))
  | .ssub o wide => some (if wide then sclPair w o (· - ·) else sclOut w o (· - ·))
  | .smul o => sclOut w o (· * ·)
  | .smulhi o un => sclOut w o (highHalf un)
  | .sand o => sclOut w o (· &&& ·)
  | .sor o => sclOut w o (· ||| ·)
  | .sxor o => sclOut w o (· ^^^ ·)
  | .sshl o => sclOut w o shiftLeft
  | .sshr o => sclOut w o shiftRight
  | .ssar o => sclOut w o shiftArith
  | .smin o un => sclOut w o (minOf un)
  | .smax o un => sclOut w o (maxOf un)
  | .scmp o cc => sclOut w o (fun a b => if intCond cc a b then 1 else 0)
  | .ssel o c => silent (.scl o.d.toNat (if readS w c.toNat = 0 then readS w o.b.toNat else readS w o.a.toNat))
  | .smov d a => silent (.scl d.toNat (readS w a.toNat))
  | .smovi d imm => silent (.scl d.toNat imm)
  | .ixget d => silent (.scl d.toNat (w.ix.setWidth 32))
  | _ => none

/-! ### Vector integers and moves (08 R227 R228 R248) -/

/-- One vector result of A and B, of A, B and C, and of A. -/
def vecOut2 (s : State) (w : Wave) (o : I2) (f : Word → Word → Word) : List Out × FpFlags :=
  silent (inVec s w o.pr o.d (fun l => f (readVReg w o.a l) (readVB w o.b l)))
def vecOut3 (s : State) (w : Wave) (o : I3) (f : Word → Word → Word → Word) : List Out × FpFlags :=
  silent (inVec s w o.pr o.d (fun l => f (readVReg w o.a l) (readVB w o.b l) (readVReg w o.c l)))
def vecOut1 (s : State) (w : Wave) (o : I1) (f : Word → Word) : List Out × FpFlags :=
  silent (inVec s w o.pr o.d (fun l => f (readVReg w o.a l)))
/-- How many bits of a word are 1. -/
def onesOf (a : Word) : Word := BitVec.ofNat 32 ((List.range 32).countP (fun k => a.getLsbD k))
/-- The bits above the highest 1 of a word; 32 for 0. -/
def leadingZeros (a : Word) : Word := BitVec.ofNat 32 (if a = 0 then 32 else 31 - Nat.log2 a.toNat)
/-- The word with its bits in the opposite order. -/
def reversed (a : Word) : Word := BitVec.ofFnLE (fun k : Fin 32 => a.getLsbD (31 - k.val))
/-- IADD and ISUB of a lane by their saturation: the exact result wrapped, or clamped with SA (08 R229). -/
def satOut (sat : IntSat) (sx ux : Int) : Word × FpFlags :=
  match sat with
  | .wrap => (BitVec.ofInt 32 sx, 0)
  | .signed => (BitVec.ofInt 32 (max (-2 ^ 31) (min (2 ^ 31 - 1) sx)), flagIf (decide (sx < -2 ^ 31 ∨ 2 ^ 31 ≤ sx)) flagSA)
  | .unsigned => (BitVec.ofInt 32 (max 0 (min (2 ^ 32 - 1) ux)), flagIf (decide (ux < 0 ∨ 2 ^ 32 ≤ ux)) flagSA)

def vectorResult (s : State) (w : Wave) : Instr → Option (List Out × FpFlags)
  | .iadd o sat => withFlags s w o.pr o.d (fun l => satOut sat ((readVReg w o.a l).toInt + (readVB w o.b l).toInt)
      ((readVReg w o.a l).toNat + (readVB w o.b l).toNat : Int))
  | .isub o sat => withFlags s w o.pr o.d (fun l => satOut sat ((readVReg w o.a l).toInt - (readVB w o.b l).toInt)
      ((readVReg w o.a l).toNat - (readVB w o.b l).toNat : Int))
  | .iaddc o c e =>
    let x := fun l => (readVReg w o.a l).toNat + (readVB w o.b l).toNat + (inMask (readP w c.toNat) l).toNat
    some ([inVec s w o.pr o.d (fun l => BitVec.ofNat 32 (x l)),
      .prd e.toNat (laneSet s o.pr) (fun l => decide (2 ^ 32 ≤ x l))], 0)
  | .imul o => vecOut2 s w o (· * ·)
  | .imulhi o un => vecOut2 s w o (highHalf un)
  | .imad o => vecOut3 s w o (fun a b c => a * b + c)
  | .iand o => vecOut2 s w o (· &&& ·)
  | .ior o => vecOut2 s w o (· ||| ·)
  | .ixor o => vecOut2 s w o (· ^^^ ·)
  | .ishl o => vecOut2 s w o shiftLeft
  | .ishr o => vecOut2 s w o shiftRight
  | .isar o => vecOut2 s w o shiftArith
  | .imin o un => vecOut2 s w o (minOf un)
  | .imax o un => vecOut2 s w o (maxOf un)
  | .icmp o => silent (.prd o.d.toNat (laneSet s o.pr) (fun l => intCond o.cc (readVReg w o.a l) (readVB w o.b l)))
  | .isel o c => silent (inVec s w o.pr o.d (fun l =>
      if inMask (readP w c.toNat) l then readVReg w o.a l else readVB w o.b l))
  | .bfx o sx => vecOut2 s w o (bfxWord sx)
  | .bfd o => vecOut3 s w o bfdWord
  | .popc o => vecOut1 s w o onesOf
  | .clz o => vecOut1 s w o leadingZeros
  | .brev o => vecOut1 s w o reversed
  | .bytsel o => vecOut3 s w o bytselWord
  | .mov pr d b => silent (inVec s w pr d (fun l => readVB w b l))
  | .movi pr d imm => silent (inVec s w pr d (fun _ => imm))
  | _ => none

/-! ### Lanes and predicates (08 R240 to R247) -/

/-- The lowest lane of L. -/
def lowest (m : Mask) : Nat := (lanesOf m).headD 0
/-- The lanes of a mask as a mask again, of those that satisfy a test. -/
def thoseOf (m : Mask) (f : Nat → Bool) : Mask := BitVec.ofFnLE (fun l : Fin 32 => inMask m l.val && f l.val)

def crossResult (s : State) (w : Wave) : Instr → Option (List Out × FpFlags)
  | .shfl o mode => silent (inVec s w o.pr o.d (fun l => laneRead w (vnum w.ix.toNat o.a) (shflSource mode (readVB w o.b l) l)))
  | .vote pr d a inv cond =>
    let m := laneSet s pr
    let x := m &&& (if inv then ~~~(readP w a.toNat) else readP w a.toNat)
    some (Out.scl d.toNat x :: (match cond with
      | .none => []
      | .all p => [.prd p.toNat m (fun _ => decide (x = m))]
      | .any p => [.prd p.toNat m (fun _ => decide (x ≠ 0))]
      | .same p => [.prd p.toNat m (fun _ => decide (x = m ∨ x = 0))]), 0)
  | .redux pr dst a op =>
    let m := laneSet s pr
    silent (match dst with
      | .total d => .scl d.toNat (reduxAll op (readVReg w a) (lanesOf m))
      | .scan d => inVec s w pr d (fun l => reduxAll op (readVReg w a) ((lanesOf m).filter (fun k => decide (k < l)))))
  | .bcast pr d a lane => silent (inVec s w pr d (fun _ => laneRead w (vnum w.ix.toNat a) (match lane with
      | some b => (readS w b.toNat).toNat % 32
      | none => lowest (laneSet s pr))))
  | .matchLanes o wide => silent (inVec s w o.pr o.d (fun l => thoseOf (laneSet s o.pr) (fun k =>
      decide (readVReg w o.a k = readVReg w o.a l) &&
        (!wide || decide (readV w (vnum w.ix.toNat o.a + 1) k = readV w (vnum w.ix.toNat o.a + 1) l)))))
  | .rdlane d a b => silent (.scl d.toNat (laneRead w (vnum w.ix.toNat a) ((readS w b.toNat).toNat % 32)))
  | .wrlane d a b => silent (.vec (vnum w.ix.toNat d) (thoseOf (issPath s).mask (fun l => decide (l = (readS w b.toNat).toNat % 32)))
      (fun _ => readS w a.toNat))
  | .plop o => silent (.prd o.d.toNat (laneSet s o.pr) (fun l => plopBit o.f1 o.f2 (inMask (readP w o.a.toNat) l)
      (inMask (readP w o.b.toNat) l) (inMask (readP w o.c.toNat) l)))
  | .pset pr d mode => silent (.prd d.toNat (laneSet s pr) (fun l => match mode with
      | .zero => false | .one => true
      | .bits b => inMask (readS w b.toNat) l
      | .nonzero b => decide (readS w b.toNat ≠ 0)))
  | .pget d a => silent (.scl d.toNat ((issPath s).mask &&& readP w a.toNat))
  | .pcnt d a => silent (.scl d.toNat (onesOf ((issPath s).mask &&& readP w a.toNat)))
  | .getfmt d => silent (.scl d.toNat ((issFmt s).setWidth 32))
  | _ => none

/-! ### Special registers and derivatives (08 R251, 15 R372, 06 R196) -/

/-- The word of a special register of class S. -/
def specialWord (s : State) (w : Wave) (sr : BitVec 9) : Option Word :=
  if 0x10 ≤ sr.toNat ∧ sr.toNat ≤ 0x1F then (findTeam s w.team).map (fun t => cellsRead t.kregs (sr.toNat - 16))
  else match sr.toNat with
    | 0x02 => some (w.allot.setWidth 32)
    | 0x03 => some (BitVec.ofNat 32 w.stack.length)
    | 0x04 => some (w.fpx.setWidth 32)
    | 0x05 => some (w.quad.setWidth 32)
    | 0x06 => some w.nerr
    | 0x07 => some w.helper
    | 0x08 => some (w.tsbase.setWidth 32)
    | 0x09 => some (wsched s (coreStack w.core))
    | 0x0A => some (w.num.setWidth 32)
    | 0x0B => some (w.core.setWidth 32)
    | 0x0C => some (BitVec.ofNat 32 (16 * w.part.toNat + w.wslot.toNat))
    | 0x0D => some ((waveCtx s w).setWidth 32)
    | 0x0E => some (issPath s).mask
    | 0x0F => some ((flagsWord w).setWidth 32)
    | 0x20 => some (w.cntCopy.setWidth 32)
    | 0x21 => some (w.cntMatrix.setWidth 32)
    | 0x22 => some (w.cntNet.setWidth 32)
    | 0x23 => some (w.cntTest.setWidth 32)
    | 0x24 => some (wsched s (~~~(coreStack w.core)))
    | 0x101 => w.frame.map (fun f => f.setWidth 32)
    | _ => none

/-- The lane of a pair whose bit is set less the one whose bit is clear, rounded as FSUB rounds. -/
def pairDifference (s : State) (w : Wave) (o : Deriv) (b l : Nat) : Word × FpFlags :=
  let lo := if l / b % 2 = 1 then l - b else l
  res32 (addF fmtFP32 (modeOf s o.rm) (f32 (readVReg w o.a (lo + b))) (negVal (f32 (readVReg w o.a lo))))

end Sys2Proof.Claims
end

