-- ==== Sys2Proof/Claims/Traps.lean ====
section
/-! DEFINITION. The words about traps (15 R363 to R375): what a frame and a fault-log record hold, and what entering the
handler, waiting for a frame and ending a team leave. -/

namespace Sys2Proof.Claims
open Sys2Proof.Machine

/-- Header word 0 of a frame, or the CAUSE word of a log record (15 R367). -/
def causeWord (i : TrapInfo) (nent : Nat) : Nat :=
  (causeCode i.cause).toNat + 2 ^ 27 * i.code.toNat + 2 ^ 39 * i.slot.toNat + 2 ^ 41 * (delivCode i.deliv).toNat +
    2 ^ 44 * i.fkind.toNat + 2 ^ 47 * i.flane.toNat + 2 ^ 52 * nent

/-- Fields of a frame (15 R367 to R369): byte offset, bytes, value. -/
def frameFields (tm : Team) (w : Wave) (i : TrapInfo) : List (Nat × Nat × Nat) :=
  [(0, 8, causeWord i ((w.pend.length + w.sq.length) % 64)), (8, 8, i.faddr.toNat), (16, 8, i.tpc.toNat), (24, 8, i.resume.toNat),
    (32, 32, (pathField w.slotA (decide (w.cur = .a))).toNat), (64, 32, (pathField w.slotB (decide (w.cur = .b))).toNat),
    (96, 8, w.stack.length % 2048 + 2 ^ 16 * w.ix.toNat + 2 ^ 32 * w.fpx.toNat + 2 ^ 40 * min 63 w.fair.toNat),
    (104, 8, (flagsWord w).toNat + 2 ^ 32 * (w.cntCopy.toNat + 2 ^ 8 * w.cntMatrix.toNat + 2 ^ 16 * w.cntNet.toNat + 2 ^ 24 * w.cntTest.toNat)),
    (120, 8, i.res.toNat + 2 ^ 32 * i.iter.toNat), (128, 8, tm.launch.toNat + 2 ^ 32 * tm.teamIdx.toNat)] ++
  (List.range 64).map (fun n => (0x100 + 4 * n, 4, (readS w n).toNat)) ++
  (List.range 8).map (fun n => (0x300 + 4 * n, 4, (readP w n).toNat)) ++
  (List.range 128).map (fun n => (0x11400 + 4 * n, 4, (readV w (n / 32) (n % 32)).toNat))

/-- Bytes at the homes that a list of places gives hold the fields. -/
def HoldsAt (t : State) (place : Nat → Loc) (fields : List (Nat × Nat × Nat)) : Prop :=
  ∀ f ∈ fields, ∀ j, j < f.2.1 → homeByte t (place (f.1 + j)) = BitVec.ofNat 8 (f.2.2 / 256 ^ j)

/-- A range of virtual addresses of a context is mapped for an access of a core, each byte to a place of its own, the bytes of a page in
their order; whatever of the core's dirty bytes and of the range itself goes home meanwhile, the mapping stands. -/
structure Mapped (s : State) (core : CoreNum) (c : CtxNum) (base : DWord) (n : Nat) (acc : Access) (place : Nat → Loc) : Prop where
  fits : base.toNat + n ≤ 2 ^ 52
  stands : ∀ k, k < n → Placed s core c (base + BitVec.ofNat 64 k) acc (place k) (fun b => ∃ j, j < n ∧ b = place j)
  runs : ∀ k, k + 1 < n → (base.toNat + k + 1) % 4096 ≠ 0 → place (k + 1) = Loc.plus (place k) 1
  own : ∀ j k, j < n → k < n → place j = place k → j = k
  inside : ∀ k, k < n → (place k).addr < 2 ^ 52

/-- The lowest free frame of a context's pool (15 R365). -/
abbrev LowestFree (x : Ctx) (n : BitVec 12) : Prop :=
  n.toNat < x.tfcount.toNat ∧ n ∉ x.frames ∧ ∀ m : BitVec 12, m.toNat < n.toNat → m ∈ x.frames

/-- The wave w has trapped into its handler (15 R366 R367): the state t holds its frame at home, and the handler path stands in its
slot A; its vector, scalar and predicate registers and its spill stack are as they were. -/
def InHandler (t : State) (w : Wave) (tm : Team) (i : TrapInfo) (n : BitVec 12) (place : Nat → Loc) : Prop :=
  HoldsAt t place (frameFields tm w i) ∧ n ∈ (getCtx t tm.ctx).frames ∧ ∃ u, findWave t w.id = some u ∧
    u.status = .trapped ∧ u.frame = some n ∧ u.slotB = .empty ∧ u.cur = .a ∧
    u.slotA = .ready { pc := (getCtx t tm.ctx).handler, mask := 0xFFFFFFFF, fmt := 0x2000, jpc := 0, jv := false } ∧
    u.ix = 0 ∧ u.fpx = 0 ∧ (∀ f, cellsRead u.flags f = 0) ∧ u.pend = [] ∧ u.sq = [] ∧ u.stack = w.stack ∧
    u.vr = w.vr ∧ u.sr = w.sr ∧ u.pr = w.pr ∧ u.tests = w.tests ∧ u.nets = w.nets ∧ u.cntTest = w.cntTest

/-- What a wave needs to enter its handler (15 R365): an ordinary wave of a context with a handler, not in it, and a free frame
that is mapped. -/
structure CanTrap (s : State) (v : Wave) (tm : Team) (n : BitVec 12) (place : Nat → Loc) : Prop where
  wave : findWave s v.id = some v
  team : findTeam s v.team = some tm
  own : tm.vendor = false ∧ v.frame = none ∧ (getCtx s tm.ctx).handler ≠ 0 ∧ tm.ctx.toNat < s.ctxs.length
  frame : LowestFree (getCtx s tm.ctx) n
  mapped : Mapped s v.core tm.ctx ((getCtx s tm.ctx).tfbase + BitVec.ofNat 64 (71168 * n.toNat)) 71168 .write place
  settled : ∀ p ∈ v.pend, p.begun = false ∧ (isAtomic p.instr = true → p.performed = false)
  sound : s.badAddr = none

/-- The wave with its trapped path, which is then its current one, at RESUME (15 R366 R368). -/
def atResume (v : Wave) (k : PcSlot) (i : TrapInfo) : Wave :=
  setSlot { v with growA := 0, growB := 0, cur := k } k (trappedSlot i (getSlot v k))
/-- A trap at the bundle under way, raised by the instruction itself (10 R301, 15 R363). -/
def ownTrap (s : State) (c : Cause) (code : BitVec 12) (resume : Pc) : TrapInfo :=
  { cause := c, code := code, deliv := .completion, slot := s.iss.pipe, fkind := 0, flane := 0, faddr := 0, tpc := s.iss.pc,
    resume := resume, iter := 0, res := 0 }

/-- Every live wave of a team has exited, its input records are freed and the team will end FAULTED (15 R365, 10 R306). -/
def EndedFaulted (s t : State) (tm : Team) : Prop :=
  (∃ u, findTeam t tm.id = some u ∧ u.faultedMark = true ∧ u.tdone = true ∧ u.recsHeld = false) ∧
    ∀ id x, findWave s id = some x → x.team = tm.id → waveLive x = true →
      ∃ y, findWave t id = some y ∧ y.status = .exited ∧ y.slotA = .empty ∧ y.slotB = .empty

/-- A record of the fault log has been written at FLHEAD and the fault interrupt raised (15 R375). -/
def Logged (s t : State) (tm : Team) (i : TrapInfo) (nested : Bool) : Prop :=
  let x := getCtx s tm.ctx
  let y := getCtx t tm.ctx
  y.flhead.toNat = (x.flhead.toNat + 1) % x.flcount.toNat ∧ y.flSeq = x.flSeq + 1 ∧ t.irqstat.getLsbD 33 = true ∧
    HoldsAt t (fun k => { host := false, addr := x.flbase.toNat + 64 * x.flhead.toNat + k })
      [(0, 8, causeWord i 0), (8, 8, i.faddr.toNat), (16, 8, i.tpc.toNat), (24, 8, tm.launch.toNat + 2 ^ 32 * tm.teamIdx.toNat),
        (38, 1, nested.toNat + 2), (40, 8, x.flSeq % 2 ^ 64), (48, 16, 0)]

/-! ### The handler's instructions (15 R371 R373) -/

/-- The bytes at a range of places, as a core sees them, and as an acquire of it gives them, are those of a list. -/
def HoldsBytes (s : State) (core : CoreNum) (place : Nat → Loc) (bs : List Byte) (n : Nat) : Prop :=
  bs.length = n ∧ ∀ k, k < n → ∀ x, Sees s core (place k) x → x = bs.getD k 0
/-- A wave in its handler issues with its frame mapped: the frame's bytes as its core sees them, fr, are those an acquire gives. -/
structure Handling (s : State) (w v : Wave) (tm : Team) (n : BitVec 12) (place : Nat → Loc) (fr : List Byte) : Prop where
  issuing : Issuing s w v
  drained : Drained v
  same : v.id = w.id ∧ v.core = w.core ∧ v.team = w.team ∧ v.frame = some n ∧ w.frame = some n
  team : findTeam s v.team = some tm ∧ tm.ctx.toNat < s.ctxs.length ∧ tm.status = .running
  reads : Mapped s w.core tm.ctx ((getCtx s tm.ctx).tfbase + BitVec.ofNat 64 (71168 * n.toNat)) 71168 .read place
  writes : Mapped s w.core tm.ctx ((getCtx s tm.ctx).tfbase + BitVec.ofNat 64 (71168 * n.toNat)) 71168 .write place
  aligned : (getCtx s tm.ctx).tfbase.toNat % 4096 = 0
  bytes : HoldsBytes s w.core place fr 71168
  sound : s.badAddr = none

/-- Little-endian number of n bytes of a list at an offset. -/
def numberAt (bs : List Byte) (o n : Nat) : Nat := littleEndian (fun k => bs.getD (o + k) 0) n

/-- What an operation that issues again carries of its entry p, and of the operation o that made the entry: the entry's
instruction and operands; the mask, the format and ix of o (15 R371; notes/assumptions/13.md). -/
abbrev SameWork (q p : PendOp) (o : Option PendOp) : Prop :=
  q.raw = p.raw ∧ q.instr = resolve q.ix.toNat p.raw ∧ q.lanes = p.lanes ∧ q.vals = p.vals ∧ q.svals = p.svals ∧ q.flags = p.flags ∧
    q.pc = p.pc ∧ q.replayed = true ∧ q.performed = false ∧ ∀ x ∈ o.toList, q.ix = x.ix ∧ q.mask = x.mask ∧ q.fmt = x.fmt
/-- Traversal-stack instructions move at their issue (11 R328). -/
def movesStacks : Instr → Bool
  | .trvPush _ _ | .trvPop _ _ _ => true
  | _ => false
/-- The operation of an entry is in the wave again: a store in its store queue, a test in its class, any other outstanding. -/
def IssuedAgain (u : Wave) (p : PendOp) (o : Option PendOp) : Prop :=
  ∃ q, SameWork q p o ∧ (if isStore p.raw then q ∈ u.sq else match p.raw with
    | .trvBox _ | .trvTri _ => q ∈ u.tests
    | _ => q ∈ u.pend)

/-- A slot as a path field restores it: empty, ready, parked or held, by STATE; a parked path whose wait the wave does not hold and
whose bundle does not park is ready (15 R368). -/
def SlotBack (x : BitVec 256) (old : Option WaitFor) (path : Path) (y : SlotState) : Prop :=
  match (x.extractLsb' 194 2).toNat with
  | 0 => y = .empty
  | 1 => y = .ready path
  | 2 => (∃ z, y = .parked path z) ∨ (old = none ∧ y = .ready path)
  | _ => y = .held path

/-- What TRAPRET restores from a frame (15 R371): scalars, predicates, v0 to v3, ix, FPX, FAIR, the spill stack and both paths, the
current one at RESUME. -/
structure Restored (fr : List Byte) (v u : Wave) : Prop where
  status : u.status = .running ∧ u.frame = none
  scl : ∀ k, k < 64 → (readS u k).toNat = numberAt fr (0x100 + 4 * k) 4
  prd : ∀ k, k < 8 → (readP u k).toNat = numberAt fr (0x300 + 4 * k) 4
  low : ∀ k l, k < 4 → l < 32 → (readV u k l).toNat = numberAt fr (0x11400 + 128 * k + 4 * l) 4
  high : ∀ k l, 4 ≤ k → l < 32 → readV u k l = readV v k l
  word12 : u.ix.toNat = numberAt fr 98 1 ∧ u.fpx.toNat = numberAt fr 100 1 % 64 ∧ u.fair.toNat = numberAt fr 101 1 % 128
  stack : let n := numberAt fr 96 2 % 2048
    n - min 4 n ≤ v.stack.length →
    u.stack = (List.range (min 4 n)).map (fun k => entryOfBits (BitVec.ofNat 256 (numberAt fr (0x200 + 32 * k) 32))) ++
      v.stack.drop (v.stack.length - (n - min 4 n))
  paths : let a : BitVec 256 := BitVec.ofNat 256 (numberAt fr 32 32)
    let b : BitVec 256 := BitVec.ofNat 256 (numberAt fr 64 32)
    let resume : Pc := BitVec.ofNat 52 (numberAt fr 24 8)
    if b.getLsbD 193 then u.cur = .b ∧ SlotBack a v.saveA (pathOfField a) u.slotA ∧
      SlotBack b v.saveB { pathOfField b with pc := resume } u.slotB
    else u.cur = .a ∧ SlotBack a v.saveA { pathOfField a with pc := resume } u.slotA ∧
      SlotBack b v.saveB (pathOfField b) u.slotB

/-- The parts of a wave image that stand in the frame (15 R373): header words 0 to 17, scalars, spill entries, predicates, v0 to v3
and the replay queue. -/
def inFrame (k : Nat) : Bool :=
  decide (k < 144) || (decide (0x100 ≤ k) && decide (k < 0x280)) || (decide (0x300 ≤ k) && decide (k < 0x320)) ||
    (decide (0xC00 ≤ k) && decide (k < 0x11600))
/-- The other fields of a wave image that instructions can see (15 R378): QUAD and NERR, TSBASE and HELPER, the per-lane words, the
traversal entries, and the registers from v4. -/
def waveFields (w : Wave) : List (Nat × Nat × Nat) :=
  [(168, 8, w.quad.toNat + 2 ^ 32 * w.nerr.toNat), (176, 8, w.tsbase.toNat + 2 ^ 32 * w.helper.toNat)] ++
  (List.range 32).map (fun l => (0x280 + 4 * l, 4, (cellsRead w.tlane l).toNat + 2 ^ 16 * (cellsRead w.tdepth l).toNat +
    (let r := (cellsRead w.recix l).toNat; if r = 0 then 2 ^ 15 else 2 ^ 10 * ((r - 1) % 32)))) ++
  (List.range 512).map (fun k => (0x400 + 4 * k, 4, (cellsRead w.tstk k).toNat)) ++
  (List.range (32 * (w.allot.toNat - 4))).map (fun k => (0x11600 + 4 * k, 4, (readV w (4 + k / 32) (k % 32)).toNat))

end Sys2Proof.Claims
end

