-- ==== Sys2Proof/Certificates/Slice0/Obligations.lean ====
section
/-! DEFINITION. The statements for the provers. Each docstring names the rules of spec/ it formalises; the words they are
written in stand in Sys2Proof/Claims. -/

open Sys2Proof Sys2Proof.Machine Sys2Proof.Claims

/-! ### Instructions that only write registers (08) -/

/-- 08 R230 to R239: an FP instruction of slot 0 writes round(op), or its condition, in the lanes of L, and raises the flags
of the lanes that are no helper lanes. -/
def Obligations.FloatingPointResults : Prop :=
  ∀ i s w v r, fpResult s w i = some r → Issuing s w v → OperandsOk i w → ∃ t, exec i s = .next t ∧ RegsOnly s t v r.1 r.2

/-- 08 R234 to R237: CVT, SCVT and UNPACK convert each element once, into one register or into several. -/
def Obligations.ConversionResults : Prop :=
  ∀ i s w v r, convertResult s w i = some r → Issuing s w v → OperandsOk i w → ∃ t, exec i s = .next t ∧ RegsOnly s t v r.1 r.2

/-- 07 R211: a half of a paired slot computes d := d op b in the lanes of L. -/
def Obligations.PairedHalfResults : Prop :=
  ∀ i s w v r, pairedResult s w i = some r → Issuing s w v → OperandsOk i w → ∃ t, exec i s = .next t ∧ RegsOnly s t v r.1 r.2

/-- 08 R225 R226: a scalar instruction writes one scalar register, or an even/odd pair, and nothing else. 08 R227 to R229 R248: a
vector integer instruction writes its register, or its predicate, in the lanes of L. -/
def Obligations.IntegerResults : Prop :=
  (
  ∀ i s w v r, scalarResult w i = some r → Issuing s w v → OperandsOk i w → ∃ t, exec i s = .next t ∧ RegsOnly s t v r.1 r.2) ∧
  (
  ∀ i s w v r, vectorResult s w i = some r → Issuing s w v → OperandsOk i w → ∃ t, exec i s = .next t ∧ RegsOnly s t v r.1 r.2)

/-- 08 R240 to R247, 10 R292: the cross-lane and predicate instructions and GETFMT read the lanes their rule names and write
one register. -/
def Obligations.CrossLaneResults : Prop :=
  ∀ i s w v r, crossResult s w i = some r → Issuing s w v → OperandsOk i w → ∃ t, exec i s = .next t ∧ RegsOnly s t v r.1 r.2

/-- 08 R249, 10 R290 R292, 07 R215: IXSET and IXADD write ix, SETFMT the path's format, NOP and the hints nothing. -/
def Obligations.IndexAndFormatWrites : Prop :=
  ∀ s w v,
    (∀ a, Issuing s w v → OperandsOk (.ixset a) w →
      ChangesWave (.ixset a) s { v with ix := (readS w a.toNat).setWidth 8 }) ∧
    (∀ a, Issuing s w v → OperandsOk (.ixadd a) w →
      ChangesWave (.ixadd a) s { v with ix := BitVec.ofNat 8 (w.ix.toNat + (readS w a.toNat).toNat) }) ∧
    (∀ fmt, OnPath s w v → OperandsOk (.setfmtImm fmt) w →
      ChangesWave (.setfmtImm fmt) s (setSlot v s.iss.pcSlot (.ready { issPath s with pc := s.iss.pc + 32, fmt := fmt }))) ∧
    (∀ a, OnPath s w v → OperandsOk (.setfmtReg a) w → fmtOk ((readS w a.toNat).setWidth 14) = true →
      ChangesWave (.setfmtReg a) s
        (setSlot v s.iss.pcSlot (.ready { issPath s with pc := s.iss.pc + 32, fmt := (readS w a.toNat).setWidth 14 }))) ∧
    (∀ a, OnPath s w v → OperandsOk (.setfmtReg a) w → fmtOk ((readS w a.toNat).setWidth 14) = false →
      exec (.setfmtReg a) s = finish (takeTrap s (plainFault .illegal))) ∧
    exec .nop s = .next s ∧ (∀ op rest, exec (.hint op rest) s = .next s)

/-! ### Paths (01, 10) -/

/-- 01 R29, 10 R282 R283: BRA and BRX, uniform and divergent, and where they trap; a BRX target that is no bundle address is
the misaligned-target trap. -/
def Obligations.BranchOutcomes : Prop :=
  ∀ s w v, OnPath s w v →
    (∀ o, OperandsOk (.bra o) w →
      let t := (issPath s).mask &&& predMask w o.pr
      BranchLeaves (.bra o) s v t (bundlesOn s.iss.pc o.tofs) (bundlesOn s.iss.pc o.jofs) ∧ BranchTraps (.bra o) s v t) ∧
    (∀ o, OperandsOk (.brx o) w →
      let t := (issPath s).mask &&& predMask w o.pr
      let x := readSP w o.a.toNat
      (goodTarget x → BranchLeaves (.brx o) s v t (x.setWidth 52) (bundlesOn s.iss.pc o.jofs) ∧ BranchTraps (.brx o) s v t) ∧
      (¬ goodTarget x → exec (.brx o) s = finish (takeTrap s (plainFault .misTarget))))

/-- 10 R285 R286: CALL writes the address of the next bundle into the register pair of every lane of the path and goes to its
target; RET goes to the address that every lane holds, and traps where a lane holds no bundle address (07 R213), or where the
lanes disagree. -/
def Obligations.CallAndReturn : Prop :=
  ∀ s w v, OnPath s w v →
    (∀ tofs d, OperandsOk (.call tofs d) w →
      ∃ u, ChangesWave (.call tofs d) s u ∧ u = { movedTo s v (bundlesOn s.iss.pc tofs) with vr := u.vr } ∧
        ∀ n l, l < 32 → readV u n l =
          if inMask (issPath s).mask l = true ∧ n = vnum w.ix.toNat d then ((s.iss.pc + 32).setWidth 64).extractLsb' 0 32
          else if inMask (issPath s).mask l = true ∧ n = vnum w.ix.toNat d + 1 then
            ((s.iss.pc + 32).setWidth 64).extractLsb' 32 32
          else readV v n l) ∧
    (∀ a x, OperandsOk (.ret a) w → lanesAgree s w a x →
      (goodTarget x → ChangesWave (.ret a) s (movedTo s v (x.setWidth 52))) ∧
      (¬ goodTarget x → exec (.ret a) s = finish (takeTrap s (plainFault .misTarget)))) ∧
    (∀ a, OperandsOk (.ret a) w → ¬ (∃ x, lanesAgree s w a x) → (issPath s).mask ≠ 0 →
      ((∃ l, l < 32 ∧ inMask (issPath s).mask l = true ∧ ¬ goodTarget (readVP w (vnum w.ix.toNat a) l)) →
        exec (.ret a) s = finish (takeTrap s (plainFault .misTarget))) ∧
      ((∀ l, l < 32 → inMask (issPath s).mask l = true → goodTarget (readVP w (vnum w.ix.toNat a) l)) →
        exec (.ret a) s = finish (takeTrap s (plainFault .illConvergence))))

/-- 01 R30, 10 R284: JOIN of a path that is not at its join PC goes on; an arrival that leaves lanes outstanding gives up its
slot, which takes the most recently pushed path; the last arrival merges the lanes that have arrived, with the format the
join entry recorded. -/
def Obligations.JoinOutcomes : Prop :=
  ∀ s w v, OnPath s w v → v.cur = s.iss.pcSlot →
    let p := issPath s
    let k := s.iss.pcSlot
    (¬ (p.jv = true ∧ p.jpc = s.iss.pc) → ChangesWave .join s (movedTo s v (s.iss.pc + 32))) ∧
    (p.jv = true → p.jpc = s.iss.pc → ∀ e a b, JoinAt s.iss.pc v.stack e a b →
      (e.mask &&& ~~~p.mask = 0 → ChangesWave .join s (setSlot { v with stack := a ++ b } k
        (.ready { pc := s.iss.pc + 32, mask := e.arrv ||| p.mask, fmt := e.fmt, jpc := e.jpc, jv := e.jv }))) ∧
      (e.mask &&& ~~~p.mask ≠ 0 → getSlot v (otherSlot k) ≠ .empty →
        let stack := a ++ { e with mask := e.mask &&& ~~~p.mask, arrv := e.arrv ||| p.mask } :: b
        ((∀ x ∈ stack, x.isJoin = true) →
          ChangesWave .join s { setSlot { v with stack := stack } k .empty with cur := otherSlot k, fair := 0 }) ∧
        (∀ c q d, stack = c ++ spilledPath q :: d → (∀ x ∈ c, x.isJoin = true) →
          ChangesWave .join s (setSlot { v with stack := c ++ d } k (.ready q)))))

/-- 01 R32, 10 R287: EXIT of a path takes its lanes out of every join entry and empties its slot, a progress act where a lane
is no helper lane (06 R199); the wave of the last path becomes EXITED, with both slots empty. -/
def Obligations.ExitOutcomes : Prop :=
  ∀ s w v, OnPath s w v → v.cur = s.iss.pcSlot → v.status = .running →
    let p := issPath s
    let k := s.iss.pcSlot
    (getSlot v (otherSlot k) ≠ .empty → (∀ e ∈ v.stack, e.isJoin = true ∧ e.mask &&& ~~~p.mask ≠ 0) →
      ChangesWave .exit s { setSlot v k .empty with
        stack := v.stack.map (fun e => { e with mask := e.mask &&& ~~~p.mask })
        latch := v.latch.filter (fun l => !inMask p.mask l.lane.toNat)
        cur := otherSlot k, fair := 0, spin := if p.mask &&& ~~~v.helper = 0 then v.spin else 0
        backMark := if p.mask &&& ~~~v.helper = 0 then v.backMark else false }) ∧
    (getSlot v (otherSlot k) = .empty → v.stack = [] → v.bfaults = [] → v.laterFaults = [] → (∀ q ∈ v.pend, q.fault = none) → ∃ t u, exec .exit s = .next t ∧ findWave t v.id = some u ∧
      u.status = .exited ∧ u.slotA = .empty ∧ u.slotB = .empty ∧ u.stack = [] ∧ u.vr = v.vr ∧ u.sr = v.sr ∧ u.pr = v.pr ∧
      t.mem = s.mem ∧ t.hostMem = s.hostMem ∧ t.lstore = s.lstore ∧ t.cc = s.cc)

/-- 10 R288: SLOTSW makes the other slot current where it holds a path that is not parked, with the count of 64 at 0; otherwise it
does nothing. Its own path goes on at PC + 32, and reservations stay. -/
def Obligations.SlotswPresentsOther : Prop :=
  ∀ s w v, OnPath s w v → OperandsOk .slotsw w → let y := getSlot v (otherSlot s.iss.pcSlot)
    ((∃ q, y = .ready q ∨ y = .held q) → ∃ u, ChangesWave .slotsw s u ∧ u = { v with cur := otherSlot s.iss.pcSlot, fair := 0 } ∧
      u.resv = v.resv ∧ getSlot u s.iss.pcSlot = .ready { issPath s with pc := s.iss.pc + 32 }) ∧
    ((y = .empty ∨ ∃ q x, y = .parked q x) → ChangesWave .slotsw s v)

/-- 10 R289, 01 R38: REGROUP parks its slot at the instruction, and traps where the stack holds a path. -/
def Obligations.RegroupParks : Prop :=
  ∀ s w v, OnPath s w v → OperandsOk .regroup w →
    ((∀ e ∈ v.stack, e.isJoin = true) → ChangesWave .regroup s (setSlot v s.iss.pcSlot (.parked (issPath s) .regroup))) ∧
    ((∃ e ∈ v.stack, e.isJoin = false) → exec .regroup s = finish (takeTrap s (plainFault .illConvergence)))

/-- 01 R24 R25, 10 R291: RGROW raises the allotment to n, or leaves the slot HELD with its request while granules lack; it
does nothing where n is no more than the wave has. RSHRINK gives the registers from n up back and keeps the others. -/
def Obligations.RegisterAllotment : Prop :=
  ∀ i n s w v, OnPath s w v → OperandsOk i w → s.badAddr = none → v.status = .running →
    ((∃ g : BitVec 6, i = .rgrowImm g ∧ n = 8 * g.toNat) ∨
      (∃ a, i = .rgrowReg a ∧ n = (readS w a.toNat).toNat ∧ 1 ≤ n ∧ n ≤ 256 ∧ n % 8 = 0) →
      (n ≤ v.allot.toNat → exec i s = .next s) ∧
      (v.allot.toNat < n → GrowthFits s v n → ChangesWave i s { v with allot := BitVec.ofNat 9 n }) ∧
      (v.allot.toNat < n → v.allot.toNat / 8 + granulesFree s v.core v.part < n / 8 →
        (∀ x ∈ s.waves, x.core = v.core → x.part = v.part → x.growA = 0 ∧ x.growB = 0) →
        (∃ x ∈ s.waves, x.id ≠ v.id ∧ x.core = v.core ∧ x.part = v.part ∧ waveLive x = true ∧ ∃ p, x.slotA = .ready p) →
        ChangesWave i s (askGrow (setSlot v s.iss.pcSlot (.held (issPath s))) s.iss.pcSlot n))) ∧
    ((∃ g : BitVec 6, i = .rshrinkImm g ∧ n = 8 * g.toNat) ∨
      (∃ a, i = .rshrinkReg a ∧ n = (readS w a.toNat).toNat ∧ 1 ≤ n ∧ n ≤ 256 ∧ n % 8 = 0) →
      (v.allot.toNat ≤ n → exec i s = .next s) ∧
      (n < v.allot.toNat → shrinkWaits s v n = false →
        (∀ x ∈ s.waves, x.core = v.core → x.part = v.part → x.growA = 0 ∧ x.growB = 0) →
        ∃ u, ChangesWave i s u ∧ u = { v with allot := BitVec.ofNat 9 n, vr := u.vr } ∧
          ∀ k l, k < n → l < 32 → readV u k l = readV v k l))

/-- 08 R250 to R253, 15 R372: RDSR reads LANEID and TLANE into a vector register in the lanes of the path, any other register of
the directory into a scalar register; numbers without a register are illegal, and privileged ones trap outside a handler. 08
R250 R253, 00 R10 R11: WRSR writes the issuing wave's FPX (in place of the flags of its earlier bundles), QUAD, NERR and
TSBASE, discarding bits that read as zero, and its team's coefficient registers, where no wave of a lower number has written
the same one in the same clock; a read-only register ignores it. CLOCK reads the cluster or the master count. -/
def Obligations.SpecialRegisters : Prop :=
  (
  ∀ d sr s w v, Issuing s w v → OperandsOk (.rdsr d sr) w →
    (sr = 0 → ∃ t, exec (.rdsr d sr) s = .next t ∧
      RegsOnly s t v [.vec (vnum w.ix.toNat (vregOf d)) (issPath s).mask (fun l => BitVec.ofNat 32 l)] 0) ∧
    (sr = 1 → ∃ t, exec (.rdsr d sr) s = .next t ∧
      RegsOnly s t v [.vec (vnum w.ix.toNat (vregOf d)) (issPath s).mask (fun l => (cellsRead w.tlane l).setWidth 32)] 0) ∧
    (∀ x, specialWord s w sr = some x → ∃ t, exec (.rdsr d sr) s = .next t ∧ RegsOnly s t v [.scl (sregOf d).toNat x] 0) ∧
    (sr = 0x100 → ∀ f, w.frame = some f → ∃ t, exec (.rdsr d sr) s = .next t ∧
      let a := (getCtx s (waveCtx s w)).tfbase + BitVec.ofNat 64 (71168 * f.toNat)
      RegsOnly s t v [.scl (sregOf d).toNat (a.extractLsb' 0 32), .scl ((sregOf d).toNat + 1) (a.extractLsb' 32 32)] 0) ∧
    (0x25 ≤ sr.toNat → sr.toNat ≤ 0xFF → exec (.rdsr d sr) s = finish (takeTrap s (plainFault .illegal))) ∧
    (0x100 ≤ sr.toNat → w.frame = none → exec (.rdsr d sr) s = finish (takeTrap s (plainFault .privilege)))) ∧
  (
  ∀ s w v, Issuing s w v →
    (∀ sr a, OperandsOk (.wrsr sr a) w →
      let x := readS w a.toNat
      (sr = 4 → ChangesWave (.wrsr sr a) s { v with
        fpx := x.setWidth 6 ||| s.iss.raised, pend := v.pend.map (fun p => if p.seq < w.opSeq then { p with noFpx := true } else p) }) ∧
      (sr = 5 → ChangesWave (.wrsr sr a) s { v with quad := x.setWidth 20 }) ∧
      (sr = 6 → ChangesWave (.wrsr sr a) s { v with nerr := x }) ∧
      (sr = 8 → ChangesWave (.wrsr sr a) s { v with tsbase := BitVec.ofNat 16 (x.toNat % 65536 / 4 * 4) }) ∧
      (∀ t, 0x10 ≤ sr.toNat → sr.toNat ≤ 0x1F → findTeam s w.team = some t →
        ∃ k kw, exec (.wrsr sr a) s = .next (setTeam s { t with kregs := k, kwrites := kw }) ∧
          ∀ n, cellsRead k n = if n = sr.toNat - 16 ∧
              ∀ m, coefWritten t (sr.toNat - 16) (coreClock s w.core) = some m → w.num.toNat ≤ m.num.toNat
            then x else cellsRead t.kregs n) ∧
      ((sr.toNat < 4 ∨ sr = 7 ∨ (9 ≤ sr.toNat ∧ sr.toNat ≤ 15) ∨ (0x20 ≤ sr.toNat ∧ sr.toNat ≤ 0x24)) →
        exec (.wrsr sr a) s = .next s) ∧
      (0x25 ≤ sr.toNat → sr.toNat ≤ 0xFF → exec (.wrsr sr a) s = finish (takeTrap s (plainFault .illegal))) ∧
      (0x100 ≤ sr.toNat → w.frame = none → exec (.wrsr sr a) s = finish (takeTrap s (plainFault .privilege)))) ∧
    (∀ cl d, OperandsOk (.clock cl d) w → ∃ t, exec (.clock cl d) s = .next t ∧
      let n : DWord := BitVec.ofNat 64 (if cl then (getCluster s (coreCluster w.core)).clk else (getStack s (coreStack w.core)).mclk)
      RegsOnly s t v [.scl d.toNat (n.extractLsb' 0 32), .scl (d.toNat + 1) (n.extractLsb' 32 32)] 0))

/-- 06 R196, 11 R329: DDX and DDY write the rounded difference of the lane with its bit set and the lane with it clear; 10 R296:
RECINFO writes a word of the record each lane names, and traps in a lane without one. -/
def Obligations.DerivativesAndRecordInfo : Prop :=
  ∀ s w v, Issuing s w v →
    (∀ o, OperandsOk (.ddx o) w → ∃ t, exec (.ddx o) s = .next t ∧
      let f := fun l => pairDifference s w o 1 l
      RegsOnly s t v [.vec (vnum w.ix.toNat o.d) (laneSet s o.pr) (fun l => (f l).1)] (laneFlags w (laneSet s o.pr) (fun l => (f l).2))) ∧
    (∀ o, OperandsOk (.ddy o) w → ∃ t, exec (.ddy o) s = .next t ∧
      let f := fun l => pairDifference s w o 2 l
      RegsOnly s t v [.vec (vnum w.ix.toNat o.d) (laneSet s o.pr) (fun l => (f l).1)] (laneFlags w (laneSet s o.pr) (fun l => (f l).2))) ∧
    (∀ o, OperandsOk (.recinfo o) w → ∀ r : Nat → Rec,
      (∀ l ∈ lanesOf (laneSet s o.pr), recordAt (teamOf s w) w (captured s w v (.recinfo o)) o.ri l = some (r l)) →
      ∃ t, exec (.recinfo o) s = .next t ∧ RegsOnly s t v [.vec (vnum w.ix.toNat o.d) (laneSet s o.pr) (fun l => match o.sel with
        | .lo => (r l).tag.setWidth 32
        | .hi => (r l).tag.extractLsb' 32 32
        | .len => BitVec.ofNat 32 (r l).bytes.length)] 0) ∧
    (∀ o, OperandsOk (.recinfo o) w → ∀ l,
      (lanesOf (laneSet s o.pr)).find? (fun l => (recordAt (teamOf s w) w (captured s w v (.recinfo o)) o.ri l).isNone) = some l →
      exec (.recinfo o) s = finish (takeTrap s { plainFault .recordAccess with lane := BitVec.ofNat 5 l }))

/-! ### Operations that complete later (07 R203, 09) -/

/-- 07 R203, 15 R370: a special function, load, atomic, RECLD or sample issues into its wave with its source values captured,
and the flags that the bundle's set fields name become PENDING; no register, and no byte of any memory, changes. -/
def Obligations.FlaggedOperationsIssue : Prop :=
  ∀ i s w v, waitsToPerform i = true → Issuing s w v → OperandsOk i w → IssueOk i s w →
    ∃ u, ChangesWave i s u ∧
      u = { v with pend := v.pend ++ [captured s w v i], opSeq := v.opSeq + 1, flags := u.flags } ∧ FlagsSet v u (setsOf s) 1

/-- 08 R233, 04 R142: FLAG_COMPLETE of a special function writes its value in every lane of L, raises its flags in the lanes
that are no helper lanes, where no WRSR FPX has come since, and clears the operation's completion flags. -/
def Obligations.SpecialFunctionsComplete : Prop :=
  ∀ s w p f o, Completing s w p → specialOf p.instr = some (f, o) →
    let r := fun l => f (effRound p.fmt o.rm) (applyMod o.ma 31 (opWord p .a 0 l))
    ∃ u, exec .flagComplete s = .next (setWave s u) ∧
      CompletedWave w u p [.vec (vnum 0 o.d) p.lanes (fun l => (r l).1)]
        (if p.noFpx then 0 else orFlags (fun l => (r l).2) (lanesOf (p.lanes &&& ~~~p.helper)))

/-- 09 R255 R259, 03 R107: FLAG_COMPLETE of a plain global load gives every lane of L the bytes of the lane's address, sign-
extended where SX is 1: those its core sees, or, in a load of several lanes whose lines crowd each other out, the byte at home
where its copy was not dirty. No byte of home memory changes but by the write-back of a line that makes room. 09 R259, 03 R99:
FLAG_COMPLETE of a local load of a CORE team gives every lane the bytes of its team's window. -/
def Obligations.LoadsComplete : Prop :=
  (
  ∀ s w p o, ∀ place : Nat → Loc, Completing s w p → p.instr = .ldG o → o.ord = .plain → w.sq = [] → earlierOpen w p.seq = false →
    (∀ l ∈ lanesOf p.lanes, translateAt s w.core (teamOf s w).ctx (opPair p .a l + o.ofs.signExtend 64) .read = .ok (place l) ∧
      loadPoisoned s w.core (place l) (sizeBytes o.size) = false ∧ (place l).addr + sizeBytes o.size ≤ 2 ^ 52) →
    ∃ t u, ∃ got : Nat → Nat → Byte, exec .flagComplete s = .next t ∧ findWave t w.id = some u ∧ WroteBack s t w.core ∧
      CompletedRegs w u p ((List.range (sizeRegs o.size)).map (fun k => .vec (vnum 0 o.d + k) p.lanes (fun l =>
        loadedWord o.sx (sizeBytes o.size) (got l) k))) ∧
      (∀ l ∈ lanesOf p.lanes, ∀ j, j < sizeBytes o.size → Sees s w.core (Loc.plus (place l) j) (got l j)) ∧
      (∀ l, lanesOf p.lanes = [l] → ∀ j, j < sizeBytes o.size → got l j = seenByte s w.core (Loc.plus (place l) j))) ∧
  (
  ∀ s w p o, Completing s w p → p.instr = .ldL o → (isAcquire o.ord = false ∨ (teamOf s w).pair = false) → w.sq = [] →
    earlierOpen w p.seq = false →
    ∃ u, exec .flagComplete s = .next (setWave s u) ∧
      CompletedWave w u p ((List.range (sizeRegs o.size)).map (fun k => .vec (vnum 0 o.d + k) p.lanes (fun l =>
        loadedWord o.sx (sizeBytes o.size)
          (fun j => cellsRead s.lstore (localKey (teamOf s w) (opWord p .a 0 l + o.ofs.signExtend 32).toNat + j)) k))) 0)

/-- 09 R262, 01 R58: a store (ST.g, ST.l, ST.p) issues into its wave's store queue, and no byte of memory changes; where a lane that is no
helper lane stores it is a progress act. -/
def Obligations.StoresQueue : Prop :=
  ∀ i s w v, isStore i = true → Issuing s w v → OperandsOk i w → AccessOk i s w →
    let act := laneSet s (predOfInstr i) &&& ~~~w.helper
    ChangesWave i s { v with
      sq := v.sq ++ [captured s w v i], opSeq := v.opSeq + 1
      spin := if act = 0 then v.spin else 0, backMark := if act = 0 then v.backMark else false }

/-- 09 R262, 03 R107 R112: STORE_DRAIN takes the oldest plain global store into its core's column cache: the bytes of the single
storing lane become dirty there; every other byte is what the core saw, and no byte at home changes but by the write-back of a
line that makes room. 09 R262, 03 R99: STORE_DRAIN of a local store writes the single storing lane's bytes at its team's
window and nothing else of the local store. -/
def Obligations.StoresPerform : Prop :=
  (
  ∀ s w p r o l a, findWave s s.who.wave = some w → w.sq = p :: r → p.instr = .stG o → o.ord = .plain →
    goesOn s w.id = true → queueStopped w = false → (∀ q ∈ w.pend, memOrdered q.instr = true → q.performed = true ∨ q.fault ≠ none) →
    s.badAddr = none → lanesOf (p.lanes &&& ~~~p.helper) = [l] →
    translateAt s w.core (teamOf s w).ctx (opPair p .a l + o.ofs.signExtend 64) .write = .ok a →
    a.addr + sizeBytes o.size ≤ 2 ^ 52 →
    ∃ t, exec .storeDrain s = .next t ∧ (findWave t w.id).map (fun u => u.sq) = some r ∧ WroteBack s t w.core ∧
      (∀ k, k < sizeBytes o.size → seenByte t w.core (Loc.plus a k) = storedByte p l k ∧
        cbDirty (ccByte t w.core (Loc.plus a k)) = true) ∧
      (∀ b, (b.host ≠ a.host ∨ b.addr < a.addr ∨ a.addr + sizeBytes o.size ≤ b.addr) →
        b.addr < 2 ^ 52 → Sees s w.core b (seenByte t w.core b))) ∧
  (
  ∀ s w p r o l, findWave s s.who.wave = some w → w.sq = p :: r → p.instr = .stL o →
    (isRelease o.ord = false ∨ (teamOf s w).pair = false) → goesOn s w.id = true → queueStopped w = false →
    (∀ q ∈ w.pend, memOrdered q.instr = true → q.performed = true ∨ q.fault ≠ none) → s.badAddr = none →
    lanesOf (p.lanes &&& ~~~p.helper) = [l] →
    let a := localKey (teamOf s w) (opWord p .a 0 l + o.ofs.signExtend 32).toNat
    ∃ t, exec .storeDrain s = .next t ∧ (findWave t w.id).map (fun u => u.sq) = some r ∧
      t.mem = s.mem ∧ t.hostMem = s.hostMem ∧ t.cc = s.cc ∧ t.wstore = s.wstore ∧
      ∀ b, cellsRead t.lstore b = if a ≤ b ∧ b < a + sizeBytes o.size then storedByte p l (b - a) else cellsRead s.lstore b)

/-- 09 R263 R264: a local ATOM of one lane returns the old value in D and writes the new one at the banks; 09 R266: an SC of one
lane writes where the lane holds a reservation on the granule and returns 1, and otherwise writes nothing and returns 0. -/
def Obligations.AtomicAndConditionalStore : Prop :=
  (∀ s w p o l, Completing s w p → p.instr = .atomL o → o.size = .b4 → (teamOf s w).pair = false → w.sq = [] →
    earlierOpen w p.seq = false → p.lanes = BitVec.twoPow 32 l → l < 32 → inMask p.helper l = false →
    let a := localKey (teamOf s w) (opWord p .a 0 l + o.ofs.signExtend 32).toNat
    let old := littleEndian (fun j => cellsRead s.lstore (a + j)) 4
    let new := atomNew o.op 32 old (opWord p .c 0 l).toNat (opWord p .d 0 l).toNat
    ∃ t u, exec .flagComplete s = .next t ∧ findWave t w.id = some u ∧ readV u (vnum 0 o.d) l = BitVec.ofNat 32 old ∧
      (∀ n k, k < 32 → (n ≠ vnum 0 o.d ∨ k ≠ l) → readV u n k = readV w n k) ∧ t.mem = s.mem ∧ t.cc = s.cc ∧
      ∀ b, cellsRead t.lstore b =
        if a ≤ b ∧ b < a + 4 then BitVec.ofNat 8 (new / 256 ^ (b - a)) else cellsRead s.lstore b) ∧
  (∀ s w p o l a, Completing s w p → p.instr = .sc o → w.sq = [] → earlierOpen w p.seq = false →
    p.lanes = BitVec.twoPow 32 l → l < 32 → inMask p.helper l = false →
    translateAt s w.core (teamOf s w).ctx (opPair p .a l + o.ofs.signExtend 64) .write = .ok a →
    (BitVec.ofNat 5 l, ({ host := a.host, line := a.addr / 64 } : Granule)) ∉ w.resv →
    ∃ t u, exec .flagComplete s = .next t ∧ findWave t w.id = some u ∧ readV u (vnum 0 o.d) l = 0 ∧
      t.mem = s.mem ∧ t.hostMem = s.hostMem ∧ t.cc = s.cc) ∧
  (∀ s w p o l a, Completing s w p → p.instr = .sc o → o.ord = .relaxed → o.size = .b4 → w.sq = [] →
    earlierOpen w p.seq = false → p.lanes = BitVec.twoPow 32 l → l < 32 → inMask p.helper l = false →
    translateAt s w.core (teamOf s w).ctx (opPair p .a l + o.ofs.signExtend 64) .write = .ok a →
    (BitVec.ofNat 5 l, ({ host := a.host, line := a.addr / 64 } : Granule)) ∈ w.resv →
    ∃ t u, exec .flagComplete s = .next t ∧ findWave t w.id = some u ∧ readV u (vnum 0 o.d) l = 1 ∧
      ∀ k, k < 4 → homeByte t (Loc.plus a k) = (opWord p .c 0 l).extractLsb' (8 * k) 8)

/-! ### Fences, waits, barriers and copies (03, 09) -/

/-- 03 R116, 09 R268: FENCE, CCLEAN and CINV of a wave whose accesses are performed clean and invalidate its core's column cache
as the rows of 03 R116 say, and change no register. 09 R269: PREFETCH writes no register, and no byte at home but by the
write-back of a line that makes room; its core sees every byte as before, and the line of a single lane whose address
translates stands in the column cache, but for sectors that hold an uncorrectable error. -/
def Obligations.CacheInstructions : Prop :=
  (
  ∀ s w v, Issuing s w v → Drained v →
    (∀ ord scope, OperandsOk (.fence ord scope) w →
      FenceLeaves (.fence ord scope) s v scope (decide (ord ≠ .acquire)) (decide (ord ≠ .release))) ∧
    (∀ scope, FenceLeaves (.cclean scope) s v scope true false) ∧
    (∀ scope, FenceLeaves (.cinv scope) s v scope false true)) ∧
  (
  ∀ s w v o, Issuing s w v → OperandsOk (.prefetch o) w → ∃ t, exec (.prefetch o) s = .next t ∧
    WroteBack s t w.core ∧ registersOf t = registersOf s ∧
    (∀ b, b.addr < 2 ^ 52 → Sees s w.core b (seenByte t w.core b)) ∧
    ∀ l a, lanesOf (laneSet s o.pr) = [l] →
      translateAt s w.core (waveCtx s w) (opPair (captured s w v (.prefetch o)) .a l + o.ofs.signExtend 64) .read = .ok a →
      ∀ k, k < 128 → let b : Loc := { a with addr := a.addr / 128 * 128 + k }
        (a.host = true ∨ b.addr / 16 ∉ s.poison) → cbValid (ccByte t w.core b) = true)

/-- 09 R270: WAITADDR makes an acquire load of its word: at the banks, through the column cache, or, in a global wait of a scope
wider than the core, at home with the invalidation of an acquire. It continues with the value in its data register where that
differs from the expected value, and parks otherwise until its timeout of at most 2^20 cluster clocks; an address that does
not translate traps at the PC, and so does a word with an uncorrectable error (DEDUCED from 18 R428, notes/assumptions/51.md). -/
def Obligations.WaitaddrContinuesOrParks : Prop :=
  ∀ s w v o, Issuing s w v → v.core = w.core → v.team = w.team → Drained v → OperandsOk (.waitaddr o) w →
    AccessOk (.waitaddr o) s w →
    let a := waitAddrOf o s
    let c : DWord := if o.size = .b8 then readSP w o.c.toNat else (readS w o.c.toNat).setWidth 64
    let n := (readS w o.d.toNat).toNat
    (∀ place, (o.isLocal = true ∨ (translateAt s w.core (waveCtx s w) a .read = .ok place ∧ watchPoisoned s w o place = false ∧
        place.addr + 8 ≤ 2 ^ 52)) →
      ∃ t u y x, exec (.waitaddr o) s = .next t ∧ findWave t v.id = some u ∧ t.lstore = s.lstore ∧ Stirred v y ∧
        (o.isLocal = true → t.mem = s.mem ∧ t.hostMem = s.hostMem ∧ y = v) ∧
        (o.isLocal = true ∨ wideScope (teamOf s w).pair o.scope = false → WroteBack s t w.core ∧
          x = watchedWord s w o place a.toNat) ∧
        (o.isLocal = false → wideScope (teamOf s w).pair o.scope = true → Invalidated t w.core ∧
          x = BitVec.ofNat 64 (littleEndian (fun k => homeByte t (Loc.plus place k)) (sizeBytes o.size))) ∧
        (x ≠ c → u = { y with sr := u.sr } ∧ ∀ k, readS u k = if k = o.d.toNat then x.setWidth 32
          else if k = o.d.toNat + 1 ∧ o.size = .b8 then x.extractLsb' 32 32 else readS v k) ∧
        (x = c → u = setSlot y s.iss.pcSlot (.parked { issPath s with pc := s.iss.pc }
          (.addr o a c ((getCluster s (coreCluster w.core)).clk + (if n = 0 ∨ 1048576 < n then 1048576 else n)) false
            (getStack s (coreStack w.core)).mclk)))) ∧
    (∀ k, o.isLocal = false → translateAt s w.core (waveCtx s w) a .read = .error k →
      exec (.waitaddr o) s = finish (takeTrap s { cause := .translation, fkind := k, lane := 0, addr := a })) ∧
    (∀ place, o.isLocal = false → translateAt s w.core (waveCtx s w) a .read = .ok place → watchPoisoned s w o place = true →
      exec (.waitaddr o) s = finish (takeTrap s { cause := .softError, fkind := 0, lane := 0, addr := a }))

/-- 09 R276: WAITC and YIELD.copy go on where the wave's counter is at most the given count, YIELD at its continuation, and park
otherwise. -/
def Obligations.CounterWaits : Prop :=
  ∀ s w v, OnPath s w v →
    (∀ cls cnt,
      ((counterOf v cls).toNat ≤ cnt.toNat → exec (.waitc cls cnt) s = .next s) ∧
      (cnt.toNat < (counterOf v cls).toNat →
        ChangesWave (.waitc cls cnt) s (setSlot v s.iss.pcSlot (.parked (issPath s) (.counter cls cnt))))) ∧
    (∀ a cnt, OperandsOk (.yieldCopy a cnt) w →
      let x := readSP w a.toNat
      (goodTarget x → v.cntCopy.toNat ≤ cnt.toNat → ChangesWave (.yieldCopy a cnt) s (movedTo s v (x.setWidth 52))) ∧
      (goodTarget x → cnt.toNat < v.cntCopy.toNat →
        ChangesWave (.yieldCopy a cnt) s (setSlot v s.iss.pcSlot (.parked (issPath s) (.copyYield cnt (x.setWidth 52))))) ∧
      (¬ goodTarget x → exec (.yieldCopy a cnt) s = finish (takeTrap s (plainFault .misTarget))))

/-- 09 R277 R278: BAR.INIT sets the expected count of a barrier whose phase has no arrivals, BAR.EXPECT moves it by a signed
amount; values outside the rules are the barrier-state trap, and a barrier the node does not have is illegal. 03 R124, 09
R277: an arrival counts once in a phase, and in a PAIR team first cleans its core; in a CORE team the arrival that reaches the
expected count completes the phase. BAR.SYNC then waits for the phase it arrived in, BAR.WAIT for a phase that has not
completed. -/
def Obligations.Barriers : Prop :=
  (
  ∀ s w v tm b a, Issuing s w v → findTeam s w.team = some tm →
    let x := (readS w a.toNat).setWidth 8
    let n : Int := (expectedOf tm b : Int) + x.toInt
    (b.toNat < tm.nbars → countOf tm b = 0 → x ≠ 0 →
      ∃ u, exec (.barInit b a) s = .next (setTeam s u) ∧ expectAt tm u b x) ∧
    (b.toNat < tm.nbars → (countOf tm b ≠ 0 ∨ x = 0) →
      exec (.barInit b a) s = finish (takeTrap s (plainFault .barrierState))) ∧
    (b.toNat < tm.nbars → 1 ≤ n → n ≤ 255 → (countOf tm b : Int) < n →
      ∃ u, exec (.barExpect b a) s = .next (setTeam s u) ∧ expectAt tm u b (BitVec.ofInt 8 n)) ∧
    (b.toNat < tm.nbars → 1 ≤ n → n ≤ 255 → (countOf tm b : Int) = n →
      ∃ t, exec (.barExpect b a) s = .next t ∧ PhaseCompletes s t tm b none ∧ t.mem = s.mem ∧ t.cc = s.cc) ∧
    (b.toNat < tm.nbars → (n < 1 ∨ 255 < n ∨ n < countOf tm b) →
      exec (.barExpect b a) s = finish (takeTrap s (plainFault .barrierState))) ∧
    (tm.nbars ≤ b.toNat → exec (.barInit b a) s = finish (takeTrap s (plainFault .illegal)) ∧
      exec (.barExpect b a) s = finish (takeTrap s (plainFault .illegal)))) ∧
  (
  ∀ s w v tm b, OnPath s w v → v.id = w.id → v.team = tm.id → w.team = tm.id → v.core = w.core → v.arrived = w.arrived →
    Drained v → findTeam s tm.id = some tm → b.toNat < tm.nbars → expectedOf tm b ≠ 0 →
    (tm.pair = true → bitOf v.arrived b = false → countOf tm b + 1 < expectedOf tm b →
      ∀ i, i = .barArrive b ∨ i = .barSync b → ∃ t y x, exec i s = .next t ∧ Cleaned s t w.core ∧
        findTeam t tm.id = some y ∧ countAt tm y b (BitVec.ofNat 8 (countOf tm b + 1)) ∧ findWave t v.id = some x ∧
        bitOf x.arrived b = true ∧ registersOf t = registersOf s ∧
        (i = .barSync b → getSlot x s.iss.pcSlot = .parked (issPath s) (.barrier b false))) ∧
    (tm.pair = false →
    let bitb := BitVec.twoPow 16 b.toNat
    let last := countOf tm b + 1 = expectedOf tm b
    (bitOf v.arrived b = true → ChangesWave (.barArrive b) s { v with spin := 0, backMark := false }) ∧
    (bitOf v.arrived b = false → ¬ last → countOf tm b < 255 →
      (∃ u, exec (.barArrive b) s = .next (setWave (setTeam s u) { v with arrived := v.arrived ||| bitb, spin := 0, backMark := false }) ∧
        countAt tm u b (BitVec.ofNat 8 (countOf tm b + 1))) ∧
      (∃ u, exec (.barSync b) s = .next (setWave (setTeam s u)
          { setSlot v s.iss.pcSlot (.parked (issPath s) (.barrier b false)) with arrived := v.arrived ||| bitb }) ∧
        countAt tm u b (BitVec.ofNat 8 (countOf tm b + 1)))) ∧
    (bitOf v.arrived b = false → last →
      (∃ t, exec (.barArrive b) s = .next t ∧ PhaseCompletes s t tm b (some v.id) ∧ t.mem = s.mem ∧ t.cc = s.cc) ∧
      (∃ t u, exec (.barSync b) s = .next t ∧ PhaseCompletes s t tm b (some v.id) ∧ t.mem = s.mem ∧ t.cc = s.cc ∧
        findWave t v.id = some u ∧ bitOf u.pendingBit b = false ∧ getSlot u s.iss.pcSlot = getSlot v s.iss.pcSlot)) ∧
    (bitOf v.arrived b = false → bitOf v.pendingBit b = true →
      ChangesWave (.barWait b) s { v with pendingBit := v.pendingBit &&& ~~~bitb }) ∧
    (¬ (bitOf v.arrived b = false ∧ bitOf v.pendingBit b = true) →
      ChangesWave (.barWait b) s (setSlot v s.iss.pcSlot (.parked (issPath s) (.barrier b false))))))

/-- 09 R271 to R273: ACOPY and ACOPY.2D put the entry of the eight scalar registers into the team's copy ring and raise the wave's
COPY counter; a reserved field is illegal, a range past the window a local-bounds fault, and a full counter an
engine-counter trap. -/
def Obligations.CopiesIssue : Prop :=
  ∀ i twod a s w v tm, ((i = .acopy a ∧ twod = false) ∨ (i = .acopy2d a ∧ twod = true)) → Issuing s w v → Drained v →
    v.team = w.team → findTeam s w.team = some tm → OperandsOk i w →
    let e := entryOf s a
    let lend := ceLaddr e + ceRows e * ceLstride e + ceLen e
    let room := lend ≤ tm.winSize ∧ (ceSv e = true → ceStaddr e + 4 ≤ tm.winSize)
    (entryIllegal e twod tm.nbars = true → exec i s = finish (takeTrap s (plainFault .illegal))) ∧
    (entryIllegal e twod tm.nbars = false → tm.winSize < lend →
      exec i s = finish (takeTrap s { plainFault .localBounds with addr := BitVec.ofNat 64 (ceLaddr e) })) ∧
    (entryIllegal e twod tm.nbars = false → lend ≤ tm.winSize → ceSv e = true → tm.winSize < ceStaddr e + 4 →
      exec i s = finish (takeTrap s { plainFault .localBounds with addr := BitVec.ofNat 64 (ceStaddr e) })) ∧
    (entryIllegal e twod tm.nbars = false → room → w.cntCopy = 255 →
      exec i s = finish (takeTrap s (plainFault .engineCounter))) ∧
    (entryIllegal e twod tm.nbars = false → room → w.cntCopy ≠ 255 → tm.copies.length < 64 →
      exec i s = .next (setWave (setTeam s { tm with copies := tm.copies ++ [
          { seq := v.opSeq, wave := v.id, pc := s.iss.pc, entry := e, units := 0, arrivals := 0, waitPhase := false, code := 0
            stopped := false, errUnits := 0, errFkind := 0, errAddr := 0, finished := false, statusDone := false }] })
        { v with opSeq := v.opSeq + 1, cntCopy := v.cntCopy + 1, spin := 0, backMark := false }))

/-! ### Records (02, 10) -/

/-- 10 R297: QAPPEND appends one record for each lane of L that is no helper lane and that the edge's depth admits, with the
lane's registers as its bytes, and writes those lanes into its predicate over the path. 10 R298, 02 R95: TASKEMIT of a task
team copies the payload into a free slot of the port's ring and adds it to the ring's payloads with the team's next tag; while
all four slots are full its slot is HELD. -/
def Obligations.EmissionsAppend : Prop :=
  (
  ∀ s w v o k e, Issuing s w v → OperandsOk (.qappend o) w → teamEdge s (teamOf s w) o.port.toNat = some (k, e) →
    findTeam s w.team = some (teamOf s w) → v.id = w.id → Drained v →
    e.ring = false → o.port.toNat < (teamNode s (teamOf s w)).outs →
    vnum w.ix.toNat o.a + edgeRegs s (teamOf s w) e ≤ min w.allot.toNat 256 → (teamOf s w).tdone = false →
    popcount (appendMask o s) ≤ rsvLeft (teamOf s w) o.port.toNat →
    ∃ t u rs, exec (.qappend o) s = .next t ∧ findWave t v.id = some u ∧ t.recs = s.recs ++ rs ∧
      rs.map (fun r => r.bytes) = (lanesOf (appendMask o s)).map (laneRecord w o.a (edgeRegs s (teamOf s w) e)) ∧
      (∀ r ∈ rs, r.run = (teamOf s w).run ∧ r.node = BitVec.ofNat 8 e.dst ∧ r.stk = (teamOf s w).stk ∧ r.edge = some k) ∧
      (∀ l, l < 32 → inMask (readP u o.d.toNat) l =
        if inMask (issPath s).mask l then inMask (appendMask o s) l else inMask (readP v o.d.toNat) l) ∧
      u.vr = v.vr ∧ u.sr = v.sr ∧ u.spin = if laneSet s o.pr &&& ~~~w.helper = 0 then v.spin else 0) ∧
  (
  ∀ s w v port a b slot g z, Issuing s w v → OperandsOk (.taskemit port a b) w → Drained v → v.team = w.team →
    findTeam s w.team = some (teamOf s w) → ringSlot s (teamOf s w) port.toNat = some z →
    let x := (readS w a.toNat).toNat
    let n := (readS w b.toNat).toNat
    n % 16 = 0 → 16 ≤ n → n ≤ z → x % 16 = 0 → x + n ≤ (teamOf s w).winSize →
    ringOf (teamOf s w) port = some g →
    (freeRingSlot (teamOf s w) port = some slot →
      ∃ t tm p, exec (.taskemit port a b) s = .next t ∧ findTeam t w.team = some tm ∧
        p.slot = slot ∧ p.bytes = localRead s (localKey (teamOf s w) x) n ∧ p.team = none ∧
        tm = { teamOf s w with rings := (teamOf s w).rings.map (fun r =>
          if r.port = port then { r with pays := r.pays ++ [p] } else r) } ∧ registersOf t = registersOf s) ∧
    (freeRingSlot (teamOf s w) port = none →
      ChangesWave (.taskemit port a b) s (setSlot v s.iss.pcSlot (.held { issPath s with pc := s.iss.pc }))))

/-- 10 R299 R300, 02 R83: TEAMDONE frees the team's input records and returns its reservations, and NODEEXIT also ends every
wave of the team; neither changes memory. -/
def Obligations.TeamsFinish : Prop :=
  ∀ s w v tm, Issuing s w v → findTeam s w.team = some tm → tm.status = .running →
    (recldOpen s w.team = false → ∃ t u, exec .teamdone s = .next t ∧ findTeam t w.team = some u ∧ u.tdone = true ∧
      u.recsHeld = false ∧ (∀ r ∈ u.rsv, r.store = 0 ∧ r.spill = 0 ∧ r.cycle = 0) ∧
      teamWaves t w.team = teamWaves s w.team ∧ t.mem = s.mem ∧ t.hostMem = s.hostMem) ∧
    (recldOpen s w.team = true →
      ChangesWave .teamdone s (setSlot v s.iss.pcSlot (.held { issPath s with pc := s.iss.pc }))) ∧
    (∃ t u, exec .nodeexit s = .next t ∧ findTeam t w.team = some u ∧ u.tdone = true ∧ u.recsHeld = false ∧
      ∀ id x, findWave s id = some x → x.team = w.team → waveLive x = true →
        ∃ y, findWave t id = some y ∧ y.status = .exited ∧ y.slotA = .empty ∧ y.slotB = .empty)

/-- 06 R187 R188, 11 R324: in a wave that a RASTER node feeds, LATCH.B enters the lanes of L and invalidates the column cache,
HELD while an overlapping lane with an earlier place has not released; LATCH.E cleans and releases the lanes that had
entered; in any other wave both do nothing. -/
def Obligations.LatchEntersAndReleases : Prop :=
  ∀ s w v pr, Issuing s w v → v.core = w.core →
    let m := laneSet s pr &&& ~~~w.helper
    (rasterFed s (teamOf s w) = false → exec (.latchB pr) s = .next s ∧ exec (.latchE pr) s = .next s) ∧
    (rasterFed s (teamOf s w) = true → (∀ x ∈ w.latch, inMask m x.lane.toNat = true → x.entered = false ∧ latchBlocked s x = false) →
      (m = 0 → exec (.latchB pr) s = .next s) ∧ (m ≠ 0 → ∃ t u, exec (.latchB pr) s = .next t ∧ findWave t v.id = some u ∧ Invalidated t w.core ∧ t.mem = s.mem ∧
        u = { v with latch := v.latch.map (fun x => if inMask m x.lane.toNat then { x with entered := true } else x) })) ∧
    (rasterFed s (teamOf s w) = true → (∀ x ∈ w.latch, inMask m x.lane.toNat = true → x.entered = false) →
      (∃ x ∈ w.latch, inMask m x.lane.toNat = true ∧ latchBlocked s x = true) →
      ChangesWave (.latchB pr) s (setSlot v s.iss.pcSlot (.held { issPath s with pc := s.iss.pc }))) ∧
    (rasterFed s (teamOf s w) = true → (∃ x ∈ w.latch, inMask m x.lane.toNat = true ∧ x.entered = true) →
      exec (.latchB pr) s = finish (takeTrap s (plainFault .illegal))) ∧
    (rasterFed s (teamOf s w) = true → Drained v → ∃ t u, exec (.latchE pr) s = .next t ∧ findWave t v.id = some u ∧
      Cleaned s t w.core ∧ registersOf t = registersOf s ∧
      u.latch = v.latch.map (fun x =>
        if inMask m x.lane.toNat && x.entered then { x with released := true } else x))

/-- 09 R268 R269, 10 R297 to R300: FENCE, CCLEAN, CINV, PREFETCH, QAPPEND, TASKEMIT, TEAMDONE and NODEEXIT complete: each answers a
next state that holds its effect, in a wave whose accesses are performed, and, where it emits, within its team's reservation
and ring. -/
def Obligations.SynchronisationCompletes : Prop :=
  ∀ s w v, Issuing s w v → v.team = w.team →
    (∀ ord scope, OperandsOk (.fence ord scope) w → Drained v → ∃ t, exec (.fence ord scope) s = .next t ∧
      registersOf t = registersOf s ∧ (wideScope (teamOf s v).pair scope = true →
        (ord ≠ .acquire → Cleaned s t v.core) ∧ (ord ≠ .release → Invalidated t v.core))) ∧
    (∀ scope, Drained v → ∃ t, exec (.cclean scope) s = .next t ∧
      registersOf t = registersOf s ∧ (wideScope (teamOf s v).pair scope = true → Cleaned s t v.core)) ∧
    (∀ scope, Drained v → ∃ t, exec (.cinv scope) s = .next t ∧
      registersOf t = registersOf s ∧ (wideScope (teamOf s v).pair scope = true → Invalidated t v.core)) ∧
    (∀ o, OperandsOk (.prefetch o) w → ∃ t, exec (.prefetch o) s = .next t ∧
      registersOf t = registersOf s ∧ t.lstore = s.lstore ∧ t.wstore = s.wstore ∧ t.teams = s.teams) ∧
    (∀ o k e, OperandsOk (.qappend o) w → Drained v → teamEdge s (teamOf s w) o.port.toNat = some (k, e) → e.ring = false →
      o.port.toNat < (teamNode s (teamOf s w)).outs → vnum w.ix.toNat o.a + edgeRegs s (teamOf s w) e ≤ min w.allot.toNat 256 →
      (teamOf s w).tdone = false → popcount (appendMask o s) ≤ rsvLeft (teamOf s w) o.port.toNat →
      ∃ t rs, exec (.qappend o) s = .next t ∧ t.recs = s.recs ++ rs ∧ rs.length = popcount (appendMask o s)) ∧
    (∀ port a b slot g z tm, OperandsOk (.taskemit port a b) w → Drained v → findTeam s w.team = some tm →
      ringSlot s tm port.toNat = some z → ringOf tm port = some g → freeRingSlot tm port = some slot →
      let x := (readS w a.toNat).toNat
      let n := (readS w b.toNat).toNat
      n % 16 = 0 → 16 ≤ n → n ≤ z → x % 16 = 0 → x + n ≤ tm.winSize →
      ∃ t, exec (.taskemit port a b) s = .next t ∧ ∀ k, k < n →
        cellsRead t.lstore (524288 * corePair tm.core + g.base + slot.toNat * g.slotBytes + k) = cellsRead s.lstore (localKey tm x + k)) ∧
    (∀ tm, findTeam s w.team = some tm → tm.status = .running → recldOpen s w.team = false →
      ∃ t u, exec .teamdone s = .next t ∧ findTeam t w.team = some u ∧ u.tdone = true ∧ u.recsHeld = false) ∧
    (∀ tm, findTeam s w.team = some tm → tm.status = .running →
      ∃ t u, exec .nodeexit s = .next t ∧ findTeam t w.team = some u ∧ u.tdone = true ∧ u.recsHeld = false ∧
        ∀ id x, findWave s id = some x → x.team = w.team → waveLive x = true → ∃ y, findWave t id = some y ∧ y.status = .exited)

/-! ### The matrix engine (05, 11) -/

/-- 05 R147 to R149, 11 R310: a part that passes its checks joins the GATHERING entry of its sequence number, or makes one in the
lowest free place; the fourth makes it READY. A part whose encoding, scalars or format differ from the first's is the
illegal-convergence trap; without a free entry its slot is HELD. -/
def Obligations.MatrixPartsGather : Prop :=
  ∀ i s w v c, matrixInstr i = true → Issuing s w v → v.team = w.team → v.quad = w.quad → v.mparts = w.mparts → Drained v →
    OperandsOk i w → PartOk i s w c →
    let cl := coreCluster (teamOf s w).core
    let same := fun (e : Entry) => e.instr = maskPart i ∧ e.svals = partVals s i ∧ e.fmt = captureFmt (issFmt s)
    (gathering s = none → ∀ ix, freeEntry (getEngine s cl) = some ix →
      exec i s = .next (updEngine (setWave s (afterPart v)) cl (fun g =>
        { g with entries := g.entries ++ [madeEntry s v i ix cl], nextOrder := g.nextOrder + 1 }))) ∧
    (gathering s = none → freeEntry (getEngine s cl) = none →
      ChangesWave i s (setSlot v s.iss.pcSlot (.held { issPath s with pc := s.iss.pc }))) ∧
    (∀ e, gathering s = some e → same e → cl.toNat < s.engines.length →
      ∃ t x, exec i s = .next t ∧ t = { setWave s (afterPart v) with engines := t.engines } ∧ x ∈ (getEngine t cl).entries ∧
        x.idx = e.idx ∧ x.kind = e.kind ∧ x.instr = e.instr ∧ x.parts = e.parts ++ [partFrom s v i] ∧
        x.state = if e.parts.length = 3 then .ready else .gathering) ∧
    (∀ e, gathering s = some e → ¬ same e → exec i s = finish (takeTrap s (plainFault .illConvergence)))

/-- 11 R311 R315 to R317 R321: an operation that has made its pass retires: its entry leaves the table, the MATRIX counter of each
of its waves falls by one, and its tile, local-store bytes, side memory or scalar register hold its result. -/
def Obligations.MatrixOperationsRetire : Prop :=
  ∀ s e tm, Retiring s e tm → ∃ t, exec .matrixRetire s = .next t ∧ SingleResult s t s.who.cl tm e ∧
    ((∀ p ∈ e.parts, ∀ x, findWave s p.wave = some x → x.frame = none) → t.mem = s.mem ∧ t.hostMem = s.hostMem ∧ t.cc = s.cc) ∧
    (∀ x ∈ (getEngine t s.who.cl).entries, x.idx = e.idx → ∃ n, x.kind = .net n) ∧
    ∀ p ∈ e.parts, PartRetired s t p (match e.instr with
      | .mnorm _ d c => some (d, residual (readTile s s.who.cl (tileNum tm c.toNat)) zeroMat)
      | _ => none)

/-- 05 R157 R158, 11 R319: an iteration of MITER writes the iterate, counts it and its residual, and goes on, or retires with the
count and the predicate: all ones where it has converged, else 0; a divergence also traps wave Q0 at its next boundary. -/
def Obligations.MiterIterations : Prop :=
  ∀ s e o tm, (getEngine s s.who.cl).entries.find? iterationReady = some e → s.who.cl.toNat < s.engines.length → e.instr = .miter o →
    (∃ n, e.kind = .quad tm.id n) → findTeam s tm.id = some tm → e.softError = false → s.badAddr = none →
    (e.parts.map (fun p => p.wave)).Nodup →
    let cl := s.who.cl
    let x := readTile s cl (tileNum tm o.x.toNat)
    let y := iterate s cl tm e o x
    let r := residual y x
    let out := loopTest (miterTol e) (miterCap e) e.loop r
    ∃ t, exec .miterIteration s = .next t ∧ t.lstore = s.lstore ∧ t.side = s.side ∧
      (∀ a b, a < 64 → b < 64 → tileElem t cl tm o.x a b = flushF32 (matAt y a b)) ∧
      (out = .goesOn → registersOf t = registersOf s ∧ ∃ z ∈ (getEngine t cl).entries, z.idx = e.idx ∧ z.state = .running ∧
        z.loop = { iter := e.loop.iter + 1, res := r, rprev := e.loop.res, product := 0 } ∧ z.eligibleSince = some (getCluster s cl).clk) ∧
      (out ≠ .goesOn → ∀ p ∈ e.parts, ∀ w, findWave s p.wave = some w → ∃ u, findWave t p.wave = some u ∧
        u.cntMatrix = w.cntMatrix - 1 ∧ u.vr = w.vr ∧ (w.frame = none → waveLive w = true →
          readS u o.d.toNat = BitVec.ofNat 32 (e.loop.iter + 1) ∧
          readP u o.pd.toNat = if out = .converged then 0xFFFFFFFF else 0)) ∧
      (out = .diverged → ∀ w, waveOfNum s tm.id (quadNum e.quad 0) = some w → w.status = .running → w.frame = none →
        (∀ x ∈ s.waves, x.id = w.id → x = w) → ∃ u, findWave t w.id = some u ∧
        ∃ f ∈ u.bfaults, f.cause = .matrixDivergence ∧ f.deliv = .boundary ∧ f.res = r ∧ f.iter = BitVec.ofNat 8 (e.loop.iter + 1))

/-- 05 R153 R155: while no pass is under way the arbiter grants the eligible entry that goes before every other; the first pass of a
quad operation starts at once, any other waits for 64 tokens, which it takes from its stop's pool where that grants them; an
entry that has been eligible for 8,192 cluster clocks is starving. -/
def Obligations.EngineGrantsPasses : Prop :=
  (∀ s, let cl := s.who.cl
    let g := markEligible (getCluster s cl).clk (getEngine s cl)
    cl.toNat < s.engines.length → (∀ e ∈ (getEngine s cl).entries, e.tokens = 0) → (∀ x ∈ (getEngine s cl).gathers, x.closed = false) →
    (engineBusy g = true → ∃ t, exec .engineGrant s = .next t ∧ t = { s with engines := t.engines } ∧ getEngine t cl = g) ∧
    (engineBusy g = false → ∀ e ∈ g.entries, e.eligibleSince ≠ none → mayStart s e = true →
      (∀ x ∈ g.entries, x.eligibleSince ≠ none → mayStart s x = true →
        x = e ∨ entryBefore (getCluster s cl).clk (entryPriority s) e x = true) →
      ∃ t x, exec .engineGrant s = .next t ∧ x ∈ (getEngine t cl).entries ∧ x.idx = e.idx ∧ x.state = .running ∧
        t.waves = s.waves ∧ t.clusters = s.clusters ∧ t.stks = s.stks ∧
        (e.state = .ready → (∃ a b, e.kind = .quad a b) → x.waitTokens = none ∧ x.loop.product = e.loop.product + 1 ∧
          x.eligibleSince = (if isLoop e.instr = true ∧ e.loop.product + 1 < passCount e.instr then some (getCluster s cl).clk else none)) ∧
        (¬ (e.state = .ready ∧ ∃ a b, e.kind = .quad a b) → x.waitTokens = some (getCluster s cl).clk ∧ x.eligibleSince = none))) ∧
  (∀ s e, let cl := s.who.cl
    let c := getCluster s cl
    cl.toNat < s.engines.length → cl.toNat < s.clusters.length →
    (getEngine s cl).entries.find? (fun e => e.waitTokens.isSome) = some e → s.thermtrip = false → c.serving = none →
    (clusterGrants s cl).any (fun b => decide (b.who = .engine)) = true →
    ∃ t x, exec .enginePassTokens s = .next t ∧ x ∈ (getEngine t cl).entries ∧ x.idx = e.idx ∧ x.tokens = 64 ∧ x.waitTokens = none ∧
      (getCluster t cl).pool = c.pool - 64 ∧ (getCluster t cl).passTokens = c.passTokens + 64 ∧ (getCluster t cl).acc = c.acc + 512) ∧
  (∀ s, s.who.cl.toNat < s.engines.length → ∃ t, exec .engineStarving s = .next t ∧ t = { s with engines := t.engines } ∧
    (getEngine t s.who.cl).entries = (getEngine s s.who.cl).entries.map (fun e => { e with starving := e.starving || (match e.eligibleSince with
      | some k => decide (k + 8192 ≤ (getCluster s s.who.cl).clk)
      | none => false) }))

/-- 05 R165 R166 R168 to R171, 11 R323: NEVAL charges the quota, raises the NET counter and puts each valid lane into a gather of its
context and handle; a gather that has lasted 256 cluster clocks closes; a layer pass applies one layer to every row and the last
completes the lanes; the oldest NEVAL without open lanes retires, with NaN and NERR in its invalid lanes. -/
def Obligations.NetworkEvaluation : Prop :=
  (∀ s w v o, Issuing s w v → v.core = w.core → OperandsOk (.neval o) w →
    let m := laneSet s o.pr &&& ~~~w.helper
    let x := waveCtx s w
    let q := ctxStackOf s x (coreStack w.core)
    let p := { captured s w v (.neval o) with
      lanes := m, vals := allLanes.map (fun l => if inMask m l then captureV w (.neval o) l else []) }
    let ok := validLanes o s p
    let short := q.netQ ≠ 0 ∧ q.netQ.toNat < q.usedNet + popcount ok
    (short → exec (.neval o) s = finish (takeTrap s (plainFault .quota))) ∧
    (¬ short → w.cntNet = 255 → exec (.neval o) s = finish (takeTrap s (plainFault .engineCounter))) ∧
    (¬ short → w.cntNet ≠ 255 → nevalEngine o s = none →
      ChangesWave (.neval o) s (setSlot v s.iss.pcSlot (.held { issPath s with pc := s.iss.pc }))) ∧
    (¬ short → w.cntNet ≠ 255 → nevalEngine o s ≠ none → x.toNat < s.ctxs.length → (coreCluster w.core).toNat < s.engines.length →
      ∃ t, exec (.neval o) s = .next t ∧ t = { s with waves := t.waves, ctxs := t.ctxs, engines := t.engines } ∧
        findWave t v.id = some { v with
          nets := v.nets ++ [{ p with left := ok }], opSeq := v.opSeq + 1, cntNet := v.cntNet + 1 } ∧
        (ctxStackOf t x (coreStack w.core)).usedNet = q.usedNet + popcount ok ∧
        ∀ l ∈ lanesOf ok, ∃ g, (g ∈ (getEngine t (coreCluster w.core)).gathers ∨
            ∃ e ∈ (getEngine t (coreCluster w.core)).entries, e.kind = .net g) ∧ g.ctx = x ∧ g.handle = BitVec.ofNat 16 (nevalHandle p l) ∧
          ∃ r ∈ g.rows, r.wave = w.id ∧ r.op = v.opSeq ∧ r.lane.toNat = l ∧
            r.x = (List.range (neIn (netEntry s (coreStack w.core) x (nevalHandle p l)))).map (nevalInput p l))) ∧
  (∀ s x, let cl := s.who.cl
    x ∈ (getEngine s cl).gathers → ((getEngine s cl).gathers.map (fun y => y.idx)).Nodup → x.idx = s.who.idx →
    x.opened + 256 ≤ (getCluster s cl).clk → cl.toNat < s.engines.length →
    ∃ t, exec .gatherClose s = .next t ∧ t = { s with engines := t.engines } ∧
      ({ x with closed := true } ∈ (getEngine t cl).gathers ∨ ∃ e ∈ (getEngine t cl).entries, e.kind = .net { x with closed := true }) ∧
      (∀ y ∈ (getEngine s cl).gathers, y.closed = false → y.idx ≠ s.who.idx → y ∈ (getEngine t cl).gathers) ∧
      ((∀ y ∈ (getEngine s cl).gathers, y.closed = false) → freeEntry (getEngine s cl) ≠ none →
        ∃ e ∈ (getEngine t cl).entries, e.kind = .net { x with closed := true } ∧ e.state = .ready ∧ e.age = x.opened)) ∧
  (∀ s e g, let cl := s.who.cl
    layerEntry (getEngine s cl) = some (e, g) → cl.toNat < s.engines.length → e.softError = false → e.parts = [] →
    layerWaits s (clusterStack cl) g e.loop.product = false →
    let k := clusterStack cl
    let n := netEntry s k g.ctx g.handle.toNat
    let i := e.loop.product
    let row := fun j => weightHalves s k g.ctx (neWeights n i + 2 * neInputs n i * j) (neInputs n i)
    let out := fun (r : GatherRow) => (List.range (neWidth n i)).map (fun j =>
      netOutput ((weightHalves s k g.ctx (neBias n i) (neWidth n i)).getD j 0) (neAct n i) (row j) r.x)
    (i + 1 < neLayers n → ∃ t z, exec .layerPass s = .next t ∧
      z ∈ (getEngine t cl).entries ∧ z.idx = e.idx ∧ z.kind = .net { g with rows := g.rows.map (fun r => { r with x := out r }) } ∧
      z.loop.product = i + 1 ∧ z.tokens = 0 ∧ z.eligibleSince = some (getCluster s cl).clk ∧ t.waves = s.waves) ∧
    (neLayers n ≤ i + 1 → ∃ t, exec .layerPass s = .next t ∧
      (∀ y ∈ (getEngine t cl).entries, y.idx = e.idx → y.state = .ready) ∧
      ∀ r ∈ g.rows, ∀ w p o, findWave s r.wave = some w → p ∈ w.nets → p.seq = r.op → p.instr = .neval o →
        ∃ u q, findWave t r.wave = some u ∧ q ∈ u.nets ∧ q.seq = p.seq ∧ inMask q.left r.lane.toNat = false ∧
          ∀ j, j ≤ o.no1.toNat → Wr.v (vnum 0 o.d + j) r.lane.toNat
            (if j < neWidth n i then (toF32 .ne (f16 ((out r).getD j 0))).1 else 0) ∈ q.results)) ∧
  (∀ s w p r o, findWave s s.who.wave = some w → w.nets = p :: r → p.left = 0 → p.instr = .neval o → w.frame = none →
    waveLive w = true → (∀ x ∈ p.results, ∃ n l y, x = .v n l y ∧ l < 32) →
    ∃ t u, exec .nevalRetire s = .next t ∧ t = setWave s u ∧ u = { w with
        nets := r, cntNet := w.cntNet - 1, nerr := w.nerr ||| invalidLanes p, vr := u.vr } ∧
      (∀ n l y, .v n l y ∈ p.results → (∀ z, .v n l z ∈ p.results → z = y) → readV u n l = y) ∧
      (∀ l, l < 32 → inMask (invalidLanes p) l = true → ∀ j, j ≤ o.no1.toNat → readV u (vnum 0 o.d + j) l = 0x7FC00000) ∧
      ∀ n l, l < 32 → inMask p.lanes l = false → (∀ y, .v n l y ∉ p.results) → readV u n l = readV w n l)

/-! ### Traversal (06, 11) -/

/-- 06 R192 R193, 11 R325 to R327: TRV.BOX and TRV.TRI wait in the TEST class, whose counter rises; the oldest test retires with the
box masks and order, or the hit, of each lane's ray against the bytes its core sees, a miss in helper lanes. An address that does
not translate is a fault at the wave's next bundle boundary. -/
def Obligations.TraversalTests : Prop :=
  (∀ i s w v, (∃ o, i = .trvBox o ∨ i = .trvTri o) → Issuing s w v → Drained v → OperandsOk i w →
    let p := captured s w v i
    (∀ l ∈ lanesOf p.lanes, (opPair p .b l).toNat % testBytes i = 0 ∧ (opPair p .b l).toNat < 2 ^ 52) →
    (w.cntTest ≠ 255 → ChangesWave i s { v with tests := v.tests ++ [p], opSeq := v.opSeq + 1, cntTest := v.cntTest + 1 }) ∧
    (w.cntTest = 255 → exec i s = finish (takeTrap s (plainFault .engineCounter)))) ∧
  (∀ s w p r, ∀ place : Nat → Loc, findWave s s.who.wave = some w → w.tests = p :: r → w.frame = none → waveLive w = true →
    let acting := lanesOf (p.lanes &&& ~~~p.helper)
    let n := testBytes p.instr
    (∀ l ∈ acting, Placed s w.core (waveCtx s w) (opPair p .b l) .read (place l) (fun _ => False) ∧ (place l).addr + n ≤ 2 ^ 52 ∧
      Sound s w.core (place l) n (acting = [l])) →
    let ray := fun l => rayOf ((List.range 8).map (fun k => opWord p .a k l))
    ∃ t u y, ∃ got : Nat → Nat → Byte, exec .testRetire s = .next t ∧ findWave t w.id = some u ∧ WroteBack s t w.core ∧ Stirred w y ∧
      u = { y with tests := r, cntTest := w.cntTest - 1, vr := u.vr, pr := u.pr } ∧
      (∀ l ∈ acting, ∀ j, j < n → Sees s w.core (Loc.plus (place l) j) (got l j)) ∧
      (∀ l, acting = [l] → ∀ j, j < n → got l j = seenByte s w.core (Loc.plus (place l) j)) ∧
    let data := fun l => littleEndian (got l) n
    (∀ o, p.instr = .trvBox o →
      let b := fun l => if inMask p.helper l then boxMiss false else boxTest (ray l) (BitVec.ofNat 1024 (data l))
      (∀ n l, l < 32 → readV u n l =
        if inMask p.lanes l = true ∧ n = vnum 0 o.d then (0 : BitVec 23) ++ bit (b l).malf ++ (b l).mask
        else if inMask p.lanes l = true ∧ n = vnum 0 o.d + 1 then (b l).order else readV w n l) ∧
      (∀ n l, l < 32 → inMask (readP u n) l =
        if inMask p.lanes l = true ∧ n = o.pd.toNat then decide ((b l).mask ≠ 0) else inMask (readP w n) l)) ∧
    (∀ o, p.instr = .trvTri o →
      ∀ l, l < 32 → inMask p.lanes l = true →
        let tri := BitVec.ofNat 512 (data l)
        (∀ h, inMask p.helper l = false → triTest (ray l) tri = some h →
          (List.range 5).map (fun k => readV u (vnum 0 o.d + k) l) = [h.tw, h.u, h.v, triId tri, if h.front then 3 else 1] ∧
            inMask (readP u o.pd.toNat) l = true) ∧
        (inMask p.helper l = true ∨ triTest (ray l) tri = none →
          (List.range 4).map (fun k => readV u (vnum 0 o.d + k) l) = [0x7F800000, 0, 0, 0] ∧
            inMask (readP u o.pd.toNat) l = false ∧
            readV u (vnum 0 o.d + 4) l = if inMask p.helper l = false ∧ triMalformed tri = true then 4 else 0))) ∧
  (∀ s w p r l ls k, findWave s s.who.wave = some w → w.tests = p :: r → w.status = .running → w.frame = none →
    lanesOf p.lanes = l :: ls → inMask p.helper l = false → translateAt s w.core (waveCtx s w) (opPair p .b l) .read = .error k →
    ∃ u f, exec .testRetire s = .next (setWave s u) ∧ u.tests = r ∧ u.cntTest = w.cntTest - 1 ∧ u.vr = w.vr ∧ u.pr = w.pr ∧
      u.bfaults = w.bfaults ++ [f] ∧ f.cause = .translation ∧ f.deliv = .boundary ∧ f.fkind = k ∧ f.flane = BitVec.ofNat 5 l ∧
      f.faddr = opPair p .b l)

/-- 06 R194, 11 R328: TRV.PUSH puts a word on the traversal stack of each lane, and TRV.POP takes the top one of each lane that has
one; entries below the top 16 of a lane lie in its private memory. A push past PSIZE is a private-bounds trap. -/
def Obligations.TraversalStacks : Prop :=
  ∀ s w v, Issuing s w v → Drained v → v.id = w.id → v.core = w.core → v.tdepth = w.tdepth → v.tsbase = w.tsbase → v.team = w.team →
    (∀ pr a, OperandsOk (.trvPush pr a) w → ∀ place : Nat → Loc,
      (∀ l ∈ lanesOf (laneSet s pr), 16 ≤ trvDepth w l → trvDepth w l < 16400 ∧
        w.tsbase.toNat + 4 * (trvDepth w l - 16) + 4 ≤ (getCtx s (waveCtx s w)).psize.toNat ∧
        Placed s v.core (waveCtx s w) (privAddr (teamOf s w) (cellsRead v.tlane l).toNat (w.tsbase.toNat + 4 * (trvDepth w l - 16)))
          .write (place l) (fun b => ∃ l k, k < 4 ∧ b = Loc.plus (place l) k)) →
      ∃ t u, exec (.trvPush pr a) s = .next t ∧ findWave t v.id = some u ∧ t.lstore = s.lstore ∧ t.wstore = s.wstore ∧
        ((∀ l ∈ lanesOf (laneSet s pr), trvDepth w l < 16) → t.mem = s.mem ∧ t.hostMem = s.hostMem ∧ t.cc = s.cc) ∧
        u.vr = v.vr ∧ u.sr = v.sr ∧ u.pr = v.pr ∧
        (∀ l, l < 32 → cellsRead u.tdepth l = if inMask (laneSet s pr) l then BitVec.ofNat 16 (trvDepth w l + 1)
          else cellsRead v.tdepth l) ∧
        (∀ l, l < 32 → inMask (laneSet s pr) l = true → cellsRead u.tstk (32 * (trvDepth w l % 16) + l) = readVReg w a l) ∧
        (∀ l k, l < 32 → (inMask (laneSet s pr) l = false ∨ k % 16 ≠ trvDepth w l % 16) →
          cellsRead u.tstk (32 * (k % 16) + l) = cellsRead v.tstk (32 * (k % 16) + l)) ∧
        (∀ l, laneSet s pr = BitVec.twoPow 32 l → l < 32 → 16 ≤ trvDepth w l → (place l).addr + 4 ≤ 2 ^ 52 → ∀ k, k < 4 →
          seenByte t v.core (Loc.plus (place l) k) =
            (cellsRead v.tstk (32 * (trvDepth w l % 16) + l)).extractLsb' (8 * k) 8)) ∧
    (∀ pr a l, OperandsOk (.trvPush pr a) w → (lanesOf (laneSet s pr)).find? (pushBad s w) = some l →
      exec (.trvPush pr a) s = finish (takeTrap s { plainFault .privateBounds with
        lane := BitVec.ofNat 5 l, addr := BitVec.ofNat 64 (w.tsbase.toNat + 4 * (trvDepth w l - 16)) })) ∧
    (∀ pr d pd, OperandsOk (.trvPop pr d pd) w → ∀ place : Nat → Loc,
      let fills := fun l => l ∈ lanesOf (laneSet s pr) ∧ 16 < trvDepth v l
      (∀ l, fills l → Placed s v.core (waveCtx s w)
          (privAddr (teamOf s w) (cellsRead v.tlane l).toNat (w.tsbase.toNat + 4 * (trvDepth v l - 17))) .read (place l) (fun _ => False) ∧
        (place l).addr + 4 ≤ 2 ^ 52 ∧ Sound s v.core (place l) 4 (∀ k, fills k → k = l)) →
      ∃ t u y p, ∃ got : Nat → Nat → Byte, exec (.trvPop pr d pd) s = .next t ∧ findWave t v.id = some u ∧ WroteBack s t v.core ∧
        Stirred v y ∧ FlagsSet v u (setsOf s) 1 ∧
        u = { y with pend := v.pend ++ [p], opSeq := v.opSeq + 1, flags := u.flags, tdepth := u.tdepth, tstk := u.tstk } ∧
        p.performed = true ∧ p.fault = none ∧ p.flags = setsOf s ∧
        (∀ l, fills l → ∀ k, k < 4 → Sees s v.core (Loc.plus (place l) k) (got l k)) ∧
        (∀ l, fills l → (∀ k, fills k → k = l) → ∀ k, k < 4 → got l k = seenByte s v.core (Loc.plus (place l) k)) ∧
        ∀ l, l < 32 → (inMask (laneSet s pr) l = true → cellsRead u.tdepth l = BitVec.ofNat 16 (trvDepth v l - 1) ∧
            (trvDepth v l = 0 → .p pd.toNat l false ∈ p.results ∧ ∀ n x, .v n l x ∉ p.results) ∧
            (trvDepth v l ≠ 0 → .p pd.toNat l true ∈ p.results ∧
              .v (vnum w.ix.toNat d) l (cellsRead v.tstk (32 * ((trvDepth v l - 1) % 16) + l)) ∈ p.results) ∧
            (16 < trvDepth v l → cellsRead u.tstk (32 * ((trvDepth v l - 1) % 16) + l) =
              BitVec.ofNat 32 (littleEndian (got l) 4))) ∧
          (inMask (laneSet s pr) l = false → cellsRead u.tdepth l = cellsRead v.tdepth l))

/-! ### Traps and the handler (15, 10) -/

/-- 15 R363 R365 to R367: a trap of an ordinary wave takes the lowest free frame, writes it to memory and enters the handler; with no
free frame the wave waits; without a handler, in a handler, and in a wave of a vendor program the team ends FAULTED with one
log record. A trap met at issue is taken at the bundle's PC, and resumes there. -/
def Obligations.TrapEntry : Prop :=
  (∀ s v tm n place k i, CanTrap s v tm n place →
    ∃ t, finish (trapWave s v.id k i) = .next t ∧ InHandler t (atResume v k i) tm i n place) ∧
  (∀ s v tm k i, findWave s v.id = some v → findTeam s v.team = some tm → tm.vendor = false → v.frame = none →
    (getCtx s tm.ctx).handler ≠ 0 → (∀ m : BitVec 12, m.toNat < (getCtx s tm.ctx).tfcount.toNat → m ∈ (getCtx s tm.ctx).frames) →
    trapWave s v.id k i = setWave s { atResume v k i with frameWait := some i }) ∧
  (∀ s v tm k i, findWave s v.id = some v → findTeam s v.team = some tm → tm.ctx.toNat < s.ctxs.length → tm.status = .running →
    (tm.vendor = true ∨ v.frame ≠ none ∨ (getCtx s tm.ctx).handler = 0) →
    (∀ x ∈ s.waves, x.team = tm.id → endFaults x = []) → tm.id = v.team → s.badAddr = none →
    let x := getCtx s tm.ctx
    (x.flcount = 0 → ∃ t, finish (trapWave s v.id k i) = .next t ∧ EndedFaulted s t tm ∧ t.mem = s.mem) ∧
    (x.flcount ≠ 0 → (x.flhead.toNat + 1) % x.flcount.toNat ≠ x.fltail.toNat % x.flcount.toNat →
      x.flbase.toNat + 64 * x.flhead.toNat + 64 ≤ s.svc.installed →
      ∃ t, finish (trapWave s v.id k i) = .next t ∧ EndedFaulted s t tm ∧ Logged s t tm i (v.frame.isSome && !tm.vendor))) ∧
  ∀ s f, takeTrap s f = trapWave s s.iss.wave s.iss.pcSlot
    { cause := f.cause, code := if f.cause = .translation then (0 : BitVec 9) ++ f.fkind else 0, deliv := .issue, slot := s.iss.pipe,
      fkind := f.fkind, flane := f.lane, faddr := f.addr, tpc := s.iss.pc, resume := s.iss.pc, iter := 0, res := 0 }

/-- 10 R301, 15 R356 R363 R365: TRAP traps and resumes at the next bundle, BPT traps where BPTEN is 1 and resumes at itself; a fault
that waits for a boundary, and a fetch that does not translate, trap the wave before its next bundle; a wave that waits for a
frame takes one when it is free. -/
def Obligations.TrapsRaised : Prop :=
  (∀ s w v tm n place code, Issuing s w v → CanTrap s v tm n place → waveCtx s w = tm.ctx →
    (OperandsOk (.trap code) w → ∃ t, exec (.trap code) s = .next t ∧
      let i := ownTrap s .software code (s.iss.pc + 32)
      InHandler t (atResume v s.iss.pcSlot i) tm i n place) ∧
    (OperandsOk (.bpt code) w → (getCtx s tm.ctx).bpten = true → ∃ t, exec (.bpt code) s = .next t ∧
      let i := ownTrap s .breakpoint code s.iss.pc
      InHandler t (atResume v s.iss.pcSlot i) tm i n place)) ∧
  (∀ s w v code, Issuing s w v → OperandsOk (.bpt code) w → (getCtx s (waveCtx s w)).bpten = false → exec (.bpt code) s = .next s) ∧
  (∀ s v tm n place i r e, (e = .boundaryFault ∨ e = .trapEntry) → CanTrap s v tm n place → s.who.wave = v.id → mayIssue s v = true →
    inTurn s v = true → v.bfaults = i :: r → ∃ t, exec e s = .next t ∧
      let j := { i with resume := ((slotPath (getSlot v v.cur)).getD blankPath).pc }
      InHandler t (atResume v v.cur j) tm j n place) ∧
  (∀ s v tm n place p f e, (e = .fetchFault ∨ e = .trapEntry) → CanTrap s v tm n place → s.who.wave = v.id → mayIssue s v = true →
    inTurn s v = true → v.bfaults = [] → v.fair.toNat < 64 → getSlot v v.cur = .ready p →
    fetchBits s v.core (waveCtx s v) p.pc = .error f → f.cause = .translation → ∃ t, exec e s = .next t ∧
      let i : TrapInfo := { cause := f.cause, code := (0 : BitVec 9) ++ f.fkind, deliv := .issue, slot := 3, fkind := f.fkind
                            flane := f.lane, faddr := f.addr, tpc := p.pc, resume := p.pc, iter := 0, res := 0 }
      InHandler t (atResume v v.cur i) tm i n place) ∧
  (∀ s v tm n place i, CanTrap s v tm n place → s.who.wave = v.id → waveLive v = true → waveStopped s v = false → inTurn s v = true →
    v.frameWait = some i → ∃ t, exec .frameWaitEnd s = .next t ∧ InHandler t v tm i n place)

/-- 10 R302 to R306, 15 R371 R373: outside a handler RPLAY, TRAPRET, SAVEW, RESTW and HALTW are the privilege trap. In a handler RPLAY
issues an entry of the frame again and marks it replayed; TRAPRET issues the entries that are left, restores the trapped path
from the frame and frees it; SAVEW writes the wave image; RESTW reads one into the wave and its frame; HALTW ends the team
FAULTED. -/
def Obligations.HandlerInstructions : Prop :=
  (∀ i a s w v, i ∈ [Instr.rplay a, .trapret, .savew a, .restw a, .haltw] → Issuing s w v → OperandsOk i w → w.frame = none →
    exec i s = finish (takeTrap s (plainFault .privilege))) ∧
  (∀ s w v tm n place fr, Handling s w v tm n place fr →
    (∀ a p, OperandsOk (.rplay a) w →
      let e := (readS w a.toNat).toNat % 32
      let bad := numberAt fr 6 2 / 16 % 64 ≤ e ∨ numberAt fr 116 4 / 2 ^ e % 2 = 1 ∨ frEntry fr e = none
      (bad → exec (.rplay a) s = finish (takeTrap s (plainFault .illegal))) ∧
      (¬ bad → frEntry fr e = some p → ∀ f, entryFault s v (entryOp v e p) = some f → exec (.rplay a) s = finish (takeTrap s f)) ∧
      (¬ bad → frEntry fr e = some p → entryFault s v (entryOp v e p) = none → movesStacks p.raw = false →
        ∃ t u, exec (.rplay a) s = .next t ∧ findWave t v.id = some u ∧
        IssuedAgain u p v.replayOps[e]? ∧ u.vr = v.vr ∧ u.sr = v.sr ∧ u.pr = v.pr ∧ WroteBack s t w.core ∧
        littleEndian (fun k => seenByte t w.core (place (116 + k))) 4 = numberAt fr 116 4 + 2 ^ e)) ∧
    (OperandsOk .trapret w →
      (∀ f, entriesFault s fr (openEntries fr) = some f → exec .trapret s = finish (takeTrap s f)) ∧
      (entriesFault s fr (openEntries fr) = none → numberAt fr 24 8 % 32 ≠ 0 →
        exec .trapret s = finish (takeTrap s (plainFault .misTarget))) ∧
      (entriesFault s fr (openEntries fr) = none → numberAt fr 24 8 % 32 = 0 →
        (∀ e ∈ openEntries fr, ∀ p, frEntry fr e = some p → movesStacks p.raw = false) →
        ∃ t u, exec .trapret s = .next t ∧ findWave t v.id = some u ∧ Restored fr v u ∧
        n ∉ (getCtx t tm.ctx).frames ∧
        (∀ e ∈ openEntries fr, ∀ p, frEntry fr e = some p → IssuedAgain u p v.replayOps[e]?) ∧
        (∀ f : BitVec 4, f.toNat < 12 → f ∉ entryFlags fr (List.range (frNent fr)) → cellsRead u.flags f.toNat = 0))) ∧
    (∀ a ip, OperandsOk (.savew a) w → (imageAddr a s).toNat % 256 = 0 → v.allot = w.allot → 4 ≤ w.allot.toNat → w.allot.toNat ≤ 256 →
      Mapped s w.core tm.ctx (imageAddr a s) (0x11400 + 128 * w.allot.toNat) .write ip →
      (∀ j k, j < 71168 → k < 0x11400 + 128 * w.allot.toNat → place j ≠ ip k) →
      ∃ t, exec (.savew a) s = .next t ∧ HoldsAt t ip (waveFields v) ∧ registersOf t = registersOf s ∧
        ∀ k, k < 71168 → inFrame k = true → homeByte t (ip k) = fr.getD k 0) ∧
    (∀ a ip im, OperandsOk (.restw a) w → (imageAddr a s).toNat % 256 = 0 → v.allot = w.allot →
      let m := 8 * numberAt im 137 1
      let field := fun (o n : Nat) => numberAt im o n
      4 ≤ m → m ≤ w.allot.toNat → m ≤ 256 → HoldsBytes s w.core ip im (0x11400 + 128 * m) →
      Mapped s w.core tm.ctx (imageAddr a s) (0x11400 + 128 * m) .read ip →
      (∀ j k, j < 71168 → k < 0x11400 + 128 * m → place j ≠ ip k) →
      ∃ t u, exec (.restw a) s = .next t ∧ findWave t v.id = some u ∧
        (∀ k, k < 71168 → inFrame k = true → seenByte t w.core (place k) = im.getD k 0) ∧
        (∀ k l, 4 ≤ k → k < m → l < 32 → (readV u k l).toNat = field (0x11400 + 128 * k + 4 * l) 4) ∧
        (∀ k, k < 512 → (cellsRead u.tstk k).toNat = field (0x400 + 4 * k) 4) ∧
        (∀ l, l < 32 → (cellsRead u.tlane l).toNat = field (0x280 + 4 * l) 2 % 1024 ∧
          (cellsRead u.tdepth l).toNat = field (0x282 + 4 * l) 2) ∧
        u.age = field 144 8 ∧ u.spin.toNat = field 152 4 ∧ u.awaited.toNat = field 160 2 ∧ u.arrived.toNat = field 162 2 ∧
        u.pendingBit.toNat = field 164 2 ∧ u.nerr.toNat = field 172 4 ∧ u.tsbase.toNat = field 176 2 ∧ u.helper.toNat = field 180 4 ∧
        (∀ k l, k < 4 → l < 32 → readV u k l = readV v k l) ∧ u.sr = v.sr ∧ u.pr = v.pr) ∧
    (OperandsOk .haltw w → (∀ x ∈ s.waves, x.team = tm.id → endFaults x = []) →
      let x := getCtx s tm.ctx
      (x.flcount = 0 → ∃ t, exec .haltw s = .next t ∧ EndedFaulted s t tm ∧ t.mem = s.mem) ∧
      (x.flcount ≠ 0 → (x.flhead.toNat + 1) % x.flcount.toNat ≠ x.fltail.toNat % x.flcount.toNat →
        x.flbase.toNat + 64 * x.flhead.toNat + 64 ≤ s.svc.installed →
        ∃ t, exec .haltw s = .next t ∧ EndedFaulted s t tm ∧ t.irqstat.getLsbD 33 = true ∧
          (getCtx t tm.ctx).flhead.toNat = (x.flhead.toNat + 1) % x.flcount.toNat ∧
          HoldsAt t (fun k => { host := false, addr := x.flbase.toNat + 64 * x.flhead.toNat + k })
            [(0, 6, numberAt fr 0 6), (6, 1, numberAt fr 6 1 % 16), (7, 1, numberAt fr 7 1 / 4 * 4), (8, 8, numberAt fr 8 8), (38, 1, 2)])))

/-! ### Keyway and the queues (16) -/

/-- 16 R388 R389: QLI, QLIH, QADD, QADDI, QSUB, QAND, QOR, QSHL and QSHR write one lane register; QLD reads and QST writes the
aligned 64-bit word at its home. A word that is misaligned, unmapped or in error is queue error 0x03. 16 R388 R389: BR goes to
its target where its condition holds, LOOP while its register is not yet 0, CALL with the next word on the return stack; a
target outside the device's part of the ring is queue error 0x02, a full stack at CALL and an empty one at RET 0x04. RET goes
back, END frees the ring up to the next word. -/
def Obligations.KeywayWords : Prop :=
  (
  (∀ i s r, laneValue s i = some r → ∃ t, exec i s = .next t ∧ LaneWrites s t r.1 r.2) ∧
  ∀ s, s.iss.queue.toNat < s.queues.length → let x := getQueue s s.iss.queue
    (∀ d a imm l, let p := laneReg s a + BitVec.ofInt 64 imm.toInt
      (WordAt s x.ctx p .read l → NoTags s l → ∃ t, exec (.qld d a imm) s = .next t ∧ LaneWrites s t d (homeWord s l)) ∧
      (NoWord s x.ctx p .read → LaneStops (.qld d a imm) s 3)) ∧
    (∀ a b imm l, let p := laneReg s a + BitVec.ofInt 64 imm.toInt
      (WordAt s x.ctx p .write l → ∃ t, exec (.qst a b imm) s = .next t ∧ WordWritten s t l (laneReg s b) ∧
        (getQueue t s.iss.queue).pc = (goneTo x (nextWord x)).pc ∧ (getQueue t s.iss.queue).regs = x.regs) ∧
      (NoWord s x.ctx p .write → LaneStops (.qst a b imm) s 3))) ∧
  (
  ∀ s, let q := s.iss.queue
    let x := getQueue s q
    (∀ cc a b imm,
      (¬ holds cc (laneReg s a) (laneReg s b) → ∃ t, exec (.br cc a b imm) s = .next t ∧ LaneIs s t (goneTo x (nextWord x))) ∧
      (holds cc (laneReg s a) (laneReg s b) → insideRing x (wordsOn x imm) →
        ∃ t, exec (.br cc a b imm) s = .next t ∧ LaneIs s t (goneTo x (wordsOn x imm))) ∧
      (holds cc (laneReg s a) (laneReg s b) → ¬ insideRing x (wordsOn x imm) → LaneStops (.br cc a b imm) s 2)) ∧
    (∀ d imm, let v := laneReg s d - 1
      (v = 0 → ∃ t, exec (.loop d imm) s = .next t ∧ LaneWrites s t d 0) ∧
      (v ≠ 0 → insideRing x (wordsOn x imm) → ∃ t y, exec (.loop d imm) s = .next t ∧ LaneIs s t y ∧
        y = { goneTo x (wordsOn x imm) with regs := y.regs } ∧
        ∀ r : QReg, cellsRead y.regs r.toNat = if r = d then v else laneReg s r) ∧
      (v ≠ 0 → ¬ insideRing x (wordsOn x imm) → LaneStops (.loop d imm) s 2)) ∧
    (∀ imm, (4 ≤ x.rstack.length → LaneStops (.keywayCall imm) s 4) ∧
      (x.rstack.length < 4 → ¬ insideRing x (wordsOn x imm) → LaneStops (.keywayCall imm) s 2) ∧
      (x.rstack.length < 4 → insideRing x (wordsOn x imm) → ∃ t, exec (.keywayCall imm) s = .next t ∧ LaneIs s t { goneTo x (wordsOn x imm) with rstack := BitVec.ofNat 24 (nextWord x % 2 ^ x.qsize.toNat) :: x.rstack })) ∧
    (x.rstack = [] → LaneStops .keywayRet s 4) ∧
    (∀ a r, x.rstack = a :: r → ∃ t, exec .keywayRet s = .next t ∧ LaneIs s t { goneTo x a.toNat with rstack := r }) ∧
    (∀ int, ∃ t, exec (.endq int) s = .next t ∧
      getQueue t q = (if q.toNat < s.queues.length then
        { goneTo x (nextWord x) with qfree := BitVec.ofNat 24 (nextWord x % 2 ^ x.qsize.toNat) } else queueReset) ∧
      (int = true → t.irqstat = s.irqstat ||| BitVec.twoPow 64 (q.toNat + 1)) ∧ (int = false → t.irqstat = s.irqstat)))

/-- 16 R390 to R394: SIGNAL sets or adds to the word of a signal, and interrupts where INT is 1; WAIT goes on with 0 where its condition
holds and makes the queue WAITING otherwise, which goes on with 1 at its timeout; COPY takes its block, and COPY_COMPLETION moves
its units and goes on; LAUNCH starts a run with its records, or writes the status of the check that failed. -/
def Obligations.KeywaySignalsAndLaunches : Prop :=
  ∀ s, s.iss.queue.toNat < s.queues.length → let q := s.iss.queue
    let x := getQueue s q
    (∀ op sys int a b l, WordAt s x.ctx (laneReg s a) .write l → NoTags s l → ∃ t, exec (.signal op sys int a b) s = .next t ∧
      WordWritten s t l (match op with
        | .set => laneReg s b
        | .add => homeWord s l + laneReg s b) ∧
      (getQueue t q).pc = (goneTo x (nextWord x)).pc ∧ (int = true → t.irqstat.getLsbD (q.toNat + 1) = true) ∧
      (int = false → t.irqstat = s.irqstat)) ∧
    (∀ op sys int a b, NoWord s x.ctx (laneReg s a) .write → LaneStops (.signal op sys int a b) s 3) ∧
    (∀ cc sys d a b us l, WordAt s x.ctx (laneReg s a) .read l → NoTags s l →
      (holds cc (homeWord s l) (laneReg s b) → ∃ t, exec (.wait cc sys d a b us) s = .next t ∧ LaneWrites s t d 0) ∧
      (¬ holds cc (homeWord s l) (laneReg s b) → ∃ t, exec (.wait cc sys d a b us) s = .next t ∧
        let k := (getStack s 0).mclk
        let y : QWait := { addr := laneReg s a, cc := cc, d := d, b := b, us := us, first := k, woken := false, last := k }
        LaneIs s t { x with state := .waiting, wait := some y })) ∧
    (∀ cc sys d a b us, NoWord s x.ctx (laneReg s a) .read → LaneStops (.wait cc sys d a b us) s 3) ∧
    (∀ w, x.wait = some w → x.state = .waiting → x.paused = false →
      (w.us ≠ 0 → w.first + Config.clocksPerUs * w.us.toNat ≤ (getStack s 0).mclk →
        ∃ t, exec (.waitWake q) s = .next t ∧ LaneWrites s t w.d 1) ∧
      (w.us = 0 → w.woken = true → ∀ l, WordAt s x.ctx w.addr .read l → NoTags s l → holds w.cc (homeWord s l) (laneReg s w.b) →
        ∃ t, exec (.waitWake q) s = .next t ∧ LaneWrites s t w.d 0)) ∧
    (∀ a b, readBlock s x.ctx (laneReg s a) 32 = some b →
      (copyBad b = true → LaneStops (.copy a) s 1) ∧
      (copyBad b = false → cbWeight b = true → (getCtx s x.ctx).wsize.toNat < cbDst b + cbLen b → LaneStops (.copy a) s 6) ∧
      (copyBad b = false → (cbWeight b = true → cbDst b + cbLen b ≤ (getCtx s x.ctx).wsize.toNat) → ∃ t, exec (.copy a) s = .next t ∧
        LaneIs s t { x with copy := some { block := BitVec.ofNat 256 b, units := 0 } })) ∧
    (∀ a, readBlock s x.ctx (laneReg s a) 32 = none → LaneStops (.copy a) s 3) ∧
    (∀ k l, let b := k.block.toNat
      x.copy = some k → s.badAddr = none → s.who.count = 1 → 16 * (k.units + 1) ≤ cbLen b →
      translate s x.ctx (BitVec.ofNat 64 (cbSrc b + 16 * k.units)) .read = .ok l → rangePoisoned s l 16 = false →
      let moves := fun (t : State) => exec (.copyCompletion q) s = .next t ∧
        (cbLen b / 16 = k.units + 1 → (getQueue t q).copy = none ∧ (getQueue t q).pc = (goneTo x (nextWord x)).pc) ∧
        (k.units + 1 < cbLen b / 16 → (getQueue t q).copy = some { k with units := k.units + 1 } ∧ (getQueue t q).pc = x.pc)
      (cbWeight b = false → ∀ m, translate s x.ctx (BitVec.ofNat 64 (cbDst b + 16 * k.units)) .write = .ok m → ∃ t, moves t ∧
        (∀ j, j < 16 → homeByte t (Loc.plus m j) = homeByte s (Loc.plus l j)) ∧
        ∀ y, (y.host ≠ m.host ∨ y.addr < m.addr ∨ m.addr + 16 ≤ y.addr) → homeByte t y = homeByte s y) ∧
      (cbWeight b = true → (getCtx s x.ctx).state ≠ .live →
        let a := (getCtx s x.ctx).wbase.toNat + cbDst b + 16 * k.units
        (bankRetired s 0 (weightBank a) = false ∨ bankRetired s 1 (weightBank a) = false) → a + 16 ≤ 402653184 → ∃ t, moves t ∧
          (∀ j, j < 16 → cellsRead t.wstore (a + j) = homeByte s (Loc.plus l j) ∧
            cellsRead t.wstore (402653184 + a + j) = homeByte s (Loc.plus l j)) ∧ t.mem = s.mem)) ∧
    (∀ d a, ((getCtx s x.ctx).state = .saved ∨ (getCtx s x.ctx).state = .resetting) →
      ∃ t, exec (.launch d a) s = .next t ∧ LaneWrites s t d 0x12) ∧
    (∀ d a b h g, (getCtx s x.ctx).state ≠ .saved → (getCtx s x.ctx).state ≠ .resetting →
      readBlock s x.ctx (laneReg s a) 64 = some b → (launchBad b = true → ∃ t, exec (.launch d a) s = .next t ∧ LaneWrites s t d 0x11) ∧
      (launchBad b = false → readAt s x.ctx (lbGraph b) 64 = some h → lbNode b < hdrNodes (leNat h) →
        readGraph s (readAt s x.ctx) (lbGraph b) (leNat h) = some g →
        (g.status ≠ 0 → ∃ t, exec (.launch d a) s = .next t ∧ LaneWrites s t d (g.status.setWidth 64)) ∧
        (g.status = 0 → noRoom s x.ctx g = true → ∃ t, exec (.launch d a) s = .next t ∧ LaneWrites s t d 6) ∧
        (g.status = 0 → noRoom s x.ctx g = false → g.rasters = [] → s.badAddr = none → x.ctx.toNat < s.ctxs.length →
          (∀ y ∈ s.runs, y.id ≠ s.nextId) →
          let size := (g.nodes.getD (lbNode b) blankNode).rsize
          let k : StackNum := BitVec.ofNat 1 (bitsOf b 88 88)
          let r := newRun s x.ctx g (BitVec.ofNat 64 (lbSig b)) (decide (bitsOf b 90 89 = 1))
          let s' := { s with runs := s.runs ++ [r], nextId := s.nextId + 1 }
          (injectRefused s' r (BitVec.ofNat 8 (lbNode b)) k (lbNrec b) = true →
            ∃ t, exec (.launch d a) s = .next t ∧ LaneWrites s t d 0x10) ∧
          (injectRefused s' r (BitVec.ofNat 8 (lbNode b)) k (lbNrec b) = false → ∀ bs, readAt s x.ctx (lbRecs b) (lbNrec b * size) = some bs →
            ∃ t rs, exec (.launch d a) s = .next t ∧ t.runs = s.runs ++ [r] ∧ t.recs = s.recs ++ rs ∧
              rs.map (fun y => y.bytes) = (List.range (lbNrec b)).map (fun j => (bs.drop (size * j)).take size) ∧
              (∀ y ∈ rs, y.run = r.id ∧ y.node = BitVec.ofNat 8 (lbNode b) ∧ y.stk = k ∧ y.edge = none) ∧
              (getCtx t x.ctx).state = .live ∧ cellsRead (getQueue t q).regs d.toNat = 0 ∧
              (getQueue t q).pc = (goneTo x (nextWord x)).pc))))

/-! ### The host (16, 18) -/

/-- 16 R383 to R386 R396, 18 R423 R426: what a write to the device's registers, a doorbell of a queue and an access through BAR2 do. -/
def Obligations.HostRegisters : Prop :=
  (∀ s q v, let x := getQueue s q
    let a := (v : DWord).toNat % 2 ^ 24
    (fromFree x x.qwr.toNat ≤ fromFree x a → exec (.qwr q v) s = .next (updQueue s q (fun x => { x with qwr := BitVec.ofNat 24 (a % 2 ^ x.qsize.toNat) }))) ∧
    (fromFree x a < fromFree x x.qwr.toNat → exec (.qwr q v) s = .next s) ∧
    exec (.halt q) s = .next (updQueue s q halted) ∧ exec (.en q) s = .next (updQueue s q enabled) ∧
    (x.state = .idle → x.en = true → x.bound = true → Covered x x.pc.toNat →
      exec (.queueFetch q) s = .next (updQueue s q (fun x => { x with state := .running }))) ∧
    (¬ (x.state = .idle ∧ x.en = true ∧ x.bound = true ∧ Covered x x.pc.toNat) → exec (.queueFetch q) s = .next s)) ∧
  (∀ s v, (∃ t, exec (.irqstat v) s = .next t ∧ t = { s with irqstat := t.irqstat } ∧
      ∀ n, n < 64 → t.irqstat.getLsbD n = (s.irqstat.getLsbD n && !v.getLsbD n)) ∧
    exec (.mbstat v) s = .next { s with mail := { s.mail with done := s.mail.done && !v.getLsbD 1 } } ∧
    exec (.attreq v) s = .next (if v.getLsbD 0 = true ∧ s.svc.attBusy = false then
      { s with svc := { s.svc with attBusy := true, attSnap := s.svc.nonce } } else s)) ∧
  (∀ s v, s.boot.mode = .ready → s.badAddr = none →
    (∀ q : QueueNum, let block := fun (o : Nat) => BitVec.ofNat 20 (0x1000 + 64 * q.toNat + o)
      let x := getQueue s q
      (v.getLsbD 1 = true → exec (.registerWrite (block 0) v) s = exec (.halt q) s) ∧
      (v.getLsbD 1 = false → v.getLsbD 0 = true → exec (.registerWrite (block 0) v) s = exec (.en q) s) ∧
      exec (.registerWrite (block 0x20) v) s = exec (.qwr q v) s ∧
      (x.en = false → exec (.registerWrite (block 8) v) s = .next (updQueue s q (fun x => { x with qbase := v &&& 0xFFFFFFFFFFFC0 })) ∧
        (12 ≤ v.toNat % 32 → v.toNat % 32 ≤ 24 →
          exec (.registerWrite (block 0x10) v) s = .next (updQueue s q (fun x => { x with qsize := BitVec.ofNat 5 v.toNat })))) ∧
      (x.en = true → q.toNat < s.queues.length → exec (.registerWrite (block 8) v) s = .next s ∧ exec (.registerWrite (block 0x10) v) s = .next s) ∧
      (v.toNat % 32 < 12 ∨ 24 < v.toNat % 32 → q.toNat < s.queues.length → exec (.registerWrite (block 0x10) v) s = .next s)) ∧
    exec (.registerWrite 0x2000 v) s = exec (.irqstat v) s ∧
    exec (.registerWrite 0x2008 v) s = .next { s with irqmask := BitVec.ofNat 64 (v.toNat % 2 ^ 40) } ∧
    exec (.registerWrite 0xA008 v) s = exec (.mbstat v) s ∧ exec (.registerWrite 0x220 v) s = exec (.attreq v) s ∧
    (s.mail.busy = false → s.mail.done = false →
      exec (.registerWrite 0xA000 v) s = .next { s with mail := { s.mail with busy := true, door := some (BitVec.ofNat 13 v.toNat) } }) ∧
    (s.mail.busy = true ∨ s.mail.done = true → exec (.registerWrite 0xA000 v) s = .next s) ∧
    (∀ k, k < 512 → s.mail.busy = false → ∃ t, exec (.registerWrite (BitVec.ofNat 20 (0x8000 + 8 * k)) v) s = .next t ∧
      t = { s with mail := { s.mail with req := t.mail.req } } ∧
      ∀ j, cellsRead t.mail.req j = if 8 * k ≤ j ∧ j < 8 * k + 8 then BitVec.ofNat 8 (v.toNat / 256 ^ (j - 8 * k)) else cellsRead s.mail.req j) ∧
    (let u : SvcUnit := { stk := BitVec.ofNat 1 (v.toNat / 2 ^ 31), kind := BitVec.ofNat 4 (v.toNat / 2 ^ 20), unit := BitVec.ofNat 8 (v.toNat / 2 ^ 32) }
     let a := v.toNat / 65536 % 16
     overThreshold s u.stk = true →
     (a = 1 → exec (.registerWrite 0x040 v) s = exec (.testAndReturn u) s) ∧ (a = 2 → exec (.registerWrite 0x040 v) s = exec (.retire u) s) ∧
     (a = 3 → exec (.registerWrite 0x040 v) s = exec (.retrain u) s) ∧ (a = 4 → exec (.registerWrite 0x040 v) s = exec (.recalibrate u) s) ∧
     (a = 5 → exec (.registerWrite 0x040 v) s = exec (.testAndRepairLanes u) s))) ∧
  ∀ s, (∀ a n, exec (.bar2Access (.read a n)) s = .next s) ∧
    (∀ a bs, s.boot.mode ≠ .ready ∨ s.svc.installed ≤ a → exec (.bar2Access (.write a bs)) s = .next s) ∧
    ∀ a bs, s.boot.mode = .ready → a + bs.length ≤ s.svc.installed → bs ≠ [] → ∃ t, exec (.bar2Access (.write a bs)) s = .next t ∧
      (∀ k, k < bs.length → homeByte t { host := false, addr := a + k } = bs.getD k 0) ∧
      (∀ y, (y.host = true ∨ y.addr < a ∨ a + bs.length ≤ y.addr) → homeByte t y = homeByte s y) ∧ registersOf t = registersOf s

/-- 16 R395 to R398, 15 R355 to R357, 18 R420: a packet is checked before it is handled, and each check that fails is answered with its
STATUS; CTXBIND, CTXFREE, CTXWRITE, CTXREAD, MAP, UNMAP, PROTECT, QBIND and TELEMETRY do what their rows say. -/
def Obligations.ContextPackets : Prop :=
  (∀ i s type known p, packetOf i = some (type, known, p) → s.badAddr = none →
    (¬ TypeTaken s type → OnlyAnswers i s type 1 p) ∧
    (TypeTaken s type → ¬ (WellMade known p ∧ NoRz known p) → OnlyAnswers i s type 2 p) ∧
    (TypeTaken s type → WellMade known p → NoRz known p →
      ∀ f, p.fields.find? (fun f => f.ftype.getLsbD 15 && known.all (fun k => decide (k.1 ≠ f.ftype))) = some f →
      ∃ t, exec i s = .next t ∧ Answered s t type 3 p [{ ftype := 1, value := [f.ftype.setWidth 8, f.ftype.extractLsb' 8 8] }])) ∧
  (∀ s type p, s.badAddr = none → OnlyAnswers (.unknownType type p) s type 1 p) ∧
  ∀ s p, p.ctx.toNat < s.ctxs.length → let c := p.ctx
    let x := getCtx s c
    (Accepted (.ctxbind p) s 0x0001 p → (x.state ≠ .free → OnlyAnswers (.ctxbind p) s 0x0001 5 p) ∧
      (x.state = .free → Done (.ctxbind p) s 0x0001 p (fun u => u = setCtx s c (getCtx u c) ∧ getCtx u c = { ctxReset with state := .idle }))) ∧
    (Accepted (.ctxfree p) s 0x0002 p → (x.state ≠ .idle → OnlyAnswers (.ctxfree p) s 0x0002 5 p) ∧
      (x.state = .idle → (∃ y ∈ s.queues, y.bound = true ∧ y.ctx = c ∧ y.state ≠ .idle) → OnlyAnswers (.ctxfree p) s 0x0002 8 p) ∧
      (x.state = .idle → (∀ y ∈ s.queues, y.bound = true → y.ctx = c → y.state = .idle) → s.queues.length ≤ 32 →
        Done (.ctxfree p) s 0x0002 p (fun u => u = { s with ctxs := u.ctxs, queues := u.queues, tlbs := u.tlbs } ∧
          u.tlbs = s.tlbs.filter (fun e => decide (e.ctx ≠ c)) ∧ (getCtx u c).state = .free ∧ OtherContexts s u c ∧
          ∀ q, let y := getQueue s q
            let z := getQueue u q
            if y.bound = true ∧ y.ctx = c then z.ctx = 0 ∧ z.bound = false ∧ z.en = false ∧ z.state = .idle ∧ z.pc = y.pc else z = y))) ∧
    (Accepted (.ctxwrite p) s 0x0003 p → let o := valueAt p 0x8010 0
      let v : DWord := BitVec.ofNat 64 (valueAt p 0x8011 0)
      (OutOfRange o v → OnlyAnswers (.ctxwrite p) s 0x0003 4 p) ∧
      (¬ OutOfRange o v → x.state = .free ∨ (IdleOnly o ∧ x.state ≠ .idle) → OnlyAnswers (.ctxwrite p) s 0x0003 5 p) ∧
      (¬ OutOfRange o v → x.state ≠ .free → (IdleOnly o → x.state = .idle) →
        let written := fun (u : State) => u = setCtx s c (getCtx u c) ∧ SameCtx x (getCtx u c) o ∧
          readCtxReg (getCtx u c) o = (match o with
            | 0x00 => (v &&& 0x18) ||| (readCtxReg x 0 &&& 7)
            | 0x90 => (v &&& 0xFFFF00000000) ||| x.flhead.setWidth 64
            | 0x48 => readCtxReg x 0x48
            | o => v &&& writable o)
        (AreaInUse s c o → OnlyAnswers (.ctxwrite p) s 0x0003 8 p) ∧
        (¬ AreaInUse s c o → (o ≠ 0x08 → Done (.ctxwrite p) s 0x0003 p written) ∧
          (o = 0x08 → DoneOnceSettled (.ctxwrite p) s 0x0003 p 0 (2 ^ 52) written)))) ∧
    (Accepted (.ctxread p) s 0x0004 p → let o := valueAt p 0x8010 0
      (o % 8 ≠ 0 ∨ 256 ≤ o → OnlyAnswers (.ctxread p) s 0x0004 4 p) ∧
      (o % 8 = 0 → o < 256 → x.state = .free → OnlyAnswers (.ctxread p) s 0x0004 5 p) ∧
      (o % 8 = 0 → o < 256 → x.state ≠ .free → ∃ t, exec (.ctxread p) s = .next t ∧ Answered s t 0x0004 0 p
        [{ ftype := 0x0011, value := (List.range 8).map (fun k => BitVec.ofNat 8 ((readCtxReg x o).toNat / 256 ^ k)) }])) ∧
    (Accepted (.map p) s 0x0010 p → let va := valueAt p 0x8020 0
      let n := valueAt p 0x8022 0
      let pa := valueAt p 0x8021 0
      let real := pa % 4096 = 0 ∧ pa + n ≤ 2 ^ 52 ∧ (valueAt p 0x8023 0 / 4 % 2 = 1 ∨ pa + n ≤ s.svc.installed)
      let new := n - mappedBytes s c va n
      let used := (x.membytes + 65535) / 65536
      let units := (x.membytes + new + 65535) / 65536
      (¬ (PageRange va n ∧ real) → OnlyAnswers (.map p) s 0x0010 4 p) ∧
      (PageRange va n → real → x.state = .free → OnlyAnswers (.map p) s 0x0010 5 p) ∧
      (PageRange va n → real → x.state ≠ .free → used < units → x.memq.toNat < units → OnlyAnswers (.map p) s 0x0010 6 p) ∧
      (PageRange va n → real → x.state ≠ .free → (used < units → units ≤ x.memq.toNat) →
        (editCtx s c va n (.map pa (BitVec.ofNat 3 (valueAt p 0x8023 0)))).badAddr = none →
        DoneOnceSettled (.map p) s 0x0010 p va (va + n) (fun u =>
          getCtx u c = { x with membytes := x.membytes + new } ∧ OtherContexts s u c ∧ registersOf u = registersOf s ∧
            u.hostMem = s.hostMem ∧ u.cc = s.cc ∧ u.teams = s.teams ∧ u.tlbs = s.tlbs))) ∧
    (Accepted (.unmap p) s 0x0011 p → let va := valueAt p 0x8020 0
      let n := valueAt p 0x8022 0
      (¬ PageRange va n → OnlyAnswers (.unmap p) s 0x0011 4 p) ∧ (PageRange va n → x.state = .free → OnlyAnswers (.unmap p) s 0x0011 5 p) ∧
      (PageRange va n → x.state ≠ .free → (editCtx s c va n .unmap).badAddr = none →
        DoneOnceSettled (.unmap p) s 0x0011 p va (va + n) (fun u =>
          getCtx u c = { x with membytes := x.membytes - mappedBytes s c va n } ∧
            OtherContexts s u c ∧ u.hostMem = s.hostMem ∧ u.cc = s.cc ∧ u.tlbs = s.tlbs))) ∧
    (Accepted (.protect p) s 0x0012 p → let va := valueAt p 0x8020 0
      let n := valueAt p 0x8022 0
      let host := valueAt p 0x8023 0 / 4 % 2 = 1
      (¬ PageRange va n ∨ host → OnlyAnswers (.protect p) s 0x0012 4 p) ∧
      (PageRange va n → ¬ host → x.state = .free → OnlyAnswers (.protect p) s 0x0012 5 p) ∧
      (PageRange va n → ¬ host → x.state ≠ .free →
        (editCtx s c va n (.protect (decide (valueAt p 0x8023 0 % 2 = 1)) (decide (valueAt p 0x8023 0 / 2 % 2 = 1)))).badAddr = none →
        DoneOnceSettled (.protect p) s 0x0012 p va (va + n) (fun u =>
          u.ctxs = s.ctxs ∧ u.hostMem = s.hostMem ∧ u.cc = s.cc ∧ registersOf u = registersOf s ∧ u.tlbs = s.tlbs))) ∧
    (Accepted (.qbind p) s 0x0018 p → let n := valueAt p 0x8030 0
      let q : QueueNum := BitVec.ofNat 5 n
      let y := getQueue s q
      let pc := valueAt p 0x0031 y.pc.toNat
      let bad := 32 ≤ n ∨ (fieldAt p 0x0031 ≠ none ∧ (pc % 8 ≠ 0 ∨ 2 ^ y.qsize.toNat ≤ pc))
      (bad → OnlyAnswers (.qbind p) s 0x0018 4 p) ∧ (¬ bad → x.state = .free → OnlyAnswers (.qbind p) s 0x0018 5 p) ∧
      (¬ bad → x.state ≠ .free → y.state ≠ .idle → OnlyAnswers (.qbind p) s 0x0018 8 p) ∧
      (¬ bad → x.state ≠ .free → y.state = .idle → Done (.qbind p) s 0x0018 p (fun u => u = updQueue s q (fun y =>
        { y with ctx := c, bound := true, paused := false, pc := BitVec.ofNat 24 pc, qfree := BitVec.ofNat 24 pc, qwr := BitVec.ofNat 24 pc })))) ∧
    (Accepted (.telemetry p) s 0x0050 p → let g := valueAt p 0x8060 0
      (g = 0 ∨ 4 < g → OnlyAnswers (.telemetry p) s 0x0050 4 p) ∧
      (g = 2 → let bytes := (List.range 256).map (fun k =>
          BitVec.ofNat 8 ((getQueue s (BitVec.ofNat 5 (k / 8))).executed.toNat / 256 ^ (k % 8)))
        ∃ t, exec (.telemetry p) s = .next t ∧ Answered s t 0x0050 0 p [{ ftype := 0x0060, value := bytes }]) ∧
      (g = 3 → let bytes := (List.range 64).map (fun k =>
          let y := getStack s (BitVec.ofNat 1 (k / 32))
          BitVec.ofNat 8 (([y.launches, y.appended, y.spilledCount, y.refused].getD (k / 8 % 4) 0).toNat / 256 ^ (k % 8)))
        ∃ t, exec (.telemetry p) s = .next t ∧ Answered s t 0x0050 0 p [{ ftype := 0x0060, value := bytes }]))

/-- 15 R376 R379 R380, 16 R394 R396 R398 R400, 17 R404 R411, 18 R420 to R422: PREEMPT, RESTORE, RESET and what ends them; WEIGHTLOAD; the
firmware packets with the live switch of a queue; and POWERCFG. -/
def Obligations.FirmwareAndSavePackets : Prop :=
  (∀ s p, p.ctx.toNat < s.ctxs.length → let c := p.ctx
    let x := getCtx s c
    (Accepted (.preempt p) s 0x0020 p → let wait := valueAt p 0x0040 1
      (1 < wait → OnlyAnswers (.preempt p) s 0x0020 4 p) ∧
      (wait ≤ 1 → x.state ≠ .idle → x.state ≠ .live → OnlyAnswers (.preempt p) s 0x0020 5 p) ∧
      let taken := ∃ d : CtxNum, d ≠ c ∧ ((getCtx s d).state = .saved ∨ (getCtx s d).saving = true) ∧ (getCtx s d).savebase = x.savebase
      (wait ≤ 1 → x.state = .idle ∨ x.state = .live → taken → OnlyAnswers (.preempt p) s 0x0020 8 p) ∧
      (wait ≤ 1 → x.state = .idle ∨ x.state = .live → ¬ taken → (∀ r ∈ s.runs, r.ctx = c → r.steals = []) →
        (∀ tm ∈ s.teams, tm.ctx = c → tm.status ≠ .running) → s.queues.length ≤ 32 →
        let stopped := fun (u : State) => getCtx u c = { x with savedFrom := x.state, saving := true } ∧ OtherContexts s u c ∧
          (∀ q, let y := getQueue s q
            (getQueue u q).paused = (y.paused || (y.bound && decide (y.ctx = c))) ∧ (getQueue u q).pc = y.pc) ∧ u.teams = s.teams
        (wait = 0 → Done (.preempt p) s 0x0020 p stopped) ∧
        (wait = 1 → ∃ t, exec (.preempt p) s = .next t ∧ stopped t ∧ t.mail = { s.mail with owed := some (0x0020, c, p.seq) }))) ∧
    (Accepted (.restore p) s 0x0021 p → (x.state ≠ .saved → OnlyAnswers (.restore p) s 0x0021 5 p) ∧
      (x.state = .saved → (∃ tm ∈ s.teams, tm.ctx = c ∧ tm.status = .saved) → exec (.restore p) s = .next
        (setCtx { s with mail := { s.mail with owed := some (0x0021, c, p.seq) } } c { x with restoring := true })) ∧
      (x.state = .saved → (∀ tm ∈ s.teams, tm.ctx = c → tm.status ≠ .saved) → s.queues.length ≤ 32 →
        Done (.restore p) s 0x0021 p (fun u => getCtx u c = { x with state := x.savedFrom, restoring := false } ∧ OtherContexts s u c ∧
          ∀ q, let y := getQueue s q
            (y.bound = true → y.ctx = c → (getQueue u q).paused = false) ∧ (getQueue u q).pc = y.pc))) ∧
    (Accepted (.resetCtx p) s 0x0022 p → (x.state = .free → OnlyAnswers (.resetCtx p) s 0x0022 5 p) ∧
      (x.state ≠ .free → s.queues.length ≤ 32 → ∃ t, exec (.resetCtx p) s = .next t ∧ t.mail.owed = some (0x0022, c, p.seq) ∧
        (getCtx t c).state = .resetting ∧ (getCtx t c).frames = [] ∧ (∀ tm ∈ t.teams, tm.ctx ≠ c) ∧ (∀ r ∈ t.runs, r.ctx ≠ c) ∧
        (∀ w ∈ t.waves, ∀ tm ∈ s.teams, tm.ctx = c → w.team ≠ tm.id) ∧ (∀ r ∈ t.recs, ∀ g ∈ s.runs, g.ctx = c → r.run ≠ g.id) ∧
        (∀ l ∈ t.ccLines, l.ctx ≠ c) ∧ (∀ g ∈ t.tags, g.ctx ≠ c) ∧ (∀ e ∈ t.tlbs, e.ctx ≠ c) ∧ t.mem = s.mem ∧ t.hostMem = s.hostMem ∧
        ∀ q, let y := getQueue s q
          y.bound = true → y.ctx = c → q.toNat < s.queues.length → (y.state = .running ∨ y.state = .waiting →
            (y.halting = false → (getQueue t q).state = .error) ∧ (getQueue t q).qerr = 5 ∧ t.irqstat.getLsbD (q.toNat + 1) = true) ∧
            (y.state = .idle ∨ y.state = .error → (getQueue t q).state = y.state))) ∧
    (Accepted (.weightload p) s 0x0030 p → let src := valueAt p 0x8050 0
      let off := valueAt p 0x8051 0
      let n := valueAt p 0x8052 0
      let a := x.wbase.toNat + off
      (src % 16 ≠ 0 ∨ off % 16 ≠ 0 ∨ n % 16 ≠ 0 ∨ n < 16 ∨ 2 ^ 52 ≤ src ∨ x.wsize.toNat < off + n → OnlyAnswers (.weightload p) s 0x0030 4 p) ∧
      (src % 16 = 0 → off % 16 = 0 → n % 16 = 0 → 16 ≤ n → src < 2 ^ 52 → off + n ≤ x.wsize.toNat → s.svc.retBanks = 0 → a + n ≤ 402653184 →
        (x.state = .free → OnlyAnswers (.weightload p) s 0x0030 5 p) ∧ (x.state = .live → exec (.weightload p) s = .next s) ∧
        (x.state ≠ .free → x.state ≠ .live → ∀ place : Nat → Loc, (∀ j, j < n / 16 →
            translate s c (BitVec.ofNat 64 (src + 16 * j)) .read = .ok (place j) ∧ rangePoisoned s (place j) 16 = false) →
          Done (.weightload p) s 0x0030 p (fun u => (∀ k, k < n → ∀ stk, stk < 2 →
            cellsRead u.wstore (402653184 * stk + a + k) = homeByte s (Loc.plus (place (k / 16)) (k % 16))) ∧ u.mem = s.mem))))) ∧
  (∀ s, s.badAddr = none → let c := s.who.ctx
    let x := getCtx s c
    let ends := fun (i : Instr) (type : BitVec 16) (holds : State → Prop) => ∃ u t, exec i s = .next t ∧ holds u ∧
      ∀ seq, (s.mail.owed = some (type, c, seq) → Answered u t type 0 { seq := seq, ctx := c, malformed := false, fields := [] } []) ∧
        ((∀ d, s.mail.owed = some d → d.1 ≠ type ∨ d.2.1 ≠ c) → t = u)
    c.toNat < s.ctxs.length →
    (x.state = .resetting → ends .resetComplete 0x0022 (fun u => u = setCtx s c { x with state := .idle })) ∧
    (x.state ≠ .resetting → exec .resetComplete s = .next s) ∧
    (x.saving = true → (∀ y ∈ s.queues, y.bound = true → y.ctx = c → y.copy = none) →
      (∀ tm ∈ s.teams, tm.ctx = c → tm.status ≠ .saved ∧ tm.status ≠ .running) →
      x.savebase.toNat + 4096 ≤ s.svc.installed → ends .saveComplete 0x0020 (fun u => getCtx u c = { x with state := .saved, saving := false } ∧
        HoldsAt u (fun k => { host := false, addr := x.savebase.toNat + k })
          [(0, 2, 0), (2, 6, x.s0.seq.toNat), (8, 6, x.s1.seq.toNat), (14, 2, 0), (16, 4080, 0)])) ∧
    (x.saving = false ∨ (∃ y ∈ s.queues, y.bound = true ∧ y.ctx = c ∧ y.copy ≠ none) → exec .saveComplete s = .next s)) ∧
  (∀ s p, Accepted (.fwstage p) s 0x0060 p → let a := valueAt p 0x8080 0
    let n := valueAt p 0x8081 0
    let bad := a % 4096 ≠ 0 ∨ n < 4096 ∨ 16777216 < n
    (bad → OnlyAnswers (.fwstage p) s 0x0060 4 p) ∧ (¬ bad → s.boot.live ≠ none → OnlyAnswers (.fwstage p) s 0x0060 8 p) ∧
    (¬ bad → s.boot.live = none →
      let image := (List.range n).map (fun k => homeByte s { host := true, addr := a + k })
      let good := imageVerified image s.boot.record.keyHash
      ∃ u t, exec (.fwstage p) s = .next t ∧ Answered u t 0x0060 (if good then 0 else 7) p [] ∧ u.boot.next = s.boot.run ∧ u.boot.run = s.boot.run ∧
        fwSlot u.boot s.boot.run = fwSlot s.boot s.boot.run ∧
        fwSlot u.boot (!s.boot.run) = if good then some { version := headerWord image 1, image := image } else none)) ∧
  (∀ s p e, (e = (Instr.fwcommit p, (0x0061 : BitVec 16), false) ∨ e = (Instr.fwrollback p, 0x0062, true)) → Accepted e.1 s e.2.1 p →
    let now := valueAt p 0x0082 0
    let next := { s.boot with next := !s.boot.run, fails := 0, recoveryNext := false }
    let stopped := now = 1 ∧ ∃ x ∈ s.ctxs, x.state = .saved ∨ x.state = .resetting
    (1 < now → OnlyAnswers e.1 s e.2.1 4 p) ∧ (now ≤ 1 → s.boot.live ≠ none → OnlyAnswers e.1 s e.2.1 8 p) ∧
    (now ≤ 1 → s.boot.live = none → stopped → OnlyAnswers e.1 s e.2.1 5 p) ∧
    (now ≤ 1 → s.boot.live = none → ¬ stopped → (fwSlot s.boot (!s.boot.run) = none → OnlyAnswers e.1 s e.2.1 7 p) ∧
      (fwSlot s.boot (!s.boot.run) ≠ none → s.boot.mode ≠ .recovery →
        (now = 0 → Done e.1 s e.2.1 p (fun u => u = { s with boot := next })) ∧
        (now = 1 → exec e.1 s = .next { s with boot := { next with live := some ((List.range 32).map (BitVec.ofNat 5), e.2.2, p.seq) } })))) ∧
  (∀ s q qs back seq, s.boot.live = some (qs, back, seq) →
    (q ∉ qs ∨ ((getQueue s q).state = .running ∧ (getQueue s q).copy ≠ none) → exec (.liveSwitchQueue q) s = .next s) ∧
    (q ∈ qs → ((getQueue s q).state ≠ .running ∨ (getQueue s q).copy = none) →
      ((∃ y ∈ qs, y ≠ q) → exec (.liveSwitchQueue q) s = .next
        { s with boot := { s.boot with live := some (qs.filter (fun y => decide (y ≠ q)), back, seq) } }) ∧
      ((∀ y ∈ qs, y = q) → ∃ t, exec (.liveSwitchQueue q) s = .next t ∧ t.boot = { s.boot with live := none, run := s.boot.next } ∧
        t.mail.done = true ∧ t.mail.busy = false ∧ respNat t 0 2 = (if back then 0x62 else 0x61) ∧ respNat t 4 2 = seq.toNat ∧ respNat t 6 2 = 0))) ∧
  ∀ s p, Accepted (.powercfg p) s 0x0070 p → s.stks.length = 2 → let n := valueAt p 0x8070 0
    let named := fun (k : StackNum) => n / 2 ^ k.toNat % 2 = 1
    let pop := fun k => valueAt p 0x0071 (getStack s k).pop.toNat
    let tpop := fun k => valueAt p 0x0072 (getStack s k).tpop.toNat
    fieldAt p 0x0073 = none → fieldAt p 0x0074 = none → fieldAt p 0x0075 = none →
    (n = 0 ∨ 4 ≤ n → OnlyAnswers (.powercfg p) s 0x0070 4 p) ∧
    (0 < n → n < 4 → (∃ k, named k ∧ (pop k < 2176 ∨ 16383 < pop k ∨ pop k < tpop k)) → OnlyAnswers (.powercfg p) s 0x0070 4 p) ∧
    (0 < n → n < 4 → (∀ k, named k → 2176 ≤ pop k ∧ pop k ≤ 16383 ∧ tpop k ≤ pop k) → Done (.powercfg p) s 0x0070 p (fun u =>
      u = { s with stks := u.stks } ∧ ∀ k, let y := getStack s k
        let z := getStack u k
        (¬ named k → z = y) ∧ (named k → z = { y with pop := BitVec.ofNat 14 (pop k), tpop := BitVec.ofNat 14 (tpop k), target := z.target } ∧
          (s.thermtrip = false → z.target = if y.throttled then tpop k else pop k))))

/-! ### Units in service, starts and power (17, 18) -/

/-- 18 R424 to R427 R430: a service request, of the host or of the device itself, is discarded while BUSY, refused with 0x04, 0x05 or
0x03, or begins; a cluster that drains for 10 ms gives up what stands on it; a channel's data moves behind a rising boundary; an L2
slice leaves service; and a request ends with its RESULT and vector 38. -/
def Obligations.ServiceRequests : Prop :=
  (∀ s u, overThreshold s u.stk = false → ∀ e ∈ [Instr.testAndReturn u, .retire u, .retrain u, .recalibrate u, .testAndRepairLanes u],
    exec e s = .next s) ∧
  (∀ s u e a, Requests s e u a →
    let gone := Retired s.svc u.kind u.stk
    let n := u.unit.toNat
    let refuses := fun (r : BitVec 8) => exec e s = .next (irq { s with svc := { s.svc with req := none, result := r } } 38)
    let last := (a = 2 ∨ OnCluster u) ∧ ∀ m, m < unitsOf u.kind → m ≠ n → gone m
    (s.svc.req ≠ none → exec e s = .next s) ∧
    (s.svc.req = none → (¬ UnitOk u a ∨ gone n → refuses 4) ∧ (UnitOk u a → ¬ gone n → (last → refuses 5) ∧ (¬ last →
      (OnCluster u → (noPlacement s u = true → refuses 3) ∧ (noPlacement s u = false → exec e s = .next (updCluster
        { s with svc := { s.svc with req := some (u, a) } } (clusterOf u) (fun c => { c with draining := true, drainFrom := (getStack s u.stk).mclk })))) ∧
      (u.kind = 2 → a = 2 → (topMapped s = true → refuses 3) ∧ (topMapped s = false → exec e s = .next
        { s with svc := { s.svc with req := some (u, a), installed := s.svc.installed - 2 ^ 33, migration := some 0 } })) ∧
      (¬ OnCluster u → ¬ (u.kind = 2 ∧ a = 2) → exec e s = .next { s with svc := { s.svc with req := some (u, a) } }))))) ∧
  (∀ s u a passed, s.svc.req = some (u, a) → UnitOk u a → s.stks.length = 2 → s.clusters.length = 32 → let e := Instr.serviceComplete passed
    (OnCluster u → (¬ ClusterFree s (clusterOf u) → exec e s = .next s) ∧ (ClusterFree s (clusterOf u) →
      ∃ t, exec e s = .next t ∧ (getCluster t (clusterOf u)).draining = false ∧
        (a ≠ 2 → passed = true → Ended t 0 ∧ t.svc = { s.svc with req := none, result := 0 }) ∧
        (a = 2 ∨ passed = false → Ended t (if a = 2 then 1 else 2) ∧ LeftService s t u ∧ (getCluster t (clusterOf u)).pool = 0 ∧
          (getStack t u.stk).free = (getStack s u.stk).free + (getCluster s (clusterOf u)).pool))) ∧
    (u.kind = 2 → a = 2 → (s.svc.migration ≠ some s.svc.installed → exec e s = .next s) ∧ (s.svc.migration = some s.svc.installed →
      ∃ t, exec e s = .next t ∧ Ended t 1 ∧ LeftService s t u ∧ t.svc.migration = none)) ∧
    (u.kind = 3 → (¬ Retired s.svc 3 u.stk u.unit.toNat → exec e s = .next s) ∧ (Retired s.svc 3 u.stk u.unit.toNat →
      ∃ t, exec e s = .next t ∧ Ended t 1 ∧ t.svc.ras = s.svc.ras)) ∧
    (u.kind = 4 → ∃ t, exec e s = .next t ∧ Ended t 1 ∧ LeftService s t u) ∧
    ((u.kind = 2 ∧ a = 3) ∨ u.kind = 6 ∨ u.kind = 7 → ∃ t, exec e s = .next t ∧ Ended t 0 ∧ t.svc.ras = s.svc.ras ∧
      t.boot.savedSensors = (getStack s 0).sensors ++ (getStack s 1).sensors)) ∧
  (∀ s passed, s.svc.req = none → exec (.serviceComplete passed) s = .next s) ∧
  (∀ s lines, (s.svc.migration = none → exec (.channelMigration lines) s = .next s) ∧ ∀ b, s.svc.migration = some b →
    exec (.channelMigration lines) s = .next { s with svc := { s.svc with migration := some (min s.svc.installed (b + 64 * lines)) } }) ∧
  (∀ s u k n, let mine := ∃ a, s.svc.req = some (u, a) ∧ u.kind = 3 ∧ u.stk = k ∧ u.unit.toNat = n.toNat ∧ ¬ Retired s.svc 3 k n.toNat
    (mine → ∃ t, exec (.l2SliceMove k n) s = .next t ∧ LeftService s t u ∧ t.mem = s.mem ∧ t.tags = s.tags ∧ t.svc.req = s.svc.req) ∧
    (s.svc.req = none → exec (.l2SliceMove k n) s = .next s)) ∧
  ∀ s, s.badAddr = none → let cl := s.who.cl
    let c := getCluster s cl
    let due := c.draining = true ∧ c.drainFrom + 15000000 ≤ (getStack s (clusterStack cl)).mclk
    (¬ due → exec .clusterDrainTimeout s = .next s) ∧
    (due → ∀ tm r, s.teams = [tm] → Holds tm cl → tm.stk = clusterStack cl → s.runs = [r] → r.steals = [] → tm.run = r.id →
      (∀ p, tm.status ≠ .running → (∀ g ∈ s.tags, coreCluster g.core ≠ cl) →
        findPlacement s (Need.mk [] tm.pair 0 0 0 (tm.rings.map (restoreRing s r tm))) tm.stk 0 = some p →
        ∃ t u, exec .clusterDrainTimeout s = .next t ∧ findTeam t tm.id = some u ∧ u.core = p.core ∧ u.winBase = p.winBase ∧
          u.rings = tm.rings.map (moveRing p.rings) ∧ t.waves = s.waves ∧ ¬ Holds u cl) ∧
      (tm.status = .running → let s' := if tm.stopping = true then s else stopTeam s tm.id
        (teamQuiet s' tm = false → s'.badAddr = none → exec .clusterDrainTimeout s = .next s') ∧
        (teamQuiet s' tm = true → tm.task = none → let q := rotateOut s' tm.id
          ∀ u g p, findTeam q tm.id = some u → findRun q u.run = some g → q.badAddr = none → (getCluster q cl).draining = true →
          (∀ g ∈ q.tags, coreCluster g.core ≠ cl) → findPlacement q (restoreNeed q g u) u.stk 0 = some p → u.stk = tm.stk → u.task = none →
          u.saved.map (fun v => v.entries) = some [] →
          ∃ t y, exec .clusterDrainTimeout s = .next t ∧ findTeam t tm.id = some y ∧ y.status = .running ∧ y.core = p.core ∧ ¬ Holds y cl)))

/-- 18 R428 R429: a soft error counts one event, and an uncorrectable one poisons its sector or strikes the operation that reads it; a
register parity error issues the bundle again once and then traps; a bond lane takes a spare, a hinge lane at once and a vertical group
after its quiet, which is abandoned after 2 µs and tried again after 1 ms. -/
def Obligations.ErrorsAndRepairs : Prop :=
  (∀ s place (k : StackNum) w, (match place with
      | .gddr a => k = BitVec.ofNat 1 (a / 4096) ∧ w = 0
      | .l2 a => k = BitVec.ofNat 1 (a / 4096) ∧ w = 2
      | .queueStore j => k = j ∧ w = 2
      | .localStore c => k = coreStack c ∧ w = 4
      | .weight j _ => k = j ∧ w = 6
      | .accumulator e => k = clusterStack e ∧ w = 8) →
    (∃ t, exec (.softError place true) s = .next t ∧ t = { s with svc := { s.svc with ras := t.svc.ras } } ∧ Counted s t k w) ∧
    ∃ t, exec (.softError place false) s = .next t ∧ Counted s t k (w + 1) ∧ t.irqstat.getLsbD 38 = true ∧ t.mem = s.mem ∧
      registersOf t = registersOf s ∧
      (∀ a, place = .gddr a ∨ place = .l2 a → ∀ j, j ∈ t.poison ↔ j ∈ s.poison ∨ j = a / 16) ∧
      (∀ v p, s.who.count = 0 → findWave s s.who.wave = some v → findPend s.who.seq v.pend = some p → p.performed = false → p.fault = none →
        ((∃ j, place = .queueStore j) ∧ (∃ o, p.instr = .recld o)) ∨ ((∃ c, place = .localStore c) ∧ (∃ o, p.instr = .ldL o ∨ ∃ a, p.instr = .atomL a)) ∨
          ((∃ j a, place = .weight j a) ∧ ∃ o, p.instr = .ldw o) →
        ∃ u q f, findWave t v.id = some u ∧ findPend s.who.seq u.pend = some q ∧ q = { p with fault := some f } ∧ f.cause = .softError ∧
          f.lane = s.who.idx)) ∧
  (∀ s v, findWave s v.id = some v → waveLive v = true → s.badAddr = none →
    (∃ t u, exec (.parityError v.id false) s = .next t ∧ findWave t v.id = some u ∧ u = { v with parityRetry := true } ∧
      Counted s t (coreStack v.core) 10 ∧ t.mem = s.mem) ∧
    (v.parityRetry = false → exec (.parityError v.id true) s = .next s) ∧
    (v.parityRetry = true → ∀ tm n place, CanTrap s v tm n place → ∃ t, exec (.parityError v.id true) s = .next t ∧
      Counted s t (coreStack v.core) 11 ∧ t.irqstat.getLsbD 38 = true ∧
      let pc := ((slotPath (getSlot v v.cur)).getD blankPath).pc
      let i : TrapInfo := { cause := .softError, code := 0, deliv := .boundary, slot := 3, fkind := 0, flane := 0, faddr := 0, tpc := pc,
                            resume := pc, iter := 0, res := 0 }
      InHandler t (atResume { v with parityRetry := false } v.cur i) tm i n place)) ∧
  (∀ s v, findWave s v = none → s.badAddr = none → ∀ r, exec (.parityError v r) s = .next s) ∧
  ∀ s u, let clk := (getStack s u.stk).mclk
    let found := fun (r : Repair) => s.svc.repairs.find? (fun y => decide (y.unit = u)) = some r
    let others := s.svc.repairs.filter (fun y => decide (y.unit ≠ u))
    let saved := fun (t : State) => t.boot.savedSensors = (getStack s 0).sensors ++ (getStack s 1).sensors ∧ t.irqstat.getLsbD 38 = true
    (¬ UnitOk u 5 ∨ badLane s u = none → exec (.laneRepair u) s = .next s) ∧
    (∀ b, UnitOk u 5 → badLane s u = some b → u.kind = 6 → let n := cellsRead s.svc.hingeSpares u.unit.toNat
      ∃ t, exec (.laneRepair u) s = .next t ∧ saved t ∧ cellsRead t.svc.laneErrors b = 0 ∧
        (n.toNat < 4 → Counted s t 0 13 ∧ cellsRead t.svc.hingeSpares u.unit.toNat = n + 1) ∧
        (4 ≤ n.toNat → t.svc = { s.svc with laneErrors := t.svc.laneErrors })) ∧
    (∀ b, UnitOk u 5 → badLane s u = some b → u.kind = 7 → ((∃ r, found r) → exec (.laneRepair u) s = .next s) ∧ ((∀ r, ¬ found r) → exec (.laneRepair u) s = .next
      { s with svc := { s.svc with repairs := s.svc.repairs ++ [{ unit := u, start := clk, waiting := false }] } })) ∧
    (∀ r, found r →
      (r.waiting = false → r.start + 300 ≤ clk → let n := cellsRead s.svc.vertSpares (64 * u.stk.toNat + u.unit.toNat)
        ∃ t, exec (.laneSwitchEnd u) s = .next t ∧ saved t ∧ t.svc.repairs = others ∧
          (n.toNat < 2 → Counted s t u.stk 12 ∧ cellsRead t.svc.vertSpares (64 * u.stk.toNat + u.unit.toNat) = n + 1) ∧
          (2 ≤ n.toNat → t.svc = { s.svc with repairs := others, laneErrors := t.svc.laneErrors })) ∧
      (r.waiting = true ∨ clk < r.start + 300 → exec (.laneSwitchEnd u) s = .next s) ∧
      (r.waiting = false → r.start + 3000 ≤ clk → exec (.repairAbandoned u) s = .next
        { s with svc := { s.svc with repairs := others ++ [{ r with waiting := true, start := clk }] } }) ∧
      (r.waiting = true ∨ clk < r.start + 3000 → exec (.repairAbandoned u) s = .next s) ∧
      (r.waiting = true → r.start + 1500000 ≤ clk → exec (.repairRetry u) s = .next
        { s with svc := { s.svc with repairs := others ++ [{ r with waiting := false, start := clk }] } }) ∧
      (r.waiting = false ∨ clk < r.start + 1500000 → exec (.repairRetry u) s = .next s)) ∧
    ((∀ r, ¬ found r) → exec (.laneSwitchEnd u) s = .next s ∧ exec (.repairAbandoned u) s = .next s ∧ exec (.repairRetry u) s = .next s)

/-- 18 R415 to R417 R420, 17 R412: a cold or warm start that reaches READY leaves the device blank but for what the record configures; a
start that fails, or takes too long, is a failed boot or enters recovery mode, as does one whose record fails its checks; and
removing power turns the device off. -/
def Obligations.Starts : Prop :=
  (∀ s r, let checked := recordOk s.boot
    (checked = true → s.boot.recoveryNext = false → fwSlot s.boot s.boot.next ≠ none → r = .ready →
      ∃ t, exec (.coldStart r) s = .next t ∧ Blank s t ∧ Configured s t ∧ RunsNext s t false ∧ t.mem = [] ∧ t.wstore = [] ∧ t.lstore = [] ∧
        (∀ k, (getStack t k).mclk = 0) ∧ t.svc.ras = []) ∧
    (checked = true → s.boot.recoveryNext = false →
      (r = .ready ∧ fwSlot s.boot s.boot.next = none) ∨ (∃ n : BitVec 4, n ≠ 1 ∧ r = .failed n) →
      ∃ t, exec (.coldStart r) s = .next t ∧ Blank s t ∧ FailedBoot s t) ∧
    (checked = false → ∃ t, exec (.coldStart r) s = .next t ∧ Blank s t ∧ t.boot.mode = .recovery ∧ t.boot.record.valid = false ∧
      ∀ k, enmapWord t k = 0) ∧
    (checked = true → r = .failed 1 ∨ s.boot.recoveryNext = true → ∃ t, exec (.coldStart r) s = .next t ∧ Blank s t ∧
      t.boot.mode = .recovery ∧ t.boot.record.valid = true)) ∧
  (∀ s kept, (s.boot.mode = .off → ∀ r, exec (.warmStart kept r) s = .next s) ∧
    (s.boot.mode ≠ .off → recordOk s.boot = false → ∀ r, ∃ t, exec (.warmStart kept r) s = .next t ∧ t.boot.mode = .recovery ∧
      t.boot.record.valid = false ∧ t.svc.ras = s.svc.ras ∧ ∀ k, (getStack t k).mclk = (getStack s k).mclk) ∧
    (s.boot.mode ≠ .off → recordOk s.boot = true → s.boot.recoveryNext = false → fwSlot s.boot s.boot.next ≠ none →
      s.queues.length = 32 → s.clusters.length = 32 →
      let was := fun i => (s.boot.savedSensors.getD i 0).toInt
      let now := fun i => (((getStack s 0).sensors ++ (getStack s 1).sensors).getD i 0).toInt
      let near := ∀ i, i < 72 → was i - 160 ≤ now i ∧ now i ≤ was i + 160
      ∃ t w, exec (.warmStart kept .ready) s = .next t ∧ (w = true ↔ kept = true ∧ near) ∧ Blank s t ∧ Configured s t ∧ RunsNext s t w ∧
        t.mem = [] ∧ t.wstore = [] ∧ t.svc.ras = s.svc.ras ∧ (∀ k, (getStack t k).mclk = (getStack s k).mclk) ∧
        ∀ q, (getQueue t q).executed = (getQueue s q).executed)) ∧
  (∀ s, (s.boot.mode = .starting → s.boot.startedAt + 15000000000 ≤ (getStack s 0).mclk → s.boot.recoveryNext = false →
      (recordOk s.boot = true → BitVec.ofNat 4 s.who.count ≠ 1 → ∃ t, exec .startTimeout s = .next t ∧ Blank s t ∧ FailedBoot s t) ∧
      (recordOk s.boot = false ∨ BitVec.ofNat 4 s.who.count = 1 → ∃ t, exec .startTimeout s = .next t ∧ Blank s t ∧
        t.boot.mode = .recovery ∧ t.boot.record.valid = recordOk s.boot)) ∧
    (s.boot.mode ≠ .starting ∨ (getStack s 0).mclk < s.boot.startedAt + 15000000000 → exec .startTimeout s = .next s)) ∧
  ∀ s, ∃ t, exec .powerRemoved s = .next t ∧ Blank s t ∧ t.boot = { s.boot with mode := .off, live := none } ∧ t.thermtrip = false ∧ t.mem = []

/-- 01 R51 to R53, 03 R105, 15 R358, 17 R402 R405 to R411: what falls due on a stack or a cluster: the ring's target, the charge window, a
pending pattern, canary warnings and their decay, sensor readings, the ends of charge, quota and refresh windows, and an issue quota
that faults. -/
def Obligations.ClockEvents : Prop :=
  (∀ s, s.stks.length = 2 → s.clusters.length = 32 → let k := s.who.stk
    let x := getStack s k
    let goal := if s.thermtrip then 0 else if x.throttled then x.tpop.toNat else x.pop.toNat
    let pools := ((List.range 16).map (fun j => (getCluster s (BitVec.ofNat 5 (16 * k.toNat + j))).pool)).sum
    (x.ringP < goal → x.insertedAt = some x.mclk → exec .targetChange s = .next (updStack s k (fun y => { y with target := goal }))) ∧
    (x.ringP < goal → x.insertedAt ≠ some x.mclk → exec .targetChange s = .next (updStack s k (fun y => { y with
      target := goal, ringP := y.ringP + min 8 (goal - y.ringP), free := y.free + min 8 (goal - y.ringP), insertedAt := some y.mclk }))) ∧
    (goal < x.ringP → ∃ t, exec .targetChange s = .next t ∧ let n := min (x.free + pools) (x.ringP - goal)
      getStack t k = { x with target := goal, ringP := x.ringP - n, free := x.free + pools - n } ∧
      (∀ j, j < 16 → (getCluster t (BitVec.ofNat 5 (16 * k.toNat + j))).pool = 0) ∧ getStack t (~~~k) = getStack s (~~~k)) ∧
    (x.ringP = goal → x.flag = false → s.svc.retClusters = 0 → exec .targetChange s = .next (updStack s k (fun y => { y with target := goal })))) ∧
  (∀ s, let cl := s.who.cl
    let k := clusterStack cl
    let c := getCluster s cl
    let x := getStack s k
    let n := ((c.windows.filter (fun y => decide (y.ends ≤ c.clk))).map (fun y => y.tokens)).sum
    let aside := x.flag = true ∨ x.target < x.ringP ∨ s.svc.retClusters.getLsbD cl.toNat = true
    (c.latched < x.mclk / Config.clocksPerUs → exec .chargeLatch s = .next (updCluster s cl (fun y => { y with charge := y.acc, acc := 0, latched := x.mclk / Config.clocksPerUs }))) ∧
    (x.mclk / Config.clocksPerUs ≤ c.latched → cl.toNat < s.clusters.length → exec .chargeLatch s = .next s) ∧
    (c.pending = none → exec .patternSwitch s = .next s) ∧
    (∀ p, c.pending = some p → (x.mclk % 16 = 0 → voltOf s p + offsetOf s k ≤ x.supply →
        exec .patternSwitch s = .next (updCluster s cl (fun y => { y with pattern := p, pending := none }))) ∧
      (x.mclk % 16 ≠ 0 ∨ x.supply < voltOf s p + offsetOf s k → exec .patternSwitch s = .next s)) ∧
    (s.stks.length = 2 → (offsetOf s k ≠ 50 → x.canarySteps = 0 ∨ x.lastStep + Config.clocksPerUs ≤ x.mclk → exec .canaryWarning s = .next
        (updStack s k (fun y => { y with lastWarn := y.mclk, canary := y.canary + 5, lastStep := y.mclk, canarySteps := y.canarySteps + 1 }))) ∧
      (offsetOf s k ≠ 50 → x.canarySteps ≠ 0 → x.mclk < x.lastStep + Config.clocksPerUs → exec .canaryWarning s = .next (updStack s k (fun y => { y with lastWarn := y.mclk }))) ∧
      (offsetOf s k = 50 → cl.toNat < s.clusters.length → ∃ t, exec .canaryWarning s = .next t ∧ t.irqstat.getLsbD 38 = true ∧ (getStack t k).lastWarn = x.mclk ∧
        (slotsOn c.pattern ≤ 1 → getCluster t cl = c ∧ (getStack t k).stepDowns = x.stepDowns) ∧
        (1 < slotsOn c.pattern → (getStack t k).stepDowns = x.stepDowns + 1 ∧ ∃ p i, getCluster t cl = { c with pending := some p } ∧ i < 16 ∧
          c.pattern.getLsbD i = true ∧ (∀ j, i < j → c.pattern.getLsbD j = false) ∧ ∀ j, p.getLsbD j = (c.pattern.getLsbD j && decide (j ≠ i))))) ∧
    (s.stks.length = 2 → s.clusters.length = 32 → ∃ t, exec .chargeWindowEnd s = .next t ∧
      (getCluster t cl).windows = c.windows.filter (fun y => decide (c.clk < y.ends)) ∧
      (aside → (getCluster t cl).pool = c.pool ∧ (getStack t k).free = x.free + n) ∧
      (¬ aside → (getCluster t cl).pool = c.pool + min n (1024 - c.pool) ∧ (getStack t k).free = x.free + (n - min n (1024 - c.pool))))) ∧
  (∀ s, let k := s.who.stk
    let x := getStack s k
    (x.lastWarn + 1500000000 ≤ x.mclk → x.canary ≠ 0 → exec .canaryDecay s = .next (updStack s k (fun y => { y with canary := y.canary - 5, lastWarn := y.lastWarn + 1500000000 }))) ∧
    (x.mclk < x.lastWarn + 1500000000 ∨ x.canary = 0 → k.toNat < s.stks.length → exec .canaryDecay s = .next s) ∧
    (x.interval < x.mclk / 15000000 → k.toNat < s.stks.length → ∃ t, exec .quotaInterval s = .next t ∧ (getStack t k).interval = x.mclk / 15000000 ∧
      ∀ c, c.toNat < s.ctxs.length → let y := ctxStack (getCtx s c) k
        ctxStack (getCtx t c) k = { y with usedIssue := 0, usedNet := 0, issueQ := (getCtx s c).issueq, netQ := (getCtx s c).netq, quotaFaulted := false } ∧
        ctxStack (getCtx t c) (~~~k) = ctxStack (getCtx s c) (~~~k)) ∧
    (x.mclk / 15000000 ≤ x.interval → exec .quotaInterval s = .next s) ∧
    ∃ ms, exec .refreshWindowEnd s = .next { s with agenda := ms ++ s.agenda } ∧ ∀ m, m ∈ ms ↔ ∃ w slot p o, w ∈ s.waves ∧ waveLive w = true ∧
      coreStack w.core = k ∧ getSlot w slot = .held p ∧ slot2At s w.core (waveCtx s w) p.pc = some (.ldw o) ∧ ldwHeld o (stageOf s w slot []) = false ∧
      m = .complete w.id slot) ∧
  (∀ s k rs, rs.length = 36 → k.toNat < s.stks.length → let x := getStack s k
    ∃ t, exec (.sensorCompare k rs) s = .next t ∧ (getStack t k).sensors = rs ∧
      (x.advised = false → (reach rs x.advise → (getStack t k).advised = true ∧ (getStack t k).advises = x.advises + 1 ∧ t.irqstat.getLsbD 39 = true) ∧
        (¬ reach rs x.advise → (getStack t k).advised = false ∧ (getStack t k).advises = x.advises)) ∧
      (x.advised = true → ((getStack t k).advised = false ↔ cool rs x.advise) ∧ (getStack t k).advises = x.advises) ∧
      (x.throttled = false → (reach rs x.throttle → (getStack t k).throttled = true ∧ (getStack t k).throttles = x.throttles + 1 ∧ t.irqstat.getLsbD 39 = true) ∧
        (¬ reach rs x.throttle → (getStack t k).throttled = false ∧ (getStack t k).throttles = x.throttles)) ∧
      (x.throttled = true → ((getStack t k).throttled = false ↔ cool rs x.throttle) ∧ (getStack t k).throttles = x.throttles) ∧
      (t.thermtrip = true ↔ s.thermtrip = true ∨ reach rs s.boot.record.shutdown) ∧ getStack t (~~~k) = getStack s (~~~k)) ∧
  ∀ s, s.badAddr = none → s.who.ctx.toNat < s.ctxs.length → let c := s.who.ctx
    let k := s.who.stk
    let x := getCtx s c
    let q := ctxStack x k
    let due := x.iqmode = true ∧ q.issueQ ≠ 0 ∧ q.issueQ.toNat * 65536 ≤ q.usedIssue ∧ q.quotaFaulted = false
    (¬ due → exec .issueQuotaReached s = .next s) ∧
    (due → (∀ tm ∈ s.teams, tm.ctx = c → tm.stk = k → tm.status = .done ∨ tm.status = .faulted) →
      (x.flcount = 0 → exec .issueQuotaReached s = .next { updCtx s c (fun y => updCtxStack y k (fun z => { z with quotaFaulted := true })) with freeCount := s.freeCount + 1 }) ∧
      (x.flcount ≠ 0 → (x.flhead.toNat + 1) % x.flcount.toNat ≠ x.fltail.toNat % x.flcount.toNat → x.flbase.toNat + 64 * x.flhead.toNat + 64 ≤ s.svc.installed →
        ∃ t, exec .issueQuotaReached s = .next t ∧ (ctxStack (getCtx t c) k).quotaFaulted = true ∧ t.irqstat.getLsbD 33 = true ∧
          HoldsAt t (fun j => { host := false, addr := x.flbase.toNat + 64 * x.flhead.toNat + j }) [(0, 4, 0x18 + 2 ^ 27)])) ∧
    (due → x.flcount = 0 → ∀ tm, s.teams = [tm] → tm.ctx = c → tm.stk = k → tm.status = .running → (∀ w ∈ s.waves, w.team = tm.id → endFaults w = []) →
      ∃ t, exec .issueQuotaReached s = .next t ∧ EndedFaulted s t tm ∧ (ctxStack (getCtx t c) k).quotaFaulted = true)

/-! ### Events of waves and teams (01, 02, 05, 09) -/

/-- 01 R24 R25 R28 R43 R50 to R58, 07 R206, 09 R270 R276 R277: a HELD bundle completes as it would issue, RSHRINK among it; the pool grants a
growth; parked slots go on; a wave switches slots; a YIELD hint and a stall end; a wave starves, and its stop captures tokens for it. -/
def Obligations.WaveEvents : Prop :=
  (∀ s w p b, MayComplete s w p b → let k := s.who.slot
    exec .heldBundleComplete s = runBundle exec (stageOf (markTurn s w) w k (bundleSets b)) w b ∧
    (bundleInstrs b = [(2, .teamdone)] → ∀ tm, findTeam s w.team = some tm → tm.task = none → ∃ t u v, exec .heldBundleComplete s = .next t ∧
      findTeam t w.team = some v ∧ v.tdone = true ∧ findWave t w.id = some u ∧ getSlot u k = .ready { p with pc := p.pc + 32 }) ∧
    (∀ g, bundleInstrs b = [(2, .rshrinkImm g)] → (∀ x ∈ s.waves, x.growA = 0 ∧ x.growB = 0) → 8 * g.toNat < w.allot.toNat → ∃ t u,
      exec .rshrinkComplete s = .next t ∧ findWave t w.id = some u ∧ u.allot.toNat = 8 * g.toNat ∧ getSlot u k = .ready { p with pc := p.pc + 32 } ∧
      (∀ n l, n < 8 * g.toNat → l < 32 → readV u n l = readV w n l) ∧ u.sr = w.sr ∧ u.pr = w.pr ∧ t.mem = s.mem)) ∧
  (∀ s v, findWave s v.id = some v → waveLive v = true → v.core = s.who.core → v.part = s.who.part → growOf v ≠ 0 → s.badAddr = none →
    (∀ x ∈ s.waves, x.id ≠ v.id → x.core = v.core → x.part = v.part → growOf x = 0) → s.waves.Pairwise (fun x y => x.id ≠ y.id) →
    (growOf v).toNat / 8 - v.allot.toNat / 8 ≤ granulesFree s v.core v.part →
    exec .rgrowGrant s = .next (setWave s { v with allot := if v.allot.toNat < (growOf v).toNat then growOf v else v.allot, growA := 0, growB := 0 })) ∧
  (∀ s w p, Named s w → let k := s.who.slot
    (∀ c n, getSlot w k = .parked p (.counter c n) → ((counterOf w c).toNat ≤ n.toNat → exec .parkedWake s = .next (setWave s (setSlot w k (.ready { p with pc := p.pc + 32 })))) ∧
      (n.toNat < (counterOf w c).toNat → exec .parkedWake s = .next s)) ∧
    (∀ n goal, getSlot w k = .parked p (.copyYield n goal) → (w.cntCopy.toNat ≤ n.toNat → exec .parkedWake s = .next (setWave s (setSlot w k (.ready { p with pc := goal })))) ∧
      (n.toNat < w.cntCopy.toNat → exec .parkedWake s = .next s)) ∧
    (∀ b, getSlot w k = .parked p (.barrier b true) → ∃ t u, exec .parkedWake s = .next t ∧ findWave t w.id = some u ∧
      getSlot u k = .ready { p with pc := p.pc + 32 } ∧ (∀ j, j < 16 → u.pendingBit.getLsbD j = (w.pendingBit.getLsbD j && decide (j ≠ b.toNat))) ∧
      u.vr = w.vr ∧ u.sr = w.sr ∧ t.mem = s.mem ∧ ((teamOf s w).pair = true → Invalidated t w.core) ∧ ((teamOf s w).pair = false → t.cc = s.cc)) ∧
    ∀ o a c d woken last, getSlot w k = .parked p (.addr o a c d woken last) → (o.isLocal = true ∨ wideScope (teamOf s w).pair o.scope = false) →
      ∀ place, (o.isLocal = true ∨ (translateAt s w.core (waveCtx s w) a .read = .ok place ∧ watchPoisoned s w o place = false ∧ place.addr + 8 ≤ 2 ^ 52)) → let clk := (getCluster s (coreCluster w.core)).clk
      let x := watchedWord s w o place a.toNat
      (woken = false → clk < d → exec .waitaddrWake s = .next s) ∧
      (woken = true ∨ d ≤ clk → ∃ t u, exec .waitaddrWake s = .next t ∧ findWave t w.id = some u ∧ (o.isLocal = true → t.mem = s.mem) ∧ (o.isLocal = false → WroteBack s t w.core) ∧ t.lstore = s.lstore ∧
        (x ≠ c ∨ d ≤ clk → getSlot u k = .ready { p with pc := p.pc + 32 } ∧ ∀ j, readS u j = if j = o.d.toNat then x.setWidth 32
          else if j = o.d.toNat + 1 ∧ o.size = .b8 then x.extractLsb' 32 32 else readS w j) ∧
        (x = c → clk < d → ∃ y, Stirred w y ∧ u = setSlot y k (.parked p (.addr o a c d false (getStack s (coreStack w.core)).mclk))))) ∧
  (∀ s w, Named s w → let clk := (getCluster s (coreCluster w.core)).clk
    (w.fair.toNat < 64 → canIssue s w w.cur = true → exec .slotSwitch s = .next s) ∧
    (w.fair.toNat < 64 → canIssue s w w.cur = false → canIssue s w (otherSlot w.cur) = true → exec .slotSwitch s = .next (setWave s { w with cur := otherSlot w.cur, fair := 0 })) ∧
    (64 ≤ w.fair.toNat → otherReady w = true → canIssue s w (otherSlot w.cur) = true → exec .slotSwitch s = .next (setWave s { w with cur := otherSlot w.cur, fair := 0 })) ∧
    (w.yieldUntil ≤ clk → exec .yieldHintExpiry s = .next (setWave s { w with yieldUntil := 0 })) ∧ (clk < w.yieldUntil → exec .yieldHintExpiry s = .next s) ∧
    (∀ b, waveBid s w = some b → let cl := coreCluster w.core
      (grants s cl (poolFree s cl) b = true → exec .stallExpiry s = .next (setWave s { w with candSince := some (w.candSince.getD clk), dearSince := none })) ∧
      (grants s cl (poolFree s cl) b = false → exec .stallExpiry s = .next (setWave s { w with candSince := none, dearSince := some (w.dearSince.getD clk) }))) ∧
    (clk < w.yieldUntil ∨ throttled s (waveCtx s w) (coreStack w.core) = true ∨ w.frameWait ≠ none ∨ (w.bfaults = [] ∧ canIssue s w (presented s w) = false) →
      exec .stallExpiry s = .next (setWave s { w with candSince := none, dearSince := none })) ∧
    (∀ c, w.candSince = some c ∨ w.dearSince = some c → c + 1024 ≤ clk → exec .starving s = .next (setWave s { w with starving := true })) ∧
    ((∀ c, w.candSince = some c ∨ w.dearSince = some c → clk < c + 1024) → exec .starving s = .next s)) ∧
  (∀ s, exec .spinning s = .next s) ∧
  ∀ s, s.stks.length = 2 → s.clusters.length = 32 → let cl := s.who.cl
    let k := clusterStack cl
    let c := getCluster s cl
    let pools := ((List.range 16).map (fun j => (getCluster s (BitVec.ofNat 5 (16 * k.toNat + j))).pool)).sum
    (c.serving = none → tokenStarvers s cl = [] → exec .starvationCapture s = .next s) ∧
    (c.serving = none → tokenStarvers s cl ≠ [] → ∃ t b, exec .starvationCapture s = .next t ∧ b ∈ tokenStarvers s cl ∧
      (∀ x ∈ tokenStarvers s cl, b.age ≤ x.age) ∧ (getStack t k).flag = true ∧ (∀ j, j < 16 → (getCluster t (BitVec.ofNat 5 (16 * k.toNat + j))).pool = 0) ∧
      let n := min ((getStack s k).free + pools) b.price
      (getCluster t cl).serving = some b.who ∧ (getCluster t cl).servedTokens = n ∧ (getCluster t cl).captures = c.captures + 1 ∧
        (getStack t k).free = (getStack s k).free + pools - n) ∧
    (∀ x, c.serving = some x → (∀ b ∈ clusterBids s cl, b.who = x → b.starving = false ∨ b.price = 0) → ∃ t, exec .starvationCapture s = .next t ∧
      (getCluster t cl).serving = none ∧ (getCluster t cl).servedTokens = 0) ∧
    (∀ x b, c.serving = some x → (clusterBids s cl).find? (fun b => decide (b.who = x) && b.starving && decide (b.price ≠ 0)) = some b →
      ∃ t, exec .starvationCapture s = .next t ∧ let n := min (getStack s k).free (b.price - c.servedTokens)
      (getCluster t cl).servedTokens = c.servedTokens + n ∧ (getStack t k).free = (getStack s k).free - n ∧ (getCluster t cl).serving = some x)

/-- 01 R38 to R42: REGROUP packs the lanes of a team's waves, by wave and lane, into the lowest positions of its lowest waves; each lane keeps
its vector registers and predicates, each new wave the scalars of the lowest wave it took lanes from; the paths go on at PC + 32, and the waves
without lanes retire. -/
def Obligations.RegroupPacksLanes : Prop :=
  ∀ s tm ws pc fmt, AtRegroup s tm ws pc fmt → let lanes := parkedLanes ws
    ∃ t, exec .regroupComplete s = .next t ∧ t.mem = s.mem ∧ t.lstore = s.lstore ∧ ∀ j w, ws[j]? = some w → ∃ u, findWave t w.id = some u ∧
      (lanes.length ≤ 32 * j → u.status = .retired ∧ u.slotA = .empty ∧ u.slotB = .empty) ∧
      (32 * j < lanes.length → ∃ m, u.slotA = .ready { pc := pc + 32, mask := m, fmt := fmt, jpc := 0, jv := false } ∧ u.slotB = .empty ∧
        u.num.toNat = j ∧ u.allot = w.allot ∧ (∀ k, k < 32 → (inMask m k = true ↔ 32 * j + k < lanes.length)) ∧
        ∀ k x, k < 32 → lanes[32 * j + k]? = some x →
          (∀ n, n < w.allot.toNat → readV u n k = readV x.1 n x.2) ∧ (∀ n, n < 8 → inMask (readP u n) k = inMask (readP x.1 n) x.2) ∧
          cellsRead u.tlane k = cellsRead x.1.tlane x.2 ∧ (k = 0 → ∀ n, readS u n = readS x.1 n))

/-- 01 R18 R59 R60, 02 R66 to R69 R85 R86 R89 R91 R93 to R96: the scheduler places the batch it has chosen, at once, at its time-out, at a graph's
drain, or as the mesh team of a payload; a stack steals records of the other; a team and a run end; a team is rotated off for another. -/
def Obligations.SchedulerEvents : Prop :=
  (∀ s e c n why r s', s.badAddr = none → s'.badAddr = none → candsOf s s.who.stk = [c] → c.kind = .batch n why → findRun s c.run = some r →
    tryCand s s.who.stk s.who.core c = .placed s' → (∀ tm ∈ s.teams, tm.id ≠ s.nextId) →
    (e, why) ∈ [(Instr.placeTeam, Trigger.now), (.gatherTimeout, .timeout), (.graphDrain, .drain)] → (e = .placeTeam → restoringTeams s s.who.stk = []) →
    ∃ t, exec e s = .next t ∧ Launches s t r c.node (pickBatch r c.node (queuePart s r.id c.node s.who.stk) n)) ∧
  (∀ s e, s.badAddr = none → candsOf s s.who.stk = [] → restoringTeams s s.who.stk = [] → swappedTeams s s.who.stk = [] →
    e ∈ [Instr.placeTeam, .gatherTimeout, .graphDrain, .meshPlace] → exec e s = .next s) ∧
  (∀ s c tid port r tm g p s', s.badAddr = none → s'.badAddr = none → candsOf s s.who.stk = [c] → c.kind = .mesh tid port → findRun s c.run = some r →
    findTeam s tid = some tm → ringOf tm port = some g → nextPayload g = some p → tryCand s s.who.stk s.who.core c = .placed s' →
    (∀ x ∈ s.teams, x.id ≠ s.nextId) → ∃ t u y, exec .meshPlace s = .next t ∧ findTeam t s.nextId = some u ∧ u.status = .running ∧ u.task = some (tid, port) ∧
      u.batch.map (fun x => x.bytes) = [p.bytes] ∧ findTeam t tid = some y ∧
      ∀ v ∈ y.rings, v.port = port → ∀ z ∈ v.pays, z.slot = p.slot → z.team = some s.nextId) ∧
  (∀ s r s', s.badAddr = none → s'.badAddr = none → findRun s s.who.run = some r → let k := s.who.stk
    let node := s.who.node
    stealOpen s r k node = true → makeTeam s r (freshTeam s r node k [] 0 0 none) (stealBatch (runNode r node))
      (fun s => findPlacement s (nodeNeed r node) k s.who.core) = .placed s' →
    ∃ t g, exec .stealRequest s = .next t ∧ findRun t r.id = some g ∧ { stk := k, node := node, team := s.nextId, served := false } ∈ g.steals ∧ t.recs = s.recs) ∧
  (∀ s r v, s.badAddr = none → findSteal s = some (r, v) → runOpen s r = true → v.served = false → (∃ tm, findTeam s v.team = some tm) →
    let part := queuePart s r.id v.node (~~~v.stk)
    (part = [] → ∃ t g, exec .stealServe s = .next t ∧ findRun t r.id = some g ∧ v ∉ g.steals ∧ (∀ tm ∈ t.teams, tm.id ≠ v.team) ∧ t.recs = s.recs) ∧
    (part ≠ [] → ∃ t tm, exec .stealServe s = .next t ∧ findTeam t v.team = some tm ∧ let took := part.take (stealBatch (runNode r v.node))
      tm.batch = took.map (stolenRec v.stk) ∧
      t.recs = took.foldl (fun l x => l.erase x) s.recs ∧ cellsRead t.hinge 2 = cellsRead s.hinge 2 + BitVec.ofNat 64 took.length ∧
      cellsRead t.hinge 3 = cellsRead s.hinge 3 + 1)) ∧
  (∀ s r v tm, s.badAddr = none → findSteal s = some (r, v) → runOpen s r = true → v.served = true → findTeam s v.team = some tm → findRun s tm.run = some r →
    (runNode r v.node).kind ≠ 2 → v.stk.toNat < s.stks.length → ∃ t u g, exec .recordArrival s = .next t ∧ findTeam t v.team = some u ∧ u.status = .running ∧
      u.launch = v.stk ++ (getStack s v.stk).launchId ∧ findRun t r.id = some g ∧ v ∉ g.steals ∧ u.batch = tm.batch) ∧
  (∀ s tm, s.badAddr = none → findTeam s s.who.team = some tm → (teamFinished s tm = false → exec .teamEnd s = .next s) ∧
    (teamFinished s tm = true → tm.rings = [] → tm.task = none → (teamNode s tm).sig = 0 → ∃ t, exec .teamEnd s = .next t ∧ (∀ x ∈ t.teams, x.id ≠ tm.id) ∧
      (∀ w ∈ t.waves, w.team ≠ tm.id) ∧ t.mem = s.mem ∧ ∀ r, findRun s tm.run = some r → ∃ g, findRun t tm.run = some g ∧ g.faulted = (r.faulted || tm.faultedMark))) ∧
  (∀ s r, s.badAddr = none → findRun s s.who.run = some r → (∀ x ∈ s.runs, x.id = r.id → x = r) → r.ctx.toNat < s.ctxs.length →
    (runQuiet s r = false ∨ runOpen s r = false → exec .runQuiescence s = .next s) ∧
    (runQuiet s r = true → runOpen s r = true → let bad := r.faulted = true ∨ ∃ x ∈ r.rasters, x.stopped = true
      (r.sig = 0 → ∃ t, exec .runQuiescence s = .next t ∧ (∀ x ∈ t.runs, x.id ≠ r.id) ∧ t.mem = s.mem ∧
        ((∀ x ∈ s.runs, x.ctx = r.ctx → x.id = r.id) → (getCtx t r.ctx).state = .idle)) ∧
      (∀ l, r.sig ≠ 0 → r.cores = [] → WordAt s r.ctx r.sig .write l → (l.host = true → s.hostAtomics = true) → ∃ t, exec .runQuiescence s = .next t ∧
        (¬ bad → WordWritten s t l (homeWord s l + 1)) ∧ (bad → WordWritten s t l ((homeWord s l + 1) ||| BitVec.twoPow 64 63))))) ∧
  ∀ s tm y x s', s.badAddr = none → leavingTeam s s.who.ctx s.who.stk = none → let k := s.who.stk
    let c := s.who.ctx
    let stopped := updStack (stopTeam s tm.id) k (fun z => { z with rotatedAt := some (masterClock s k) })
    let out := rotateOut stopped tm.id
    (rotationDue s c k = false → exec .residencyRotation s = .next s) ∧
    (rotationDue s c k = true → rotationVictim s c k = some tm → leavingTeam stopped c k = some y → y.id = tm.id → stopped.badAddr = none →
      (teamQuiet stopped y = false → exec .residencyRotation s = .next stopped) ∧
      (teamQuiet stopped y = true → (getCtx stopped c).saving = false → (swappedTeams out k).filter (fun z => decide (z.id ≠ tm.id)) = [x] →
        tryRestore out k s.who.core x = some s' → s'.badAddr = none → ∃ t u v, exec .residencyRotation s = .next t ∧
          findTeam t x.id = some u ∧ u.status = .running ∧ findTeam t tm.id = some v ∧ v.status = .swapped))

/-! ### Copies, jobs and RASTER nodes (05, 06, 09) -/

/-- 09 R273 R274 R275: a step of a copy moves units between the local window and the column cache, in order and within an aligned
256-byte block, and at the end of a chunk makes its arrival; the first error stops the copy with its code; a finished copy
writes its status word, and retires behind the older copies of its wave: the COPY counter, and COPYERR where it met an error. -/
def Obligations.CopiesMoveAndRetire : Prop :=
  ∀ s tm c, NamedCopy s tm c → let e := c.entry
    (∀ place, c.finished = false → c.waitPhase = false → c.code = 0 → c.stopped = false → UnitsPlaced s tm c place →
      let b := { c with units := max c.units (stepEnd s c) }
      let d := { b with arrivals := c.arrivals + 1, finished := lastChunk c }
      (stepEnd s c < chunkEnd c → ∃ t, exec .copyChunk s = .next t ∧ UnitsMoved s t tm c place ∧
        findTeam t tm.id = some (withCopy tm c b)) ∧
      (chunkEnd c ≤ stepEnd s c → ceBv e = false → ∃ t, exec .copyChunk s = .next t ∧ UnitsMoved s t tm c place ∧
        findTeam t tm.id = some (withCopy tm c d)) ∧
      (chunkEnd c ≤ stepEnd s c → ceBv e = true → tm.pair = false → countOf tm (ceBar e) + 1 < expectedOf tm (ceBar e) →
        ∃ t u, exec .copyChunk s = .next t ∧ UnitsMoved s t tm c place ∧ findTeam t tm.id = some u ∧
          countAt (withCopy tm c { d with waitPhase := true }) u (ceBar e) (BitVec.ofNat 8 (countOf tm (ceBar e) + 1))) ∧
      (chunkEnd c ≤ stepEnd s c → ceBv e = true → tm.pair = false → expectedOf tm (ceBar e) = 0 →
        ∃ t, exec .copyChunk s = .next t ∧ findTeam t tm.id = some (withCopy tm c { d with code := 4 }))) ∧
    (∀ k, c.finished = false → c.waitPhase = false → c.code = 0 → c.stopped = false → ceBv e = false → c.units < stepEnd s c →
      translateAt s (waveCore s c.wave tm) tm.ctx (unitGlobal e c.units) (if ceDir e = 0 then .read else .write) = .error k →
      let d := { c with units := stepEnd s c, code := 1, stopped := true, errUnits := c.units, errFkind := k,
                        errAddr := unitGlobal e c.units }
      exec .copyChunk s = .next (setTeam s (withCopy tm c (if chunkEnd c ≤ stepEnd s c then
        { d with arrivals := c.arrivals + 1, finished := lastChunk c } else d)))) ∧
    (c.finished = false → exec .copyRetire s = .next s) ∧
    (c.finished = true →
      let n := min 16777215 (if c.code = 0 ∨ c.code = 4 then totalUnits e else c.errUnits)
      let key := localKey tm (ceStaddr e)
      let written := fun (t : State) => ∀ k, cellsRead t.lstore k =
        if ceSv e = true ∧ c.statusDone = false ∧ key ≤ k ∧ k < key + 4 then
          BitVec.ofNat 8 ((c.code.toNat * 2 ^ 24 + n) / 256 ^ (k - key)) else cellsRead s.lstore k
      ((∃ x ∈ tm.copies, x.wave = c.wave ∧ x.seq < c.seq) →
        (c.statusDone = true → exec .copyRetire s = .next s) ∧
        (c.statusDone = false → ∃ t, exec .copyRetire s = .next t ∧ written t ∧ t.mem = s.mem ∧
          findTeam t tm.id = some (withCopy tm c { c with statusDone := true }))) ∧
      (∀ w, (∀ x ∈ tm.copies, x.wave = c.wave → c.seq ≤ x.seq) → findWave s c.wave = some w →
        (c.code ≠ 0 → (getCtx s tm.ctx).flcount = 0 ∧ tm.ctx.toNat < s.ctxs.length) →
        ∃ t v, exec .copyRetire s = .next t ∧ written t ∧ findWave t c.wave = some v ∧ v.cntCopy = w.cntCopy - 1 ∧
          findTeam t tm.id = some { tm with
            copies := tm.copies.filter (fun x => decide (x.seq ≠ c.seq) || decide (x.wave ≠ c.wave)), copyHead := tm.copyHead + 1 } ∧
          (getCtx t tm.ctx).copyerr = satCount (getCtx s tm.ctx).copyerr (if c.code = 0 then 0 else 1) ∧ t.mem = s.mem))

/-- 05 R431 R433 R434: a well-formed MATRIX job takes a free entry of its cluster's engine; the pass of a job of class I8 without C,
of one tile and one pass, leaves in each element of D the sum of products of its row of A and column of B, modulo 2^32, and its
team ends; a malformed record ends the team FAULTED. -/
def Obligations.MatrixJobsCompute : Prop :=
  (∀ s tm r c i, JobTeam s tm r → tm.stopping = false → tm.job = none → jobEntry s tm = none → jobClass r = some c →
    jobBad r c = false → let cl := coreCluster tm.core
    cl.toNat < s.engines.length → freeEntry (getEngine s cl) = some i → ∃ t e, exec .matrixJob s = .next t ∧
      findTeam t tm.id = some { tm with job := some { left := List.range (jobTiles r), pass := 0, acc := [], old := jobOld s tm r c } } ∧
      jobEntry t tm = some e ∧ e.idx = i ∧ e.state = .ready) ∧
  (∀ s tm r e fa fb a b d, JobReady s tm r e fa fb a b d → ∃ t u, exec .matrixJob s = .next t ∧
    (∀ i j k, i < jobM r → j < jobN r → k < 4 → homeByte t (d i (4 * j + k)) =
      (BitVec.ofInt 32 ((List.range (jobK r)).map (fun x => (fa i x).toInt * (fb x j).toInt)).sum).extractLsb' (8 * k) 8) ∧
    findTeam t tm.id = some u ∧ u.job = none ∧
    ∀ id w, findWave s id = some w → w.team = tm.id → waveLive w = true → ∃ u, findWave t id = some u ∧ u.status = .exited) ∧
  ∀ s tm r, JobTeam s tm r → tm.stopping = false → jobEntry s tm = none → (getCtx s tm.ctx).flcount = 0 →
    (jobClass r = none ∨ ∃ c, jobClass r = some c ∧ jobBad r c = true) →
    ∃ t u, exec .matrixJob s = .next t ∧ findTeam t tm.id = some u ∧ u.faultedMark = true

/-- 06 R176 to R184 R435: the binner discards, culls or bins the primitive it takes from its queue, or starts a flush; the final
flush renders the tiles that list primitives or resets the heap; the rasteriser emits the quads of one primitive in one tile; a
stopped node drops and counts its records. -/
def Obligations.RasterNodesRun : Prop :=
  ∀ s r x, NamedRaster s r x →
    (x.stopped = true → r.ctx.toNat < s.ctxs.length → ∃ t, exec .rasterStop s = .next t ∧
      t.recs = s.recs.filter (fun y => !(decide (y.run = r.id) && decide (y.node = x.node))) ∧
      (getCtx t r.ctx).droprec = satCount (getCtx s r.ctx).droprec
        (s.recs.filter (fun y => decide (y.run = r.id) && decide (y.node = x.node))).length) ∧
    (x.stopped = false → exec .rasterStop s = .next s) ∧
    (x.stopped = true ∨ x.flush ≠ none ∨ queuePart s r.id x.node (rasterHome x) = [] → exec .binPrimitive s = .next s) ∧
    ∀ place, PmPlaced s r x place → x.stopped = false →
      (∀ p, x.flush = none → binChoice x s.who.count (queuePart s r.id x.node (rasterHome x)) = some p →
        (∀ g ∈ s.tags, g.place ≠ .record p.tag) →
        (snapAll p.bytes = none → ∃ t, exec .binPrimitive s = .next t ∧ WordRaised s t x place 8 ∧ Taken s t p) ∧
        ∀ v, snapAll p.bytes = some v → let need := unitsNeeded s x place v
          let bump := bumpWord s place
          (culled x (signedArea v) = true → ∃ t, exec .binPrimitive s = .next t ∧ WordRaised s t x place 4 ∧ Taken s t p) ∧
          (culled x (signedArea v) = false → rbUnits x < heapStart x.num + need →
            ∃ t, exec .binPrimitive s = .next t ∧ WordRaised s t x place 8 ∧ Taken s t p) ∧
          (culled x (signedArea v) = false → HeadsSane s x place v → heapStart x.num + need ≤ rbUnits x → bump + need ≤ rbUnits x →
            ∃ t, exec .binPrimitive s = .next t ∧ Taken s t p ∧ bumpWord t place = bump + need ∧
              (∀ k, k < 6 → pmWord t place (64 * bump + 4 * k) = (BitVec.ofInt 32 (coord v k)).toNat) ∧
              (∀ k, k < 2 → pmWord t place (64 * bump + 24 + 4 * k) = (wordAt p.bytes (24 + 4 * k)).toNat) ∧
              (∀ k, k < rasterTiles x.num → let one := if k ∈ listedTiles x v then 1 else 0
                headWord t place k 2 = headWord s place k 2 + one ∧ headWord t place k 3 = headWord s place k 3 + one) ∧
              ∀ k ∈ listedTiles x v, pmWord t place (64 * headWord t place k 1 + 4 * (headWord s place k 2 % 15)) = bump) ∧
          (∀ k l, culled x (signedArea v) = false → heapStart x.num + need ≤ rbUnits x → rbUnits x < bump + need →
            nextTile s r.ctx x (rasterTiles x.num) 0 = .ok (some (k, l)) → ∃ t y, exec .binPrimitive s = .next t ∧
              t.recs = s.recs ∧ t.mem = s.mem ∧ rasterNow t r x = some y ∧ y.flush = some { final := false, tile := k, prims := l })) ∧
      (inputsDone s r x = true → x.flush = none → x.finalDone = false →
        (∀ k l, nextTile s r.ctx x (rasterTiles x.num) 0 = .ok (some (k, l)) → ∃ t y, exec .finalFlush s = .next t ∧ t.mem = s.mem ∧
          rasterNow t r x = some y ∧ y.flush = some { final := true, tile := k, prims := l }) ∧
        (nextTile s r.ctx x (rasterTiles x.num) 0 = .ok none → ∃ t y, exec .finalFlush s = .next t ∧ rasterNow t r x = some y ∧
          y.finalDone = true ∧ y.flush = none ∧ bumpWord t place = heapStart x.num ∧ pmWord t place 12 = pmWord s place 12 ∧
          ∀ k, k < rasterTiles x.num → headWord t place k 0 = 0 ∧ headWord t place k 1 = 0 ∧ headWord t place k 2 = 0 ∧
            headWord t place k 3 = headWord s place k 3)) ∧
      ∀ f u rest edge, x.flush = some f → f.prims = u :: rest → portEdge r x.node 0 = some edge →
        u < rbUnits x → f.tile < rasterTiles x.num →
        let dst : BitVec 8 := BitVec.ofNat 8 (((r.edges[edge]?).map (fun e => e.dst)).getD 0)
        (quadRoom s r x dst = false → exec .rasterPrimitiveTile s = .next s) ∧
        (quadRoom s r x dst = true → rest ≠ [] →
          let v := (List.range 6).map (fun k => (BitVec.ofNat 32 (pmWord s place (64 * u + 4 * k))).toInt)
          let tx := f.tile % rbWide x
          let ty := f.tile / rbWide x
          ∃ t y, ∃ rs : List Rec, exec .rasterPrimitiveTile s = .next t ∧ t.mem = s.mem ∧ rasterNow t r x = some y ∧
            y.flush = some { f with prims := rest } ∧ t.recs = s.recs ++ rs ∧ rs.length = (quadsOf (rbMs4 x) v tx ty).length ∧
            ∀ (j : Nat) q z, (quadsOf (rbMs4 x) v tx ty)[j]? = some q → rs[j]? = some z → z.run = r.id ∧ z.node = dst ∧
              let qx := 32 * tx + 2 * (q % 16)
              let qy := 32 * ty + 2 * (q / 16)
              quadField z 15 0 = qx ∧ quadField z 31 16 = qy ∧ quadField z 63 32 = pmWord s place (64 * u + 24) ∧
                quadField z 95 64 = pmWord s place (64 * u + 28) ∧ quadField z 112 112 = (decide (0 < signedArea v)).toNat ∧
                quadField z 127 113 = 0 ∧ ∀ i n, i < 4 → n < 4 →
                  quadField z (96 + 4 * i + n) (96 + 4 * i + n) =
                    ((samples (rbMs4 x)).any (fun p => decide (p.1 = n) && sampleIn v qx qy i p)).toNat)

/-! ### Steps, encodings and the machine as a whole (07, 16) -/

/-- 07 R200 R205, 16 R387: a step is the next move of the agenda (the model's form of time, notes/assumptions/5.md). The issue of a
selected wave whose bytes at the PC decode runs exec of each instruction of the bundle in slot order, on the path moved to the
next bundle, where no wave of a higher place has acted in this clock; an event runs exec of that event; a step of the command core
runs exec of the word that the queue holds at its PC. The bytes are those of the instruction cache of the core's pair, or of their
home (notes/assumptions/27.md). -/
def Obligations.StepRunsDecoded : Prop :=
  (∀ s who i r, s.agenda = .act who i :: r →
    (isProgram i = false → step s = exec i { s with agenda := r, who := who }) ∧
    (isProgram i = true → step s = .next { s with agenda := r })) ∧
  (∀ s, s.agenda = [] → step s = finish (tick s)) ∧
  (∀ s core part r b id w p place x, s.agenda = .issue core part :: r → let q := { s with agenda := r }
    selected q core part = some b → b.who = .wave id → findWave q id = some w → q.clockMark ≤ wavePlace w → w.bfaults = [] →
    slotPath (getSlot w b.slot) = some p → let m := markTurn q w
    translateAt m w.core (waveCtx m w) (p.pc.setWidth 64) .fetch = .ok place →
    (codeHeld m w.core place = none → rangePoisoned m place 32 = false) →
    decodeBundleBits (BitVec.ofNat 256 (match codeHeld m w.core place with
      | some bs => littleEndian (fun k => bs.getD k 0) bs.length
      | none => littleEndian (fun k => homeByte m (Loc.plus place k)) 32)) = .ok x →
    faultedOp w x = none → bundleWaits m w x = false → let st := stageOf m w b.slot (bundleSets x)
      bundleTrap st x = none → anyHeld st x = false → anyDrains st x = false → step s = runBundle exec st w x ∧
      ((bundleInstrs x).any (fun e => usesStack e.2 || raisesTrap e.2) = false →
        let moved := updCur (accountIssue st w x) (fun w => setSlot w b.slot (.ready { p with pc := p.pc + 32 }))
        step s = andThen (runSlots exec (bundleInstrs x) moved) (fun t => .next (fairSwitch t)) ∧
        ∀ n i, bundleInstrs x = [(n, i)] → step s = andThen (exec i (setPipe moved n)) (fun t => .next (fairSwitch t)))) ∧
  ∀ s r q i z, s.agenda = .command :: r → let c := { s with agenda := r }
    allQueues.foldl settleLane c = c → readyLanes c = [(q, i)] → fetchWord c (getQueue c q) = some z → decodeKeyway z = .ok i ∧
      step s = exec i { c with unserved := List.replicate 6 0, iss := { s.iss with queue := q } }

/-- 07 R208 R211, 08 R228, 09 R259 R263, 10 R282, 11 R313 R318, 15 R371, 16 R388: words that the spec writes out decode to the
instructions that they stand for. -/
def Obligations.DecodedWords : Prop :=
  decodeSlot 0 0x0400280805050000 =
    .ok (.ffma { pr := .always, d := ⟨false, 10⟩, a := ⟨false, 4⟩, b := .vec ⟨false, 5⟩, c := ⟨false, 10⟩, rm := .none,
                 ma := ⟨false, false⟩, mb := ⟨false, false⟩, mc := ⟨false, false⟩ }) ∧
  decodeSlot 1 0x3000301803000400 = .ok (.iadd { pr := .always, d := ⟨false, 12⟩, a := ⟨false, 12⟩, b := .scl 3 } .wrap) ∧
  decodeSlot 2 0x6190000040000080 = .ok (.bra { pr := .on false 2, tofs := 8, jofs := 16 }) ∧
  decodeSlot 2 0xD200001C00000000 = .ok (.rplay 14) ∧ decodeSlot 2 0xD300000000000000 = .ok .trapret ∧
  decodeHalf 1 0xC0080600 = .ok (.pairedIadd { d := ⟨false, 4⟩, b := .vec ⟨false, 6⟩, pr := .always, nb := false }) ∧
  decodeKeyway 0x05C0000000000000 = .ok (.qli 7 0) ∧ decodeKeyway 0x6184000000000000 = .ok (.launch 6 1) ∧
  decodeKeyway 0x6C0C000000000000 = .ok (.copy 3) ∧ decodeKeyway 0xFC00000000000000 = .ok (.endq false)

/-- 07 R208 R211 R213 R214, 16 R388: every well-formed instruction of a slot, a half or the Keyway reads back from its word, with every
operand; and a word that decodes is the word of what it decodes to, so that no two words stand for one instruction. -/
def Obligations.EncodingsRoundTrip : Prop :=
  (∀ i c, wellFormed i = true → encode i = some c → decode c = .ok i) ∧
  (∀ n w i, n < 3 → decodeSlot n w = .ok i → wellFormed i = true ∧ encode i = some (.slot n w)) ∧
  (∀ n w i, decodeHalf n w = .ok i → wellFormed i = true ∧ encode i = some (.half w)) ∧
  ∀ w i, decodeKeyway w = .ok i → wellFormed i = true ∧ encode i = some (.keyway w)

/-- Every step keeps device and host memory in their canonical form: addresses strictly rising, no entry equal to what an
unlisted byte reads as. The form is the model's own way to hold memory. -/
def Obligations.MemoryStaysCanonical : Prop :=
  ∀ s t, Memory.wf s = true → step s = .next t → Memory.wf t = true

/-- 16 R383 R384 R397, 18 R416 R419: the machine at READY after a cold start: memory is zero and canonical, every context slot is FREE,
every queue is IDLE with EN = 0, the counters read zero, and no work stands anywhere. The reset of this model is that READY state
(notes/assumptions/1.md). -/
def Obligations.ResetState : Prop :=
  let s := State.reset
  Memory.wf s = true ∧ storesWf s = true ∧ (∀ l, homeByte s l = 0) ∧ s.waves = [] ∧ s.teams = [] ∧ s.runs = [] ∧ s.recs = [] ∧
  (∀ c : CtxNum, (getCtx s c).state = .free) ∧
  (∀ q : QueueNum, (getQueue s q).state = .idle ∧ (getQueue s q).en = false) ∧
  s.irqstat = 0 ∧ (∀ k, cellsRead s.hinge k = 0) ∧ s.tags = [] ∧ s.cc = [] ∧ s.l2 = [] ∧ s.consts = [] ∧ s.codes = [] ∧ s.tlbs = [] ∧
  s.poison = [] ∧ s.badAddr = none ∧
  s.boot.mode = .ready ∧ s.boot.fails = 0 ∧ s.boot.live = none ∧ s.svc.retClusters = 0 ∧ s.svc.retChannels = 0 ∧
  ∀ k, cellsRead s.svc.ras k = 0
end

