-- ==== Sys2Proof/Laws/Cells.lean ====
section
/-! SUPPORT. Sparse stores: what a read gives after a write, and that every operation keeps the canonical form. -/

namespace Sys2Proof.Machine

variable {w : Nat}

/-- A canonical form from a bound is one from any lower bound. -/
theorem cellsWfFrom_mono {c : Cells w} {lo hi : Nat} (h : lo ≤ hi) (hc : cellsWfFrom hi c = true) :
    cellsWfFrom lo c = true := by
  cases c with
  | nil => rfl
  | cons e r => simp only [cellsWfFrom, Bool.and_eq_true, decide_eq_true_eq] at hc ⊢; exact ⟨⟨by omega, hc.1.2⟩, hc.2⟩

/-- A key below the bound reads 0. -/
theorem cellsRead_below {c : Cells w} {lo a : Nat} (hc : cellsWfFrom lo c = true) (h : a < lo) : cellsRead c a = 0 := by
  induction c generalizing lo with
  | nil => rfl
  | cons e r ih =>
    simp only [cellsWfFrom, Bool.and_eq_true, decide_eq_true_eq] at hc
    rw [cellsRead, if_neg (by omega)]
    exact ih hc.2 (by omega)

/-- Erasing a key keeps the canonical form. -/
theorem cellsErase_wf {c : Cells w} {lo : Nat} (a : Nat) (hc : cellsWfFrom lo c = true) :
    cellsWfFrom lo (cellsErase c a) = true := by
  induction c generalizing lo with
  | nil => rfl
  | cons e r ih =>
    simp only [cellsWfFrom, Bool.and_eq_true, decide_eq_true_eq] at hc
    unfold cellsErase
    split
    · exact cellsWfFrom_mono (by omega) (ih hc.2)
    · simp only [cellsWfFrom, Bool.and_eq_true, decide_eq_true_eq]; exact ⟨hc.1, ih hc.2⟩

/-- Inserting a value that is not 0 keeps the canonical form. -/
theorem cellsInsert_wf {c : Cells w} {lo a : Nat} {x : BitVec w} (hx : x ≠ 0) (ha : lo ≤ a)
    (hc : cellsWfFrom lo c = true) : cellsWfFrom lo (cellsInsert c a x) = true := by
  induction c generalizing lo with
  | nil => simpa [cellsInsert, cellsWfFrom, ha] using hx
  | cons e r ih =>
    simp only [cellsWfFrom, Bool.and_eq_true, decide_eq_true_eq] at hc
    unfold cellsInsert
    split
    · simp only [cellsWfFrom, Bool.and_eq_true, decide_eq_true_eq]; exact ⟨⟨ha, hx⟩, ⟨by omega, hc.1.2⟩, hc.2⟩
    · split
      · subst_vars; simp only [cellsWfFrom, Bool.and_eq_true, decide_eq_true_eq]; exact ⟨⟨ha, hx⟩, hc.2⟩
      · simp only [cellsWfFrom, Bool.and_eq_true, decide_eq_true_eq]; exact ⟨hc.1, ih (by omega) hc.2⟩

/-- A write keeps the canonical form. -/
theorem cellsWrite_wf {c : Cells w} (a : Nat) (x : BitVec w) (hc : cellsWf c = true) : cellsWf (cellsWrite c a x) = true := by
  unfold cellsWrite
  split
  · exact cellsErase_wf a hc
  · exact cellsInsert_wf ‹_› (Nat.zero_le a) hc

/-- The key of an erased entry reads 0, every other key as before. -/
theorem cellsRead_erase (c : Cells w) (a b : Nat) : cellsRead (cellsErase c a) b = if b = a then 0 else cellsRead c b := by
  induction c with
  | nil => simp [cellsErase, cellsRead]
  | cons e r ih =>
    obtain ⟨k, v⟩ := e
    unfold cellsErase
    split
    · rw [ih]; split
      · rfl
      · rw [cellsRead, if_neg (by omega)]
    · rw [cellsRead, cellsRead, ih]
      split <;> split <;> first | rfl | omega

/-- The key of an inserted entry reads its value, every other key as before. -/
theorem cellsRead_insert {c : Cells w} (a b : Nat) (x : BitVec w) :
    cellsRead (cellsInsert c a x) b = if b = a then x else cellsRead c b := by
  induction c with
  | nil => simp [cellsInsert, cellsRead]
  | cons e r ih =>
    obtain ⟨k, v⟩ := e
    unfold cellsInsert
    split
    · rw [cellsRead]
    · split
      · subst_vars; rw [cellsRead, cellsRead]; split <;> rfl
      · rw [cellsRead, cellsRead, ih]
        split <;> split <;> first | rfl | omega

/-- A read after a write: the value written at its key, every other key as before. -/
theorem cellsRead_write (c : Cells w) (a b : Nat) (x : BitVec w) :
    cellsRead (cellsWrite c a x) b = if b = a then x else cellsRead c b := by
  unfold cellsWrite
  split
  · subst_vars; exact cellsRead_erase c a b
  · exact cellsRead_insert a b x

@[simp] theorem cellsRead_write_self (c : Cells w) (a : Nat) (x : BitVec w) : cellsRead (cellsWrite c a x) a = x := by
  rw [cellsRead_write, if_pos rfl]

theorem cellsRead_write_other (c : Cells w) {a b : Nat} (x : BitVec w) (h : b ≠ a) :
    cellsRead (cellsWrite c a x) b = cellsRead c b := by
  rw [cellsRead_write, if_neg h]

/-- Several writes keep the canonical form. -/
theorem cellsWriteAll_wf {c : Cells w} (l : List (Nat × BitVec w)) (hc : cellsWf c = true) :
    cellsWf (cellsWriteAll c l) = true := by
  induction l generalizing c with
  | nil => exact hc
  | cons e r ih => exact ih (cellsWrite_wf _ _ hc)

/-- A little-endian store keeps the canonical form. -/
theorem cellsWriteLE_wf {c : Cells 8} (a x n : Nat) (hc : cellsWf c = true) : cellsWf (cellsWriteLE c a x n) = true := by
  induction n generalizing c a x with
  | zero => exact hc
  | succ n ih => exact ih _ _ (cellsWrite_wf _ _ hc)

/-- A little-endian store of n bytes at a leaves every key outside [a, a + n) alone. -/
theorem cellsRead_writeLE_other (c : Cells 8) (a x n b : Nat) (h : b < a ∨ a + n ≤ b) :
    cellsRead (cellsWriteLE c a x n) b = cellsRead c b := by
  induction n generalizing c a x with
  | zero => rfl
  | succ n ih => rw [cellsWriteLE, ih _ _ _ (by omega), cellsRead_write_other _ _ (by omega)]

/-- A little-endian store of n bytes is read back. -/
theorem cellsReadLE_writeLE (c : Cells 8) (a x n : Nat) : cellsReadLE (cellsWriteLE c a x n) a n = x % 256 ^ n := by
  induction n generalizing c a x with
  | zero => simp [cellsReadLE, Nat.mod_one]
  | succ n ih =>
    rw [cellsReadLE, cellsWriteLE, ih, cellsRead_writeLE_other _ _ _ _ _ (by omega), cellsRead_write_self,
      BitVec.toNat_ofNat]
    change x % 256 + _ = _
    rw [pow_succ', Nat.mod_mul]

/-- Keeping some of the entries keeps the canonical form. -/
theorem cellsFilter_wf {c : Cells w} {lo : Nat} (p : Nat × BitVec w → Bool) (hc : cellsWfFrom lo c = true) :
    cellsWfFrom lo (c.filter p) = true := by
  induction c generalizing lo with
  | nil => rfl
  | cons e r ih =>
    simp only [cellsWfFrom, Bool.and_eq_true, decide_eq_true_eq] at hc
    rw [List.filter_cons]
    split
    · simp only [cellsWfFrom, Bool.and_eq_true, decide_eq_true_eq]; exact ⟨hc.1, ih hc.2⟩
    · exact cellsWfFrom_mono (by omega) (ih hc.2)

/-- Clearing a range keeps the canonical form. -/
theorem cellsClear_wf {c : Cells w} (a n : Nat) (hc : cellsWf c = true) : cellsWf (cellsClear c a n) = true :=
  cellsFilter_wf _ hc

/-- Copying a range keeps the canonical form. -/
theorem cellsCopy_wf {dst : Cells w} (b : Nat) (src : Cells w) (a n : Nat) (hc : cellsWf dst = true) :
    cellsWf (cellsCopy dst b src a n) = true :=
  cellsWriteAll_wf _ (cellsClear_wf b n hc)

end Sys2Proof.Machine
end

