-- ==== Sys2Proof/Laws/State.lean ====
section
/-! SUPPORT. One lemma per field of State per update: what the update leaves alone, and what it puts into its own field. -/

namespace Sys2Proof.Machine

/-! ### setWave -/

@[simp] theorem setWave_waves (s : State) (w : Wave) : (setWave s w).waves = setWaveIn s.waves w := rfl
@[simp] theorem setWave_teams (s : State) (w : Wave) : (setWave s w).teams = s.teams := rfl
@[simp] theorem setWave_runs (s : State) (w : Wave) : (setWave s w).runs = s.runs := rfl
@[simp] theorem setWave_recs (s : State) (w : Wave) : (setWave s w).recs = s.recs := rfl
@[simp] theorem setWave_engines (s : State) (w : Wave) : (setWave s w).engines = s.engines := rfl
@[simp] theorem setWave_ctxs (s : State) (w : Wave) : (setWave s w).ctxs = s.ctxs := rfl
@[simp] theorem setWave_mem (s : State) (w : Wave) : (setWave s w).mem = s.mem := rfl
@[simp] theorem setWave_hostMem (s : State) (w : Wave) : (setWave s w).hostMem = s.hostMem := rfl
@[simp] theorem setWave_hostAtomics (s : State) (w : Wave) : (setWave s w).hostAtomics = s.hostAtomics := rfl
@[simp] theorem setWave_lstore (s : State) (w : Wave) : (setWave s w).lstore = s.lstore := rfl
@[simp] theorem setWave_wstore (s : State) (w : Wave) : (setWave s w).wstore = s.wstore := rfl
@[simp] theorem setWave_tiles (s : State) (w : Wave) : (setWave s w).tiles = s.tiles := rfl
@[simp] theorem setWave_side (s : State) (w : Wave) : (setWave s w).side = s.side := rfl
@[simp] theorem setWave_cc (s : State) (w : Wave) : (setWave s w).cc = s.cc := rfl
@[simp] theorem setWave_ccLines (s : State) (w : Wave) : (setWave s w).ccLines = s.ccLines := rfl
@[simp] theorem setWave_l2 (s : State) (w : Wave) : (setWave s w).l2 = s.l2 := rfl
@[simp] theorem setWave_consts (s : State) (w : Wave) : (setWave s w).consts = s.consts := rfl
@[simp] theorem setWave_codes (s : State) (w : Wave) : (setWave s w).codes = s.codes := rfl
@[simp] theorem setWave_tlbs (s : State) (w : Wave) : (setWave s w).tlbs = s.tlbs := rfl
@[simp] theorem setWave_tags (s : State) (w : Wave) : (setWave s w).tags = s.tags := rfl
@[simp] theorem setWave_epochs (s : State) (w : Wave) : (setWave s w).epochs = s.epochs := rfl
@[simp] theorem setWave_poison (s : State) (w : Wave) : (setWave s w).poison = s.poison := rfl
@[simp] theorem setWave_scTicket (s : State) (w : Wave) : (setWave s w).scTicket = s.scTicket := rfl
@[simp] theorem setWave_queues (s : State) (w : Wave) : (setWave s w).queues = s.queues := rfl
@[simp] theorem setWave_unserved (s : State) (w : Wave) : (setWave s w).unserved = s.unserved := rfl
@[simp] theorem setWave_irqstat (s : State) (w : Wave) : (setWave s w).irqstat = s.irqstat := rfl
@[simp] theorem setWave_irqmask (s : State) (w : Wave) : (setWave s w).irqmask = s.irqmask := rfl
@[simp] theorem setWave_msix (s : State) (w : Wave) : (setWave s w).msix = s.msix := rfl
@[simp] theorem setWave_mail (s : State) (w : Wave) : (setWave s w).mail = s.mail := rfl
@[simp] theorem setWave_hinge (s : State) (w : Wave) : (setWave s w).hinge = s.hinge := rfl
@[simp] theorem setWave_clusters (s : State) (w : Wave) : (setWave s w).clusters = s.clusters := rfl
@[simp] theorem setWave_stks (s : State) (w : Wave) : (setWave s w).stks = s.stks := rfl
@[simp] theorem setWave_thermtrip (s : State) (w : Wave) : (setWave s w).thermtrip = s.thermtrip := rfl
@[simp] theorem setWave_boot (s : State) (w : Wave) : (setWave s w).boot = s.boot := rfl
@[simp] theorem setWave_svc (s : State) (w : Wave) : (setWave s w).svc = s.svc := rfl
@[simp] theorem setWave_iss (s : State) (w : Wave) : (setWave s w).iss = s.iss := rfl
@[simp] theorem setWave_who (s : State) (w : Wave) : (setWave s w).who = s.who := rfl
@[simp] theorem setWave_agenda (s : State) (w : Wave) : (setWave s w).agenda = s.agenda := rfl
@[simp] theorem setWave_clockMark (s : State) (w : Wave) : (setWave s w).clockMark = s.clockMark := rfl
@[simp] theorem setWave_nextId (s : State) (w : Wave) : (setWave s w).nextId = s.nextId := rfl
@[simp] theorem setWave_freeCount (s : State) (w : Wave) : (setWave s w).freeCount = s.freeCount := rfl
@[simp] theorem setWave_fwPage (s : State) (w : Wave) : (setWave s w).fwPage = s.fwPage := rfl
@[simp] theorem setWave_badAddr (s : State) (w : Wave) : (setWave s w).badAddr = s.badAddr := rfl

/-! ### setTeam -/

@[simp] theorem setTeam_waves (s : State) (t : Team) : (setTeam s t).waves = s.waves := rfl
@[simp] theorem setTeam_teams (s : State) (t : Team) : (setTeam s t).teams = setTeamIn s.teams t := rfl
@[simp] theorem setTeam_runs (s : State) (t : Team) : (setTeam s t).runs = s.runs := rfl
@[simp] theorem setTeam_recs (s : State) (t : Team) : (setTeam s t).recs = s.recs := rfl
@[simp] theorem setTeam_engines (s : State) (t : Team) : (setTeam s t).engines = s.engines := rfl
@[simp] theorem setTeam_ctxs (s : State) (t : Team) : (setTeam s t).ctxs = s.ctxs := rfl
@[simp] theorem setTeam_mem (s : State) (t : Team) : (setTeam s t).mem = s.mem := rfl
@[simp] theorem setTeam_hostMem (s : State) (t : Team) : (setTeam s t).hostMem = s.hostMem := rfl
@[simp] theorem setTeam_hostAtomics (s : State) (t : Team) : (setTeam s t).hostAtomics = s.hostAtomics := rfl
@[simp] theorem setTeam_lstore (s : State) (t : Team) : (setTeam s t).lstore = s.lstore := rfl
@[simp] theorem setTeam_wstore (s : State) (t : Team) : (setTeam s t).wstore = s.wstore := rfl
@[simp] theorem setTeam_tiles (s : State) (t : Team) : (setTeam s t).tiles = s.tiles := rfl
@[simp] theorem setTeam_side (s : State) (t : Team) : (setTeam s t).side = s.side := rfl
@[simp] theorem setTeam_cc (s : State) (t : Team) : (setTeam s t).cc = s.cc := rfl
@[simp] theorem setTeam_ccLines (s : State) (t : Team) : (setTeam s t).ccLines = s.ccLines := rfl
@[simp] theorem setTeam_l2 (s : State) (t : Team) : (setTeam s t).l2 = s.l2 := rfl
@[simp] theorem setTeam_consts (s : State) (t : Team) : (setTeam s t).consts = s.consts := rfl
@[simp] theorem setTeam_codes (s : State) (t : Team) : (setTeam s t).codes = s.codes := rfl
@[simp] theorem setTeam_tlbs (s : State) (t : Team) : (setTeam s t).tlbs = s.tlbs := rfl
@[simp] theorem setTeam_tags (s : State) (t : Team) : (setTeam s t).tags = s.tags := rfl
@[simp] theorem setTeam_epochs (s : State) (t : Team) : (setTeam s t).epochs = s.epochs := rfl
@[simp] theorem setTeam_poison (s : State) (t : Team) : (setTeam s t).poison = s.poison := rfl
@[simp] theorem setTeam_scTicket (s : State) (t : Team) : (setTeam s t).scTicket = s.scTicket := rfl
@[simp] theorem setTeam_queues (s : State) (t : Team) : (setTeam s t).queues = s.queues := rfl
@[simp] theorem setTeam_unserved (s : State) (t : Team) : (setTeam s t).unserved = s.unserved := rfl
@[simp] theorem setTeam_irqstat (s : State) (t : Team) : (setTeam s t).irqstat = s.irqstat := rfl
@[simp] theorem setTeam_irqmask (s : State) (t : Team) : (setTeam s t).irqmask = s.irqmask := rfl
@[simp] theorem setTeam_msix (s : State) (t : Team) : (setTeam s t).msix = s.msix := rfl
@[simp] theorem setTeam_mail (s : State) (t : Team) : (setTeam s t).mail = s.mail := rfl
@[simp] theorem setTeam_hinge (s : State) (t : Team) : (setTeam s t).hinge = s.hinge := rfl
@[simp] theorem setTeam_clusters (s : State) (t : Team) : (setTeam s t).clusters = s.clusters := rfl
@[simp] theorem setTeam_stks (s : State) (t : Team) : (setTeam s t).stks = s.stks := rfl
@[simp] theorem setTeam_thermtrip (s : State) (t : Team) : (setTeam s t).thermtrip = s.thermtrip := rfl
@[simp] theorem setTeam_boot (s : State) (t : Team) : (setTeam s t).boot = s.boot := rfl
@[simp] theorem setTeam_svc (s : State) (t : Team) : (setTeam s t).svc = s.svc := rfl
@[simp] theorem setTeam_iss (s : State) (t : Team) : (setTeam s t).iss = s.iss := rfl
@[simp] theorem setTeam_who (s : State) (t : Team) : (setTeam s t).who = s.who := rfl
@[simp] theorem setTeam_agenda (s : State) (t : Team) : (setTeam s t).agenda = s.agenda := rfl
@[simp] theorem setTeam_clockMark (s : State) (t : Team) : (setTeam s t).clockMark = s.clockMark := rfl
@[simp] theorem setTeam_nextId (s : State) (t : Team) : (setTeam s t).nextId = s.nextId := rfl
@[simp] theorem setTeam_freeCount (s : State) (t : Team) : (setTeam s t).freeCount = s.freeCount := rfl
@[simp] theorem setTeam_fwPage (s : State) (t : Team) : (setTeam s t).fwPage = s.fwPage := rfl
@[simp] theorem setTeam_badAddr (s : State) (t : Team) : (setTeam s t).badAddr = s.badAddr := rfl

/-! ### setRun -/

@[simp] theorem setRun_waves (s : State) (r : Run) : (setRun s r).waves = s.waves := rfl
@[simp] theorem setRun_teams (s : State) (r : Run) : (setRun s r).teams = s.teams := rfl
@[simp] theorem setRun_runs (s : State) (r : Run) : (setRun s r).runs = setRunIn s.runs r := rfl
@[simp] theorem setRun_recs (s : State) (r : Run) : (setRun s r).recs = s.recs := rfl
@[simp] theorem setRun_engines (s : State) (r : Run) : (setRun s r).engines = s.engines := rfl
@[simp] theorem setRun_ctxs (s : State) (r : Run) : (setRun s r).ctxs = s.ctxs := rfl
@[simp] theorem setRun_mem (s : State) (r : Run) : (setRun s r).mem = s.mem := rfl
@[simp] theorem setRun_hostMem (s : State) (r : Run) : (setRun s r).hostMem = s.hostMem := rfl
@[simp] theorem setRun_hostAtomics (s : State) (r : Run) : (setRun s r).hostAtomics = s.hostAtomics := rfl
@[simp] theorem setRun_lstore (s : State) (r : Run) : (setRun s r).lstore = s.lstore := rfl
@[simp] theorem setRun_wstore (s : State) (r : Run) : (setRun s r).wstore = s.wstore := rfl
@[simp] theorem setRun_tiles (s : State) (r : Run) : (setRun s r).tiles = s.tiles := rfl
@[simp] theorem setRun_side (s : State) (r : Run) : (setRun s r).side = s.side := rfl
@[simp] theorem setRun_cc (s : State) (r : Run) : (setRun s r).cc = s.cc := rfl
@[simp] theorem setRun_ccLines (s : State) (r : Run) : (setRun s r).ccLines = s.ccLines := rfl
@[simp] theorem setRun_l2 (s : State) (r : Run) : (setRun s r).l2 = s.l2 := rfl
@[simp] theorem setRun_consts (s : State) (r : Run) : (setRun s r).consts = s.consts := rfl
@[simp] theorem setRun_codes (s : State) (r : Run) : (setRun s r).codes = s.codes := rfl
@[simp] theorem setRun_tlbs (s : State) (r : Run) : (setRun s r).tlbs = s.tlbs := rfl
@[simp] theorem setRun_tags (s : State) (r : Run) : (setRun s r).tags = s.tags := rfl
@[simp] theorem setRun_epochs (s : State) (r : Run) : (setRun s r).epochs = s.epochs := rfl
@[simp] theorem setRun_poison (s : State) (r : Run) : (setRun s r).poison = s.poison := rfl
@[simp] theorem setRun_scTicket (s : State) (r : Run) : (setRun s r).scTicket = s.scTicket := rfl
@[simp] theorem setRun_queues (s : State) (r : Run) : (setRun s r).queues = s.queues := rfl
@[simp] theorem setRun_unserved (s : State) (r : Run) : (setRun s r).unserved = s.unserved := rfl
@[simp] theorem setRun_irqstat (s : State) (r : Run) : (setRun s r).irqstat = s.irqstat := rfl
@[simp] theorem setRun_irqmask (s : State) (r : Run) : (setRun s r).irqmask = s.irqmask := rfl
@[simp] theorem setRun_msix (s : State) (r : Run) : (setRun s r).msix = s.msix := rfl
@[simp] theorem setRun_mail (s : State) (r : Run) : (setRun s r).mail = s.mail := rfl
@[simp] theorem setRun_hinge (s : State) (r : Run) : (setRun s r).hinge = s.hinge := rfl
@[simp] theorem setRun_clusters (s : State) (r : Run) : (setRun s r).clusters = s.clusters := rfl
@[simp] theorem setRun_stks (s : State) (r : Run) : (setRun s r).stks = s.stks := rfl
@[simp] theorem setRun_thermtrip (s : State) (r : Run) : (setRun s r).thermtrip = s.thermtrip := rfl
@[simp] theorem setRun_boot (s : State) (r : Run) : (setRun s r).boot = s.boot := rfl
@[simp] theorem setRun_svc (s : State) (r : Run) : (setRun s r).svc = s.svc := rfl
@[simp] theorem setRun_iss (s : State) (r : Run) : (setRun s r).iss = s.iss := rfl
@[simp] theorem setRun_who (s : State) (r : Run) : (setRun s r).who = s.who := rfl
@[simp] theorem setRun_agenda (s : State) (r : Run) : (setRun s r).agenda = s.agenda := rfl
@[simp] theorem setRun_clockMark (s : State) (r : Run) : (setRun s r).clockMark = s.clockMark := rfl
@[simp] theorem setRun_nextId (s : State) (r : Run) : (setRun s r).nextId = s.nextId := rfl
@[simp] theorem setRun_freeCount (s : State) (r : Run) : (setRun s r).freeCount = s.freeCount := rfl
@[simp] theorem setRun_fwPage (s : State) (r : Run) : (setRun s r).fwPage = s.fwPage := rfl
@[simp] theorem setRun_badAddr (s : State) (r : Run) : (setRun s r).badAddr = s.badAddr := rfl

/-! ### setCtx -/

@[simp] theorem setCtx_waves (s : State) (c : CtxNum) (x : Ctx) : (setCtx s c x).waves = s.waves := rfl
@[simp] theorem setCtx_teams (s : State) (c : CtxNum) (x : Ctx) : (setCtx s c x).teams = s.teams := rfl
@[simp] theorem setCtx_runs (s : State) (c : CtxNum) (x : Ctx) : (setCtx s c x).runs = s.runs := rfl
@[simp] theorem setCtx_recs (s : State) (c : CtxNum) (x : Ctx) : (setCtx s c x).recs = s.recs := rfl
@[simp] theorem setCtx_engines (s : State) (c : CtxNum) (x : Ctx) : (setCtx s c x).engines = s.engines := rfl
@[simp] theorem setCtx_ctxs (s : State) (c : CtxNum) (x : Ctx) : (setCtx s c x).ctxs = s.ctxs.set c.toNat x := rfl
@[simp] theorem setCtx_mem (s : State) (c : CtxNum) (x : Ctx) : (setCtx s c x).mem = s.mem := rfl
@[simp] theorem setCtx_hostMem (s : State) (c : CtxNum) (x : Ctx) : (setCtx s c x).hostMem = s.hostMem := rfl
@[simp] theorem setCtx_hostAtomics (s : State) (c : CtxNum) (x : Ctx) : (setCtx s c x).hostAtomics = s.hostAtomics := rfl
@[simp] theorem setCtx_lstore (s : State) (c : CtxNum) (x : Ctx) : (setCtx s c x).lstore = s.lstore := rfl
@[simp] theorem setCtx_wstore (s : State) (c : CtxNum) (x : Ctx) : (setCtx s c x).wstore = s.wstore := rfl
@[simp] theorem setCtx_tiles (s : State) (c : CtxNum) (x : Ctx) : (setCtx s c x).tiles = s.tiles := rfl
@[simp] theorem setCtx_side (s : State) (c : CtxNum) (x : Ctx) : (setCtx s c x).side = s.side := rfl
@[simp] theorem setCtx_cc (s : State) (c : CtxNum) (x : Ctx) : (setCtx s c x).cc = s.cc := rfl
@[simp] theorem setCtx_ccLines (s : State) (c : CtxNum) (x : Ctx) : (setCtx s c x).ccLines = s.ccLines := rfl
@[simp] theorem setCtx_l2 (s : State) (c : CtxNum) (x : Ctx) : (setCtx s c x).l2 = s.l2 := rfl
@[simp] theorem setCtx_consts (s : State) (c : CtxNum) (x : Ctx) : (setCtx s c x).consts = s.consts := rfl
@[simp] theorem setCtx_codes (s : State) (c : CtxNum) (x : Ctx) : (setCtx s c x).codes = s.codes := rfl
@[simp] theorem setCtx_tlbs (s : State) (c : CtxNum) (x : Ctx) : (setCtx s c x).tlbs = s.tlbs := rfl
@[simp] theorem setCtx_tags (s : State) (c : CtxNum) (x : Ctx) : (setCtx s c x).tags = s.tags := rfl
@[simp] theorem setCtx_epochs (s : State) (c : CtxNum) (x : Ctx) : (setCtx s c x).epochs = s.epochs := rfl
@[simp] theorem setCtx_poison (s : State) (c : CtxNum) (x : Ctx) : (setCtx s c x).poison = s.poison := rfl
@[simp] theorem setCtx_scTicket (s : State) (c : CtxNum) (x : Ctx) : (setCtx s c x).scTicket = s.scTicket := rfl
@[simp] theorem setCtx_queues (s : State) (c : CtxNum) (x : Ctx) : (setCtx s c x).queues = s.queues := rfl
@[simp] theorem setCtx_unserved (s : State) (c : CtxNum) (x : Ctx) : (setCtx s c x).unserved = s.unserved := rfl
@[simp] theorem setCtx_irqstat (s : State) (c : CtxNum) (x : Ctx) : (setCtx s c x).irqstat = s.irqstat := rfl
@[simp] theorem setCtx_irqmask (s : State) (c : CtxNum) (x : Ctx) : (setCtx s c x).irqmask = s.irqmask := rfl
@[simp] theorem setCtx_msix (s : State) (c : CtxNum) (x : Ctx) : (setCtx s c x).msix = s.msix := rfl
@[simp] theorem setCtx_mail (s : State) (c : CtxNum) (x : Ctx) : (setCtx s c x).mail = s.mail := rfl
@[simp] theorem setCtx_hinge (s : State) (c : CtxNum) (x : Ctx) : (setCtx s c x).hinge = s.hinge := rfl
@[simp] theorem setCtx_clusters (s : State) (c : CtxNum) (x : Ctx) : (setCtx s c x).clusters = s.clusters := rfl
@[simp] theorem setCtx_stks (s : State) (c : CtxNum) (x : Ctx) : (setCtx s c x).stks = s.stks := rfl
@[simp] theorem setCtx_thermtrip (s : State) (c : CtxNum) (x : Ctx) : (setCtx s c x).thermtrip = s.thermtrip := rfl
@[simp] theorem setCtx_boot (s : State) (c : CtxNum) (x : Ctx) : (setCtx s c x).boot = s.boot := rfl
@[simp] theorem setCtx_svc (s : State) (c : CtxNum) (x : Ctx) : (setCtx s c x).svc = s.svc := rfl
@[simp] theorem setCtx_iss (s : State) (c : CtxNum) (x : Ctx) : (setCtx s c x).iss = s.iss := rfl
@[simp] theorem setCtx_who (s : State) (c : CtxNum) (x : Ctx) : (setCtx s c x).who = s.who := rfl
@[simp] theorem setCtx_agenda (s : State) (c : CtxNum) (x : Ctx) : (setCtx s c x).agenda = s.agenda := rfl
@[simp] theorem setCtx_clockMark (s : State) (c : CtxNum) (x : Ctx) : (setCtx s c x).clockMark = s.clockMark := rfl
@[simp] theorem setCtx_nextId (s : State) (c : CtxNum) (x : Ctx) : (setCtx s c x).nextId = s.nextId := rfl
@[simp] theorem setCtx_freeCount (s : State) (c : CtxNum) (x : Ctx) : (setCtx s c x).freeCount = s.freeCount := rfl
@[simp] theorem setCtx_fwPage (s : State) (c : CtxNum) (x : Ctx) : (setCtx s c x).fwPage = s.fwPage := rfl
@[simp] theorem setCtx_badAddr (s : State) (c : CtxNum) (x : Ctx) : (setCtx s c x).badAddr = s.badAddr := rfl

/-! ### updCtx -/

@[simp] theorem updCtx_waves (s : State) (c : CtxNum) (f : Ctx → Ctx) : (updCtx s c f).waves = s.waves := rfl
@[simp] theorem updCtx_teams (s : State) (c : CtxNum) (f : Ctx → Ctx) : (updCtx s c f).teams = s.teams := rfl
@[simp] theorem updCtx_runs (s : State) (c : CtxNum) (f : Ctx → Ctx) : (updCtx s c f).runs = s.runs := rfl
@[simp] theorem updCtx_recs (s : State) (c : CtxNum) (f : Ctx → Ctx) : (updCtx s c f).recs = s.recs := rfl
@[simp] theorem updCtx_engines (s : State) (c : CtxNum) (f : Ctx → Ctx) : (updCtx s c f).engines = s.engines := rfl
@[simp] theorem updCtx_ctxs (s : State) (c : CtxNum) (f : Ctx → Ctx) : (updCtx s c f).ctxs = s.ctxs.set c.toNat (f (getCtx s c)) := rfl
@[simp] theorem updCtx_mem (s : State) (c : CtxNum) (f : Ctx → Ctx) : (updCtx s c f).mem = s.mem := rfl
@[simp] theorem updCtx_hostMem (s : State) (c : CtxNum) (f : Ctx → Ctx) : (updCtx s c f).hostMem = s.hostMem := rfl
@[simp] theorem updCtx_hostAtomics (s : State) (c : CtxNum) (f : Ctx → Ctx) : (updCtx s c f).hostAtomics = s.hostAtomics := rfl
@[simp] theorem updCtx_lstore (s : State) (c : CtxNum) (f : Ctx → Ctx) : (updCtx s c f).lstore = s.lstore := rfl
@[simp] theorem updCtx_wstore (s : State) (c : CtxNum) (f : Ctx → Ctx) : (updCtx s c f).wstore = s.wstore := rfl
@[simp] theorem updCtx_tiles (s : State) (c : CtxNum) (f : Ctx → Ctx) : (updCtx s c f).tiles = s.tiles := rfl
@[simp] theorem updCtx_side (s : State) (c : CtxNum) (f : Ctx → Ctx) : (updCtx s c f).side = s.side := rfl
@[simp] theorem updCtx_cc (s : State) (c : CtxNum) (f : Ctx → Ctx) : (updCtx s c f).cc = s.cc := rfl
@[simp] theorem updCtx_ccLines (s : State) (c : CtxNum) (f : Ctx → Ctx) : (updCtx s c f).ccLines = s.ccLines := rfl
@[simp] theorem updCtx_l2 (s : State) (c : CtxNum) (f : Ctx → Ctx) : (updCtx s c f).l2 = s.l2 := rfl
@[simp] theorem updCtx_consts (s : State) (c : CtxNum) (f : Ctx → Ctx) : (updCtx s c f).consts = s.consts := rfl
@[simp] theorem updCtx_codes (s : State) (c : CtxNum) (f : Ctx → Ctx) : (updCtx s c f).codes = s.codes := rfl
@[simp] theorem updCtx_tlbs (s : State) (c : CtxNum) (f : Ctx → Ctx) : (updCtx s c f).tlbs = s.tlbs := rfl
@[simp] theorem updCtx_tags (s : State) (c : CtxNum) (f : Ctx → Ctx) : (updCtx s c f).tags = s.tags := rfl
@[simp] theorem updCtx_epochs (s : State) (c : CtxNum) (f : Ctx → Ctx) : (updCtx s c f).epochs = s.epochs := rfl
@[simp] theorem updCtx_poison (s : State) (c : CtxNum) (f : Ctx → Ctx) : (updCtx s c f).poison = s.poison := rfl
@[simp] theorem updCtx_scTicket (s : State) (c : CtxNum) (f : Ctx → Ctx) : (updCtx s c f).scTicket = s.scTicket := rfl
@[simp] theorem updCtx_queues (s : State) (c : CtxNum) (f : Ctx → Ctx) : (updCtx s c f).queues = s.queues := rfl
@[simp] theorem updCtx_unserved (s : State) (c : CtxNum) (f : Ctx → Ctx) : (updCtx s c f).unserved = s.unserved := rfl
@[simp] theorem updCtx_irqstat (s : State) (c : CtxNum) (f : Ctx → Ctx) : (updCtx s c f).irqstat = s.irqstat := rfl
@[simp] theorem updCtx_irqmask (s : State) (c : CtxNum) (f : Ctx → Ctx) : (updCtx s c f).irqmask = s.irqmask := rfl
@[simp] theorem updCtx_msix (s : State) (c : CtxNum) (f : Ctx → Ctx) : (updCtx s c f).msix = s.msix := rfl
@[simp] theorem updCtx_mail (s : State) (c : CtxNum) (f : Ctx → Ctx) : (updCtx s c f).mail = s.mail := rfl
@[simp] theorem updCtx_hinge (s : State) (c : CtxNum) (f : Ctx → Ctx) : (updCtx s c f).hinge = s.hinge := rfl
@[simp] theorem updCtx_clusters (s : State) (c : CtxNum) (f : Ctx → Ctx) : (updCtx s c f).clusters = s.clusters := rfl
@[simp] theorem updCtx_stks (s : State) (c : CtxNum) (f : Ctx → Ctx) : (updCtx s c f).stks = s.stks := rfl
@[simp] theorem updCtx_thermtrip (s : State) (c : CtxNum) (f : Ctx → Ctx) : (updCtx s c f).thermtrip = s.thermtrip := rfl
@[simp] theorem updCtx_boot (s : State) (c : CtxNum) (f : Ctx → Ctx) : (updCtx s c f).boot = s.boot := rfl
@[simp] theorem updCtx_svc (s : State) (c : CtxNum) (f : Ctx → Ctx) : (updCtx s c f).svc = s.svc := rfl
@[simp] theorem updCtx_iss (s : State) (c : CtxNum) (f : Ctx → Ctx) : (updCtx s c f).iss = s.iss := rfl
@[simp] theorem updCtx_who (s : State) (c : CtxNum) (f : Ctx → Ctx) : (updCtx s c f).who = s.who := rfl
@[simp] theorem updCtx_agenda (s : State) (c : CtxNum) (f : Ctx → Ctx) : (updCtx s c f).agenda = s.agenda := rfl
@[simp] theorem updCtx_clockMark (s : State) (c : CtxNum) (f : Ctx → Ctx) : (updCtx s c f).clockMark = s.clockMark := rfl
@[simp] theorem updCtx_nextId (s : State) (c : CtxNum) (f : Ctx → Ctx) : (updCtx s c f).nextId = s.nextId := rfl
@[simp] theorem updCtx_freeCount (s : State) (c : CtxNum) (f : Ctx → Ctx) : (updCtx s c f).freeCount = s.freeCount := rfl
@[simp] theorem updCtx_fwPage (s : State) (c : CtxNum) (f : Ctx → Ctx) : (updCtx s c f).fwPage = s.fwPage := rfl
@[simp] theorem updCtx_badAddr (s : State) (c : CtxNum) (f : Ctx → Ctx) : (updCtx s c f).badAddr = s.badAddr := rfl

/-! ### updStack -/

@[simp] theorem updStack_waves (s : State) (k : StackNum) (f : Stack → Stack) : (updStack s k f).waves = s.waves := rfl
@[simp] theorem updStack_teams (s : State) (k : StackNum) (f : Stack → Stack) : (updStack s k f).teams = s.teams := rfl
@[simp] theorem updStack_runs (s : State) (k : StackNum) (f : Stack → Stack) : (updStack s k f).runs = s.runs := rfl
@[simp] theorem updStack_recs (s : State) (k : StackNum) (f : Stack → Stack) : (updStack s k f).recs = s.recs := rfl
@[simp] theorem updStack_engines (s : State) (k : StackNum) (f : Stack → Stack) : (updStack s k f).engines = s.engines := rfl
@[simp] theorem updStack_ctxs (s : State) (k : StackNum) (f : Stack → Stack) : (updStack s k f).ctxs = s.ctxs := rfl
@[simp] theorem updStack_mem (s : State) (k : StackNum) (f : Stack → Stack) : (updStack s k f).mem = s.mem := rfl
@[simp] theorem updStack_hostMem (s : State) (k : StackNum) (f : Stack → Stack) : (updStack s k f).hostMem = s.hostMem := rfl
@[simp] theorem updStack_hostAtomics (s : State) (k : StackNum) (f : Stack → Stack) : (updStack s k f).hostAtomics = s.hostAtomics := rfl
@[simp] theorem updStack_lstore (s : State) (k : StackNum) (f : Stack → Stack) : (updStack s k f).lstore = s.lstore := rfl
@[simp] theorem updStack_wstore (s : State) (k : StackNum) (f : Stack → Stack) : (updStack s k f).wstore = s.wstore := rfl
@[simp] theorem updStack_tiles (s : State) (k : StackNum) (f : Stack → Stack) : (updStack s k f).tiles = s.tiles := rfl
@[simp] theorem updStack_side (s : State) (k : StackNum) (f : Stack → Stack) : (updStack s k f).side = s.side := rfl
@[simp] theorem updStack_cc (s : State) (k : StackNum) (f : Stack → Stack) : (updStack s k f).cc = s.cc := rfl
@[simp] theorem updStack_ccLines (s : State) (k : StackNum) (f : Stack → Stack) : (updStack s k f).ccLines = s.ccLines := rfl
@[simp] theorem updStack_l2 (s : State) (k : StackNum) (f : Stack → Stack) : (updStack s k f).l2 = s.l2 := rfl
@[simp] theorem updStack_consts (s : State) (k : StackNum) (f : Stack → Stack) : (updStack s k f).consts = s.consts := rfl
@[simp] theorem updStack_codes (s : State) (k : StackNum) (f : Stack → Stack) : (updStack s k f).codes = s.codes := rfl
@[simp] theorem updStack_tlbs (s : State) (k : StackNum) (f : Stack → Stack) : (updStack s k f).tlbs = s.tlbs := rfl
@[simp] theorem updStack_tags (s : State) (k : StackNum) (f : Stack → Stack) : (updStack s k f).tags = s.tags := rfl
@[simp] theorem updStack_epochs (s : State) (k : StackNum) (f : Stack → Stack) : (updStack s k f).epochs = s.epochs := rfl
@[simp] theorem updStack_poison (s : State) (k : StackNum) (f : Stack → Stack) : (updStack s k f).poison = s.poison := rfl
@[simp] theorem updStack_scTicket (s : State) (k : StackNum) (f : Stack → Stack) : (updStack s k f).scTicket = s.scTicket := rfl
@[simp] theorem updStack_queues (s : State) (k : StackNum) (f : Stack → Stack) : (updStack s k f).queues = s.queues := rfl
@[simp] theorem updStack_unserved (s : State) (k : StackNum) (f : Stack → Stack) : (updStack s k f).unserved = s.unserved := rfl
@[simp] theorem updStack_irqstat (s : State) (k : StackNum) (f : Stack → Stack) : (updStack s k f).irqstat = s.irqstat := rfl
@[simp] theorem updStack_irqmask (s : State) (k : StackNum) (f : Stack → Stack) : (updStack s k f).irqmask = s.irqmask := rfl
@[simp] theorem updStack_msix (s : State) (k : StackNum) (f : Stack → Stack) : (updStack s k f).msix = s.msix := rfl
@[simp] theorem updStack_mail (s : State) (k : StackNum) (f : Stack → Stack) : (updStack s k f).mail = s.mail := rfl
@[simp] theorem updStack_hinge (s : State) (k : StackNum) (f : Stack → Stack) : (updStack s k f).hinge = s.hinge := rfl
@[simp] theorem updStack_clusters (s : State) (k : StackNum) (f : Stack → Stack) : (updStack s k f).clusters = s.clusters := rfl
@[simp] theorem updStack_stks (s : State) (k : StackNum) (f : Stack → Stack) : (updStack s k f).stks = s.stks.set k.toNat (f (getStack s k)) := rfl
@[simp] theorem updStack_thermtrip (s : State) (k : StackNum) (f : Stack → Stack) : (updStack s k f).thermtrip = s.thermtrip := rfl
@[simp] theorem updStack_boot (s : State) (k : StackNum) (f : Stack → Stack) : (updStack s k f).boot = s.boot := rfl
@[simp] theorem updStack_svc (s : State) (k : StackNum) (f : Stack → Stack) : (updStack s k f).svc = s.svc := rfl
@[simp] theorem updStack_iss (s : State) (k : StackNum) (f : Stack → Stack) : (updStack s k f).iss = s.iss := rfl
@[simp] theorem updStack_who (s : State) (k : StackNum) (f : Stack → Stack) : (updStack s k f).who = s.who := rfl
@[simp] theorem updStack_agenda (s : State) (k : StackNum) (f : Stack → Stack) : (updStack s k f).agenda = s.agenda := rfl
@[simp] theorem updStack_clockMark (s : State) (k : StackNum) (f : Stack → Stack) : (updStack s k f).clockMark = s.clockMark := rfl
@[simp] theorem updStack_nextId (s : State) (k : StackNum) (f : Stack → Stack) : (updStack s k f).nextId = s.nextId := rfl
@[simp] theorem updStack_freeCount (s : State) (k : StackNum) (f : Stack → Stack) : (updStack s k f).freeCount = s.freeCount := rfl
@[simp] theorem updStack_fwPage (s : State) (k : StackNum) (f : Stack → Stack) : (updStack s k f).fwPage = s.fwPage := rfl
@[simp] theorem updStack_badAddr (s : State) (k : StackNum) (f : Stack → Stack) : (updStack s k f).badAddr = s.badAddr := rfl

/-! ### updCluster -/

@[simp] theorem updCluster_waves (s : State) (k : ClusterNum) (f : Cluster → Cluster) : (updCluster s k f).waves = s.waves := rfl
@[simp] theorem updCluster_teams (s : State) (k : ClusterNum) (f : Cluster → Cluster) : (updCluster s k f).teams = s.teams := rfl
@[simp] theorem updCluster_runs (s : State) (k : ClusterNum) (f : Cluster → Cluster) : (updCluster s k f).runs = s.runs := rfl
@[simp] theorem updCluster_recs (s : State) (k : ClusterNum) (f : Cluster → Cluster) : (updCluster s k f).recs = s.recs := rfl
@[simp] theorem updCluster_engines (s : State) (k : ClusterNum) (f : Cluster → Cluster) : (updCluster s k f).engines = s.engines := rfl
@[simp] theorem updCluster_ctxs (s : State) (k : ClusterNum) (f : Cluster → Cluster) : (updCluster s k f).ctxs = s.ctxs := rfl
@[simp] theorem updCluster_mem (s : State) (k : ClusterNum) (f : Cluster → Cluster) : (updCluster s k f).mem = s.mem := rfl
@[simp] theorem updCluster_hostMem (s : State) (k : ClusterNum) (f : Cluster → Cluster) : (updCluster s k f).hostMem = s.hostMem := rfl
@[simp] theorem updCluster_hostAtomics (s : State) (k : ClusterNum) (f : Cluster → Cluster) : (updCluster s k f).hostAtomics = s.hostAtomics := rfl
@[simp] theorem updCluster_lstore (s : State) (k : ClusterNum) (f : Cluster → Cluster) : (updCluster s k f).lstore = s.lstore := rfl
@[simp] theorem updCluster_wstore (s : State) (k : ClusterNum) (f : Cluster → Cluster) : (updCluster s k f).wstore = s.wstore := rfl
@[simp] theorem updCluster_tiles (s : State) (k : ClusterNum) (f : Cluster → Cluster) : (updCluster s k f).tiles = s.tiles := rfl
@[simp] theorem updCluster_side (s : State) (k : ClusterNum) (f : Cluster → Cluster) : (updCluster s k f).side = s.side := rfl
@[simp] theorem updCluster_cc (s : State) (k : ClusterNum) (f : Cluster → Cluster) : (updCluster s k f).cc = s.cc := rfl
@[simp] theorem updCluster_ccLines (s : State) (k : ClusterNum) (f : Cluster → Cluster) : (updCluster s k f).ccLines = s.ccLines := rfl
@[simp] theorem updCluster_l2 (s : State) (k : ClusterNum) (f : Cluster → Cluster) : (updCluster s k f).l2 = s.l2 := rfl
@[simp] theorem updCluster_consts (s : State) (k : ClusterNum) (f : Cluster → Cluster) : (updCluster s k f).consts = s.consts := rfl
@[simp] theorem updCluster_codes (s : State) (k : ClusterNum) (f : Cluster → Cluster) : (updCluster s k f).codes = s.codes := rfl
@[simp] theorem updCluster_tlbs (s : State) (k : ClusterNum) (f : Cluster → Cluster) : (updCluster s k f).tlbs = s.tlbs := rfl
@[simp] theorem updCluster_tags (s : State) (k : ClusterNum) (f : Cluster → Cluster) : (updCluster s k f).tags = s.tags := rfl
@[simp] theorem updCluster_epochs (s : State) (k : ClusterNum) (f : Cluster → Cluster) : (updCluster s k f).epochs = s.epochs := rfl
@[simp] theorem updCluster_poison (s : State) (k : ClusterNum) (f : Cluster → Cluster) : (updCluster s k f).poison = s.poison := rfl
@[simp] theorem updCluster_scTicket (s : State) (k : ClusterNum) (f : Cluster → Cluster) : (updCluster s k f).scTicket = s.scTicket := rfl
@[simp] theorem updCluster_queues (s : State) (k : ClusterNum) (f : Cluster → Cluster) : (updCluster s k f).queues = s.queues := rfl
@[simp] theorem updCluster_unserved (s : State) (k : ClusterNum) (f : Cluster → Cluster) : (updCluster s k f).unserved = s.unserved := rfl
@[simp] theorem updCluster_irqstat (s : State) (k : ClusterNum) (f : Cluster → Cluster) : (updCluster s k f).irqstat = s.irqstat := rfl
@[simp] theorem updCluster_irqmask (s : State) (k : ClusterNum) (f : Cluster → Cluster) : (updCluster s k f).irqmask = s.irqmask := rfl
@[simp] theorem updCluster_msix (s : State) (k : ClusterNum) (f : Cluster → Cluster) : (updCluster s k f).msix = s.msix := rfl
@[simp] theorem updCluster_mail (s : State) (k : ClusterNum) (f : Cluster → Cluster) : (updCluster s k f).mail = s.mail := rfl
@[simp] theorem updCluster_hinge (s : State) (k : ClusterNum) (f : Cluster → Cluster) : (updCluster s k f).hinge = s.hinge := rfl
@[simp] theorem updCluster_clusters (s : State) (k : ClusterNum) (f : Cluster → Cluster) : (updCluster s k f).clusters = s.clusters.set k.toNat (f (getCluster s k)) := rfl
@[simp] theorem updCluster_stks (s : State) (k : ClusterNum) (f : Cluster → Cluster) : (updCluster s k f).stks = s.stks := rfl
@[simp] theorem updCluster_thermtrip (s : State) (k : ClusterNum) (f : Cluster → Cluster) : (updCluster s k f).thermtrip = s.thermtrip := rfl
@[simp] theorem updCluster_boot (s : State) (k : ClusterNum) (f : Cluster → Cluster) : (updCluster s k f).boot = s.boot := rfl
@[simp] theorem updCluster_svc (s : State) (k : ClusterNum) (f : Cluster → Cluster) : (updCluster s k f).svc = s.svc := rfl
@[simp] theorem updCluster_iss (s : State) (k : ClusterNum) (f : Cluster → Cluster) : (updCluster s k f).iss = s.iss := rfl
@[simp] theorem updCluster_who (s : State) (k : ClusterNum) (f : Cluster → Cluster) : (updCluster s k f).who = s.who := rfl
@[simp] theorem updCluster_agenda (s : State) (k : ClusterNum) (f : Cluster → Cluster) : (updCluster s k f).agenda = s.agenda := rfl
@[simp] theorem updCluster_clockMark (s : State) (k : ClusterNum) (f : Cluster → Cluster) : (updCluster s k f).clockMark = s.clockMark := rfl
@[simp] theorem updCluster_nextId (s : State) (k : ClusterNum) (f : Cluster → Cluster) : (updCluster s k f).nextId = s.nextId := rfl
@[simp] theorem updCluster_freeCount (s : State) (k : ClusterNum) (f : Cluster → Cluster) : (updCluster s k f).freeCount = s.freeCount := rfl
@[simp] theorem updCluster_fwPage (s : State) (k : ClusterNum) (f : Cluster → Cluster) : (updCluster s k f).fwPage = s.fwPage := rfl
@[simp] theorem updCluster_badAddr (s : State) (k : ClusterNum) (f : Cluster → Cluster) : (updCluster s k f).badAddr = s.badAddr := rfl

/-! ### updEngine -/

@[simp] theorem updEngine_waves (s : State) (k : ClusterNum) (f : Engine → Engine) : (updEngine s k f).waves = s.waves := rfl
@[simp] theorem updEngine_teams (s : State) (k : ClusterNum) (f : Engine → Engine) : (updEngine s k f).teams = s.teams := rfl
@[simp] theorem updEngine_runs (s : State) (k : ClusterNum) (f : Engine → Engine) : (updEngine s k f).runs = s.runs := rfl
@[simp] theorem updEngine_recs (s : State) (k : ClusterNum) (f : Engine → Engine) : (updEngine s k f).recs = s.recs := rfl
@[simp] theorem updEngine_engines (s : State) (k : ClusterNum) (f : Engine → Engine) : (updEngine s k f).engines = s.engines.set k.toNat (f (getEngine s k)) := rfl
@[simp] theorem updEngine_ctxs (s : State) (k : ClusterNum) (f : Engine → Engine) : (updEngine s k f).ctxs = s.ctxs := rfl
@[simp] theorem updEngine_mem (s : State) (k : ClusterNum) (f : Engine → Engine) : (updEngine s k f).mem = s.mem := rfl
@[simp] theorem updEngine_hostMem (s : State) (k : ClusterNum) (f : Engine → Engine) : (updEngine s k f).hostMem = s.hostMem := rfl
@[simp] theorem updEngine_hostAtomics (s : State) (k : ClusterNum) (f : Engine → Engine) : (updEngine s k f).hostAtomics = s.hostAtomics := rfl
@[simp] theorem updEngine_lstore (s : State) (k : ClusterNum) (f : Engine → Engine) : (updEngine s k f).lstore = s.lstore := rfl
@[simp] theorem updEngine_wstore (s : State) (k : ClusterNum) (f : Engine → Engine) : (updEngine s k f).wstore = s.wstore := rfl
@[simp] theorem updEngine_tiles (s : State) (k : ClusterNum) (f : Engine → Engine) : (updEngine s k f).tiles = s.tiles := rfl
@[simp] theorem updEngine_side (s : State) (k : ClusterNum) (f : Engine → Engine) : (updEngine s k f).side = s.side := rfl
@[simp] theorem updEngine_cc (s : State) (k : ClusterNum) (f : Engine → Engine) : (updEngine s k f).cc = s.cc := rfl
@[simp] theorem updEngine_ccLines (s : State) (k : ClusterNum) (f : Engine → Engine) : (updEngine s k f).ccLines = s.ccLines := rfl
@[simp] theorem updEngine_l2 (s : State) (k : ClusterNum) (f : Engine → Engine) : (updEngine s k f).l2 = s.l2 := rfl
@[simp] theorem updEngine_consts (s : State) (k : ClusterNum) (f : Engine → Engine) : (updEngine s k f).consts = s.consts := rfl
@[simp] theorem updEngine_codes (s : State) (k : ClusterNum) (f : Engine → Engine) : (updEngine s k f).codes = s.codes := rfl
@[simp] theorem updEngine_tlbs (s : State) (k : ClusterNum) (f : Engine → Engine) : (updEngine s k f).tlbs = s.tlbs := rfl
@[simp] theorem updEngine_tags (s : State) (k : ClusterNum) (f : Engine → Engine) : (updEngine s k f).tags = s.tags := rfl
@[simp] theorem updEngine_epochs (s : State) (k : ClusterNum) (f : Engine → Engine) : (updEngine s k f).epochs = s.epochs := rfl
@[simp] theorem updEngine_poison (s : State) (k : ClusterNum) (f : Engine → Engine) : (updEngine s k f).poison = s.poison := rfl
@[simp] theorem updEngine_scTicket (s : State) (k : ClusterNum) (f : Engine → Engine) : (updEngine s k f).scTicket = s.scTicket := rfl
@[simp] theorem updEngine_queues (s : State) (k : ClusterNum) (f : Engine → Engine) : (updEngine s k f).queues = s.queues := rfl
@[simp] theorem updEngine_unserved (s : State) (k : ClusterNum) (f : Engine → Engine) : (updEngine s k f).unserved = s.unserved := rfl
@[simp] theorem updEngine_irqstat (s : State) (k : ClusterNum) (f : Engine → Engine) : (updEngine s k f).irqstat = s.irqstat := rfl
@[simp] theorem updEngine_irqmask (s : State) (k : ClusterNum) (f : Engine → Engine) : (updEngine s k f).irqmask = s.irqmask := rfl
@[simp] theorem updEngine_msix (s : State) (k : ClusterNum) (f : Engine → Engine) : (updEngine s k f).msix = s.msix := rfl
@[simp] theorem updEngine_mail (s : State) (k : ClusterNum) (f : Engine → Engine) : (updEngine s k f).mail = s.mail := rfl
@[simp] theorem updEngine_hinge (s : State) (k : ClusterNum) (f : Engine → Engine) : (updEngine s k f).hinge = s.hinge := rfl
@[simp] theorem updEngine_clusters (s : State) (k : ClusterNum) (f : Engine → Engine) : (updEngine s k f).clusters = s.clusters := rfl
@[simp] theorem updEngine_stks (s : State) (k : ClusterNum) (f : Engine → Engine) : (updEngine s k f).stks = s.stks := rfl
@[simp] theorem updEngine_thermtrip (s : State) (k : ClusterNum) (f : Engine → Engine) : (updEngine s k f).thermtrip = s.thermtrip := rfl
@[simp] theorem updEngine_boot (s : State) (k : ClusterNum) (f : Engine → Engine) : (updEngine s k f).boot = s.boot := rfl
@[simp] theorem updEngine_svc (s : State) (k : ClusterNum) (f : Engine → Engine) : (updEngine s k f).svc = s.svc := rfl
@[simp] theorem updEngine_iss (s : State) (k : ClusterNum) (f : Engine → Engine) : (updEngine s k f).iss = s.iss := rfl
@[simp] theorem updEngine_who (s : State) (k : ClusterNum) (f : Engine → Engine) : (updEngine s k f).who = s.who := rfl
@[simp] theorem updEngine_agenda (s : State) (k : ClusterNum) (f : Engine → Engine) : (updEngine s k f).agenda = s.agenda := rfl
@[simp] theorem updEngine_clockMark (s : State) (k : ClusterNum) (f : Engine → Engine) : (updEngine s k f).clockMark = s.clockMark := rfl
@[simp] theorem updEngine_nextId (s : State) (k : ClusterNum) (f : Engine → Engine) : (updEngine s k f).nextId = s.nextId := rfl
@[simp] theorem updEngine_freeCount (s : State) (k : ClusterNum) (f : Engine → Engine) : (updEngine s k f).freeCount = s.freeCount := rfl
@[simp] theorem updEngine_fwPage (s : State) (k : ClusterNum) (f : Engine → Engine) : (updEngine s k f).fwPage = s.fwPage := rfl
@[simp] theorem updEngine_badAddr (s : State) (k : ClusterNum) (f : Engine → Engine) : (updEngine s k f).badAddr = s.badAddr := rfl

/-! ### updQueue -/

@[simp] theorem updQueue_waves (s : State) (q : QueueNum) (f : Queue → Queue) : (updQueue s q f).waves = s.waves := rfl
@[simp] theorem updQueue_teams (s : State) (q : QueueNum) (f : Queue → Queue) : (updQueue s q f).teams = s.teams := rfl
@[simp] theorem updQueue_runs (s : State) (q : QueueNum) (f : Queue → Queue) : (updQueue s q f).runs = s.runs := rfl
@[simp] theorem updQueue_recs (s : State) (q : QueueNum) (f : Queue → Queue) : (updQueue s q f).recs = s.recs := rfl
@[simp] theorem updQueue_engines (s : State) (q : QueueNum) (f : Queue → Queue) : (updQueue s q f).engines = s.engines := rfl
@[simp] theorem updQueue_ctxs (s : State) (q : QueueNum) (f : Queue → Queue) : (updQueue s q f).ctxs = s.ctxs := rfl
@[simp] theorem updQueue_mem (s : State) (q : QueueNum) (f : Queue → Queue) : (updQueue s q f).mem = s.mem := rfl
@[simp] theorem updQueue_hostMem (s : State) (q : QueueNum) (f : Queue → Queue) : (updQueue s q f).hostMem = s.hostMem := rfl
@[simp] theorem updQueue_hostAtomics (s : State) (q : QueueNum) (f : Queue → Queue) : (updQueue s q f).hostAtomics = s.hostAtomics := rfl
@[simp] theorem updQueue_lstore (s : State) (q : QueueNum) (f : Queue → Queue) : (updQueue s q f).lstore = s.lstore := rfl
@[simp] theorem updQueue_wstore (s : State) (q : QueueNum) (f : Queue → Queue) : (updQueue s q f).wstore = s.wstore := rfl
@[simp] theorem updQueue_tiles (s : State) (q : QueueNum) (f : Queue → Queue) : (updQueue s q f).tiles = s.tiles := rfl
@[simp] theorem updQueue_side (s : State) (q : QueueNum) (f : Queue → Queue) : (updQueue s q f).side = s.side := rfl
@[simp] theorem updQueue_cc (s : State) (q : QueueNum) (f : Queue → Queue) : (updQueue s q f).cc = s.cc := rfl
@[simp] theorem updQueue_ccLines (s : State) (q : QueueNum) (f : Queue → Queue) : (updQueue s q f).ccLines = s.ccLines := rfl
@[simp] theorem updQueue_l2 (s : State) (q : QueueNum) (f : Queue → Queue) : (updQueue s q f).l2 = s.l2 := rfl
@[simp] theorem updQueue_consts (s : State) (q : QueueNum) (f : Queue → Queue) : (updQueue s q f).consts = s.consts := rfl
@[simp] theorem updQueue_codes (s : State) (q : QueueNum) (f : Queue → Queue) : (updQueue s q f).codes = s.codes := rfl
@[simp] theorem updQueue_tlbs (s : State) (q : QueueNum) (f : Queue → Queue) : (updQueue s q f).tlbs = s.tlbs := rfl
@[simp] theorem updQueue_tags (s : State) (q : QueueNum) (f : Queue → Queue) : (updQueue s q f).tags = s.tags := rfl
@[simp] theorem updQueue_epochs (s : State) (q : QueueNum) (f : Queue → Queue) : (updQueue s q f).epochs = s.epochs := rfl
@[simp] theorem updQueue_poison (s : State) (q : QueueNum) (f : Queue → Queue) : (updQueue s q f).poison = s.poison := rfl
@[simp] theorem updQueue_scTicket (s : State) (q : QueueNum) (f : Queue → Queue) : (updQueue s q f).scTicket = s.scTicket := rfl
@[simp] theorem updQueue_queues (s : State) (q : QueueNum) (f : Queue → Queue) : (updQueue s q f).queues = s.queues.set q.toNat (f (getQueue s q)) := rfl
@[simp] theorem updQueue_unserved (s : State) (q : QueueNum) (f : Queue → Queue) : (updQueue s q f).unserved = s.unserved := rfl
@[simp] theorem updQueue_irqstat (s : State) (q : QueueNum) (f : Queue → Queue) : (updQueue s q f).irqstat = s.irqstat := rfl
@[simp] theorem updQueue_irqmask (s : State) (q : QueueNum) (f : Queue → Queue) : (updQueue s q f).irqmask = s.irqmask := rfl
@[simp] theorem updQueue_msix (s : State) (q : QueueNum) (f : Queue → Queue) : (updQueue s q f).msix = s.msix := rfl
@[simp] theorem updQueue_mail (s : State) (q : QueueNum) (f : Queue → Queue) : (updQueue s q f).mail = s.mail := rfl
@[simp] theorem updQueue_hinge (s : State) (q : QueueNum) (f : Queue → Queue) : (updQueue s q f).hinge = s.hinge := rfl
@[simp] theorem updQueue_clusters (s : State) (q : QueueNum) (f : Queue → Queue) : (updQueue s q f).clusters = s.clusters := rfl
@[simp] theorem updQueue_stks (s : State) (q : QueueNum) (f : Queue → Queue) : (updQueue s q f).stks = s.stks := rfl
@[simp] theorem updQueue_thermtrip (s : State) (q : QueueNum) (f : Queue → Queue) : (updQueue s q f).thermtrip = s.thermtrip := rfl
@[simp] theorem updQueue_boot (s : State) (q : QueueNum) (f : Queue → Queue) : (updQueue s q f).boot = s.boot := rfl
@[simp] theorem updQueue_svc (s : State) (q : QueueNum) (f : Queue → Queue) : (updQueue s q f).svc = s.svc := rfl
@[simp] theorem updQueue_iss (s : State) (q : QueueNum) (f : Queue → Queue) : (updQueue s q f).iss = s.iss := rfl
@[simp] theorem updQueue_who (s : State) (q : QueueNum) (f : Queue → Queue) : (updQueue s q f).who = s.who := rfl
@[simp] theorem updQueue_agenda (s : State) (q : QueueNum) (f : Queue → Queue) : (updQueue s q f).agenda = s.agenda := rfl
@[simp] theorem updQueue_clockMark (s : State) (q : QueueNum) (f : Queue → Queue) : (updQueue s q f).clockMark = s.clockMark := rfl
@[simp] theorem updQueue_nextId (s : State) (q : QueueNum) (f : Queue → Queue) : (updQueue s q f).nextId = s.nextId := rfl
@[simp] theorem updQueue_freeCount (s : State) (q : QueueNum) (f : Queue → Queue) : (updQueue s q f).freeCount = s.freeCount := rfl
@[simp] theorem updQueue_fwPage (s : State) (q : QueueNum) (f : Queue → Queue) : (updQueue s q f).fwPage = s.fwPage := rfl
@[simp] theorem updQueue_badAddr (s : State) (q : QueueNum) (f : Queue → Queue) : (updQueue s q f).badAddr = s.badAddr := rfl

/-! ### setCcByte -/

@[simp] theorem setCcByte_waves (s : State) (c : CoreNum) (l : Loc) (b : CacheByte) : (setCcByte s c l b).waves = s.waves := rfl
@[simp] theorem setCcByte_teams (s : State) (c : CoreNum) (l : Loc) (b : CacheByte) : (setCcByte s c l b).teams = s.teams := rfl
@[simp] theorem setCcByte_runs (s : State) (c : CoreNum) (l : Loc) (b : CacheByte) : (setCcByte s c l b).runs = s.runs := rfl
@[simp] theorem setCcByte_recs (s : State) (c : CoreNum) (l : Loc) (b : CacheByte) : (setCcByte s c l b).recs = s.recs := rfl
@[simp] theorem setCcByte_engines (s : State) (c : CoreNum) (l : Loc) (b : CacheByte) : (setCcByte s c l b).engines = s.engines := rfl
@[simp] theorem setCcByte_ctxs (s : State) (c : CoreNum) (l : Loc) (b : CacheByte) : (setCcByte s c l b).ctxs = s.ctxs := rfl
@[simp] theorem setCcByte_mem (s : State) (c : CoreNum) (l : Loc) (b : CacheByte) : (setCcByte s c l b).mem = s.mem := rfl
@[simp] theorem setCcByte_hostMem (s : State) (c : CoreNum) (l : Loc) (b : CacheByte) : (setCcByte s c l b).hostMem = s.hostMem := rfl
@[simp] theorem setCcByte_hostAtomics (s : State) (c : CoreNum) (l : Loc) (b : CacheByte) : (setCcByte s c l b).hostAtomics = s.hostAtomics := rfl
@[simp] theorem setCcByte_lstore (s : State) (c : CoreNum) (l : Loc) (b : CacheByte) : (setCcByte s c l b).lstore = s.lstore := rfl
@[simp] theorem setCcByte_wstore (s : State) (c : CoreNum) (l : Loc) (b : CacheByte) : (setCcByte s c l b).wstore = s.wstore := rfl
@[simp] theorem setCcByte_tiles (s : State) (c : CoreNum) (l : Loc) (b : CacheByte) : (setCcByte s c l b).tiles = s.tiles := rfl
@[simp] theorem setCcByte_side (s : State) (c : CoreNum) (l : Loc) (b : CacheByte) : (setCcByte s c l b).side = s.side := rfl
@[simp] theorem setCcByte_cc (s : State) (c : CoreNum) (l : Loc) (b : CacheByte) : (setCcByte s c l b).cc = cellsWrite s.cc (ccKey c l) b := rfl
@[simp] theorem setCcByte_ccLines (s : State) (c : CoreNum) (l : Loc) (b : CacheByte) : (setCcByte s c l b).ccLines = s.ccLines := rfl
@[simp] theorem setCcByte_l2 (s : State) (c : CoreNum) (l : Loc) (b : CacheByte) : (setCcByte s c l b).l2 = s.l2 := rfl
@[simp] theorem setCcByte_consts (s : State) (c : CoreNum) (l : Loc) (b : CacheByte) : (setCcByte s c l b).consts = s.consts := rfl
@[simp] theorem setCcByte_codes (s : State) (c : CoreNum) (l : Loc) (b : CacheByte) : (setCcByte s c l b).codes = s.codes := rfl
@[simp] theorem setCcByte_tlbs (s : State) (c : CoreNum) (l : Loc) (b : CacheByte) : (setCcByte s c l b).tlbs = s.tlbs := rfl
@[simp] theorem setCcByte_tags (s : State) (c : CoreNum) (l : Loc) (b : CacheByte) : (setCcByte s c l b).tags = s.tags := rfl
@[simp] theorem setCcByte_epochs (s : State) (c : CoreNum) (l : Loc) (b : CacheByte) : (setCcByte s c l b).epochs = s.epochs := rfl
@[simp] theorem setCcByte_poison (s : State) (c : CoreNum) (l : Loc) (b : CacheByte) : (setCcByte s c l b).poison = s.poison := rfl
@[simp] theorem setCcByte_scTicket (s : State) (c : CoreNum) (l : Loc) (b : CacheByte) : (setCcByte s c l b).scTicket = s.scTicket := rfl
@[simp] theorem setCcByte_queues (s : State) (c : CoreNum) (l : Loc) (b : CacheByte) : (setCcByte s c l b).queues = s.queues := rfl
@[simp] theorem setCcByte_unserved (s : State) (c : CoreNum) (l : Loc) (b : CacheByte) : (setCcByte s c l b).unserved = s.unserved := rfl
@[simp] theorem setCcByte_irqstat (s : State) (c : CoreNum) (l : Loc) (b : CacheByte) : (setCcByte s c l b).irqstat = s.irqstat := rfl
@[simp] theorem setCcByte_irqmask (s : State) (c : CoreNum) (l : Loc) (b : CacheByte) : (setCcByte s c l b).irqmask = s.irqmask := rfl
@[simp] theorem setCcByte_msix (s : State) (c : CoreNum) (l : Loc) (b : CacheByte) : (setCcByte s c l b).msix = s.msix := rfl
@[simp] theorem setCcByte_mail (s : State) (c : CoreNum) (l : Loc) (b : CacheByte) : (setCcByte s c l b).mail = s.mail := rfl
@[simp] theorem setCcByte_hinge (s : State) (c : CoreNum) (l : Loc) (b : CacheByte) : (setCcByte s c l b).hinge = s.hinge := rfl
@[simp] theorem setCcByte_clusters (s : State) (c : CoreNum) (l : Loc) (b : CacheByte) : (setCcByte s c l b).clusters = s.clusters := rfl
@[simp] theorem setCcByte_stks (s : State) (c : CoreNum) (l : Loc) (b : CacheByte) : (setCcByte s c l b).stks = s.stks := rfl
@[simp] theorem setCcByte_thermtrip (s : State) (c : CoreNum) (l : Loc) (b : CacheByte) : (setCcByte s c l b).thermtrip = s.thermtrip := rfl
@[simp] theorem setCcByte_boot (s : State) (c : CoreNum) (l : Loc) (b : CacheByte) : (setCcByte s c l b).boot = s.boot := rfl
@[simp] theorem setCcByte_svc (s : State) (c : CoreNum) (l : Loc) (b : CacheByte) : (setCcByte s c l b).svc = s.svc := rfl
@[simp] theorem setCcByte_iss (s : State) (c : CoreNum) (l : Loc) (b : CacheByte) : (setCcByte s c l b).iss = s.iss := rfl
@[simp] theorem setCcByte_who (s : State) (c : CoreNum) (l : Loc) (b : CacheByte) : (setCcByte s c l b).who = s.who := rfl
@[simp] theorem setCcByte_agenda (s : State) (c : CoreNum) (l : Loc) (b : CacheByte) : (setCcByte s c l b).agenda = s.agenda := rfl
@[simp] theorem setCcByte_clockMark (s : State) (c : CoreNum) (l : Loc) (b : CacheByte) : (setCcByte s c l b).clockMark = s.clockMark := rfl
@[simp] theorem setCcByte_nextId (s : State) (c : CoreNum) (l : Loc) (b : CacheByte) : (setCcByte s c l b).nextId = s.nextId := rfl
@[simp] theorem setCcByte_freeCount (s : State) (c : CoreNum) (l : Loc) (b : CacheByte) : (setCcByte s c l b).freeCount = s.freeCount := rfl
@[simp] theorem setCcByte_fwPage (s : State) (c : CoreNum) (l : Loc) (b : CacheByte) : (setCcByte s c l b).fwPage = s.fwPage := rfl
@[simp] theorem setCcByte_badAddr (s : State) (c : CoreNum) (l : Loc) (b : CacheByte) : (setCcByte s c l b).badAddr = s.badAddr := rfl

/-! ### updWave -/

@[simp] theorem updWave_teams (s : State) (id : Nat) (f : Wave → Wave) : (updWave s id f).teams = s.teams := by unfold updWave; split <;> rfl
@[simp] theorem updWave_runs (s : State) (id : Nat) (f : Wave → Wave) : (updWave s id f).runs = s.runs := by unfold updWave; split <;> rfl
@[simp] theorem updWave_recs (s : State) (id : Nat) (f : Wave → Wave) : (updWave s id f).recs = s.recs := by unfold updWave; split <;> rfl
@[simp] theorem updWave_engines (s : State) (id : Nat) (f : Wave → Wave) : (updWave s id f).engines = s.engines := by unfold updWave; split <;> rfl
@[simp] theorem updWave_ctxs (s : State) (id : Nat) (f : Wave → Wave) : (updWave s id f).ctxs = s.ctxs := by unfold updWave; split <;> rfl
@[simp] theorem updWave_mem (s : State) (id : Nat) (f : Wave → Wave) : (updWave s id f).mem = s.mem := by unfold updWave; split <;> rfl
@[simp] theorem updWave_hostMem (s : State) (id : Nat) (f : Wave → Wave) : (updWave s id f).hostMem = s.hostMem := by unfold updWave; split <;> rfl
@[simp] theorem updWave_hostAtomics (s : State) (id : Nat) (f : Wave → Wave) : (updWave s id f).hostAtomics = s.hostAtomics := by unfold updWave; split <;> rfl
@[simp] theorem updWave_lstore (s : State) (id : Nat) (f : Wave → Wave) : (updWave s id f).lstore = s.lstore := by unfold updWave; split <;> rfl
@[simp] theorem updWave_wstore (s : State) (id : Nat) (f : Wave → Wave) : (updWave s id f).wstore = s.wstore := by unfold updWave; split <;> rfl
@[simp] theorem updWave_tiles (s : State) (id : Nat) (f : Wave → Wave) : (updWave s id f).tiles = s.tiles := by unfold updWave; split <;> rfl
@[simp] theorem updWave_side (s : State) (id : Nat) (f : Wave → Wave) : (updWave s id f).side = s.side := by unfold updWave; split <;> rfl
@[simp] theorem updWave_cc (s : State) (id : Nat) (f : Wave → Wave) : (updWave s id f).cc = s.cc := by unfold updWave; split <;> rfl
@[simp] theorem updWave_ccLines (s : State) (id : Nat) (f : Wave → Wave) : (updWave s id f).ccLines = s.ccLines := by unfold updWave; split <;> rfl
@[simp] theorem updWave_l2 (s : State) (id : Nat) (f : Wave → Wave) : (updWave s id f).l2 = s.l2 := by unfold updWave; split <;> rfl
@[simp] theorem updWave_consts (s : State) (id : Nat) (f : Wave → Wave) : (updWave s id f).consts = s.consts := by unfold updWave; split <;> rfl
@[simp] theorem updWave_codes (s : State) (id : Nat) (f : Wave → Wave) : (updWave s id f).codes = s.codes := by unfold updWave; split <;> rfl
@[simp] theorem updWave_tlbs (s : State) (id : Nat) (f : Wave → Wave) : (updWave s id f).tlbs = s.tlbs := by unfold updWave; split <;> rfl
@[simp] theorem updWave_tags (s : State) (id : Nat) (f : Wave → Wave) : (updWave s id f).tags = s.tags := by unfold updWave; split <;> rfl
@[simp] theorem updWave_epochs (s : State) (id : Nat) (f : Wave → Wave) : (updWave s id f).epochs = s.epochs := by unfold updWave; split <;> rfl
@[simp] theorem updWave_poison (s : State) (id : Nat) (f : Wave → Wave) : (updWave s id f).poison = s.poison := by unfold updWave; split <;> rfl
@[simp] theorem updWave_scTicket (s : State) (id : Nat) (f : Wave → Wave) : (updWave s id f).scTicket = s.scTicket := by unfold updWave; split <;> rfl
@[simp] theorem updWave_queues (s : State) (id : Nat) (f : Wave → Wave) : (updWave s id f).queues = s.queues := by unfold updWave; split <;> rfl
@[simp] theorem updWave_unserved (s : State) (id : Nat) (f : Wave → Wave) : (updWave s id f).unserved = s.unserved := by unfold updWave; split <;> rfl
@[simp] theorem updWave_irqstat (s : State) (id : Nat) (f : Wave → Wave) : (updWave s id f).irqstat = s.irqstat := by unfold updWave; split <;> rfl
@[simp] theorem updWave_irqmask (s : State) (id : Nat) (f : Wave → Wave) : (updWave s id f).irqmask = s.irqmask := by unfold updWave; split <;> rfl
@[simp] theorem updWave_msix (s : State) (id : Nat) (f : Wave → Wave) : (updWave s id f).msix = s.msix := by unfold updWave; split <;> rfl
@[simp] theorem updWave_mail (s : State) (id : Nat) (f : Wave → Wave) : (updWave s id f).mail = s.mail := by unfold updWave; split <;> rfl
@[simp] theorem updWave_hinge (s : State) (id : Nat) (f : Wave → Wave) : (updWave s id f).hinge = s.hinge := by unfold updWave; split <;> rfl
@[simp] theorem updWave_clusters (s : State) (id : Nat) (f : Wave → Wave) : (updWave s id f).clusters = s.clusters := by unfold updWave; split <;> rfl
@[simp] theorem updWave_stks (s : State) (id : Nat) (f : Wave → Wave) : (updWave s id f).stks = s.stks := by unfold updWave; split <;> rfl
@[simp] theorem updWave_thermtrip (s : State) (id : Nat) (f : Wave → Wave) : (updWave s id f).thermtrip = s.thermtrip := by unfold updWave; split <;> rfl
@[simp] theorem updWave_boot (s : State) (id : Nat) (f : Wave → Wave) : (updWave s id f).boot = s.boot := by unfold updWave; split <;> rfl
@[simp] theorem updWave_svc (s : State) (id : Nat) (f : Wave → Wave) : (updWave s id f).svc = s.svc := by unfold updWave; split <;> rfl
@[simp] theorem updWave_iss (s : State) (id : Nat) (f : Wave → Wave) : (updWave s id f).iss = s.iss := by unfold updWave; split <;> rfl
@[simp] theorem updWave_who (s : State) (id : Nat) (f : Wave → Wave) : (updWave s id f).who = s.who := by unfold updWave; split <;> rfl
@[simp] theorem updWave_agenda (s : State) (id : Nat) (f : Wave → Wave) : (updWave s id f).agenda = s.agenda := by unfold updWave; split <;> rfl
@[simp] theorem updWave_clockMark (s : State) (id : Nat) (f : Wave → Wave) : (updWave s id f).clockMark = s.clockMark := by unfold updWave; split <;> rfl
@[simp] theorem updWave_nextId (s : State) (id : Nat) (f : Wave → Wave) : (updWave s id f).nextId = s.nextId := by unfold updWave; split <;> rfl
@[simp] theorem updWave_freeCount (s : State) (id : Nat) (f : Wave → Wave) : (updWave s id f).freeCount = s.freeCount := by unfold updWave; split <;> rfl
@[simp] theorem updWave_fwPage (s : State) (id : Nat) (f : Wave → Wave) : (updWave s id f).fwPage = s.fwPage := by unfold updWave; split <;> rfl
@[simp] theorem updWave_badAddr (s : State) (id : Nat) (f : Wave → Wave) : (updWave s id f).badAddr = s.badAddr := by unfold updWave; split <;> rfl

/-! ### updTeam -/

@[simp] theorem updTeam_waves (s : State) (id : Nat) (f : Team → Team) : (updTeam s id f).waves = s.waves := by unfold updTeam; split <;> rfl
@[simp] theorem updTeam_runs (s : State) (id : Nat) (f : Team → Team) : (updTeam s id f).runs = s.runs := by unfold updTeam; split <;> rfl
@[simp] theorem updTeam_recs (s : State) (id : Nat) (f : Team → Team) : (updTeam s id f).recs = s.recs := by unfold updTeam; split <;> rfl
@[simp] theorem updTeam_engines (s : State) (id : Nat) (f : Team → Team) : (updTeam s id f).engines = s.engines := by unfold updTeam; split <;> rfl
@[simp] theorem updTeam_ctxs (s : State) (id : Nat) (f : Team → Team) : (updTeam s id f).ctxs = s.ctxs := by unfold updTeam; split <;> rfl
@[simp] theorem updTeam_mem (s : State) (id : Nat) (f : Team → Team) : (updTeam s id f).mem = s.mem := by unfold updTeam; split <;> rfl
@[simp] theorem updTeam_hostMem (s : State) (id : Nat) (f : Team → Team) : (updTeam s id f).hostMem = s.hostMem := by unfold updTeam; split <;> rfl
@[simp] theorem updTeam_hostAtomics (s : State) (id : Nat) (f : Team → Team) : (updTeam s id f).hostAtomics = s.hostAtomics := by unfold updTeam; split <;> rfl
@[simp] theorem updTeam_lstore (s : State) (id : Nat) (f : Team → Team) : (updTeam s id f).lstore = s.lstore := by unfold updTeam; split <;> rfl
@[simp] theorem updTeam_wstore (s : State) (id : Nat) (f : Team → Team) : (updTeam s id f).wstore = s.wstore := by unfold updTeam; split <;> rfl
@[simp] theorem updTeam_tiles (s : State) (id : Nat) (f : Team → Team) : (updTeam s id f).tiles = s.tiles := by unfold updTeam; split <;> rfl
@[simp] theorem updTeam_side (s : State) (id : Nat) (f : Team → Team) : (updTeam s id f).side = s.side := by unfold updTeam; split <;> rfl
@[simp] theorem updTeam_cc (s : State) (id : Nat) (f : Team → Team) : (updTeam s id f).cc = s.cc := by unfold updTeam; split <;> rfl
@[simp] theorem updTeam_ccLines (s : State) (id : Nat) (f : Team → Team) : (updTeam s id f).ccLines = s.ccLines := by unfold updTeam; split <;> rfl
@[simp] theorem updTeam_l2 (s : State) (id : Nat) (f : Team → Team) : (updTeam s id f).l2 = s.l2 := by unfold updTeam; split <;> rfl
@[simp] theorem updTeam_consts (s : State) (id : Nat) (f : Team → Team) : (updTeam s id f).consts = s.consts := by unfold updTeam; split <;> rfl
@[simp] theorem updTeam_codes (s : State) (id : Nat) (f : Team → Team) : (updTeam s id f).codes = s.codes := by unfold updTeam; split <;> rfl
@[simp] theorem updTeam_tlbs (s : State) (id : Nat) (f : Team → Team) : (updTeam s id f).tlbs = s.tlbs := by unfold updTeam; split <;> rfl
@[simp] theorem updTeam_tags (s : State) (id : Nat) (f : Team → Team) : (updTeam s id f).tags = s.tags := by unfold updTeam; split <;> rfl
@[simp] theorem updTeam_epochs (s : State) (id : Nat) (f : Team → Team) : (updTeam s id f).epochs = s.epochs := by unfold updTeam; split <;> rfl
@[simp] theorem updTeam_poison (s : State) (id : Nat) (f : Team → Team) : (updTeam s id f).poison = s.poison := by unfold updTeam; split <;> rfl
@[simp] theorem updTeam_scTicket (s : State) (id : Nat) (f : Team → Team) : (updTeam s id f).scTicket = s.scTicket := by unfold updTeam; split <;> rfl
@[simp] theorem updTeam_queues (s : State) (id : Nat) (f : Team → Team) : (updTeam s id f).queues = s.queues := by unfold updTeam; split <;> rfl
@[simp] theorem updTeam_unserved (s : State) (id : Nat) (f : Team → Team) : (updTeam s id f).unserved = s.unserved := by unfold updTeam; split <;> rfl
@[simp] theorem updTeam_irqstat (s : State) (id : Nat) (f : Team → Team) : (updTeam s id f).irqstat = s.irqstat := by unfold updTeam; split <;> rfl
@[simp] theorem updTeam_irqmask (s : State) (id : Nat) (f : Team → Team) : (updTeam s id f).irqmask = s.irqmask := by unfold updTeam; split <;> rfl
@[simp] theorem updTeam_msix (s : State) (id : Nat) (f : Team → Team) : (updTeam s id f).msix = s.msix := by unfold updTeam; split <;> rfl
@[simp] theorem updTeam_mail (s : State) (id : Nat) (f : Team → Team) : (updTeam s id f).mail = s.mail := by unfold updTeam; split <;> rfl
@[simp] theorem updTeam_hinge (s : State) (id : Nat) (f : Team → Team) : (updTeam s id f).hinge = s.hinge := by unfold updTeam; split <;> rfl
@[simp] theorem updTeam_clusters (s : State) (id : Nat) (f : Team → Team) : (updTeam s id f).clusters = s.clusters := by unfold updTeam; split <;> rfl
@[simp] theorem updTeam_stks (s : State) (id : Nat) (f : Team → Team) : (updTeam s id f).stks = s.stks := by unfold updTeam; split <;> rfl
@[simp] theorem updTeam_thermtrip (s : State) (id : Nat) (f : Team → Team) : (updTeam s id f).thermtrip = s.thermtrip := by unfold updTeam; split <;> rfl
@[simp] theorem updTeam_boot (s : State) (id : Nat) (f : Team → Team) : (updTeam s id f).boot = s.boot := by unfold updTeam; split <;> rfl
@[simp] theorem updTeam_svc (s : State) (id : Nat) (f : Team → Team) : (updTeam s id f).svc = s.svc := by unfold updTeam; split <;> rfl
@[simp] theorem updTeam_iss (s : State) (id : Nat) (f : Team → Team) : (updTeam s id f).iss = s.iss := by unfold updTeam; split <;> rfl
@[simp] theorem updTeam_who (s : State) (id : Nat) (f : Team → Team) : (updTeam s id f).who = s.who := by unfold updTeam; split <;> rfl
@[simp] theorem updTeam_agenda (s : State) (id : Nat) (f : Team → Team) : (updTeam s id f).agenda = s.agenda := by unfold updTeam; split <;> rfl
@[simp] theorem updTeam_clockMark (s : State) (id : Nat) (f : Team → Team) : (updTeam s id f).clockMark = s.clockMark := by unfold updTeam; split <;> rfl
@[simp] theorem updTeam_nextId (s : State) (id : Nat) (f : Team → Team) : (updTeam s id f).nextId = s.nextId := by unfold updTeam; split <;> rfl
@[simp] theorem updTeam_freeCount (s : State) (id : Nat) (f : Team → Team) : (updTeam s id f).freeCount = s.freeCount := by unfold updTeam; split <;> rfl
@[simp] theorem updTeam_fwPage (s : State) (id : Nat) (f : Team → Team) : (updTeam s id f).fwPage = s.fwPage := by unfold updTeam; split <;> rfl
@[simp] theorem updTeam_badAddr (s : State) (id : Nat) (f : Team → Team) : (updTeam s id f).badAddr = s.badAddr := by unfold updTeam; split <;> rfl

/-! ### updRun -/

@[simp] theorem updRun_waves (s : State) (id : Nat) (f : Run → Run) : (updRun s id f).waves = s.waves := by unfold updRun; split <;> rfl
@[simp] theorem updRun_teams (s : State) (id : Nat) (f : Run → Run) : (updRun s id f).teams = s.teams := by unfold updRun; split <;> rfl
@[simp] theorem updRun_recs (s : State) (id : Nat) (f : Run → Run) : (updRun s id f).recs = s.recs := by unfold updRun; split <;> rfl
@[simp] theorem updRun_engines (s : State) (id : Nat) (f : Run → Run) : (updRun s id f).engines = s.engines := by unfold updRun; split <;> rfl
@[simp] theorem updRun_ctxs (s : State) (id : Nat) (f : Run → Run) : (updRun s id f).ctxs = s.ctxs := by unfold updRun; split <;> rfl
@[simp] theorem updRun_mem (s : State) (id : Nat) (f : Run → Run) : (updRun s id f).mem = s.mem := by unfold updRun; split <;> rfl
@[simp] theorem updRun_hostMem (s : State) (id : Nat) (f : Run → Run) : (updRun s id f).hostMem = s.hostMem := by unfold updRun; split <;> rfl
@[simp] theorem updRun_hostAtomics (s : State) (id : Nat) (f : Run → Run) : (updRun s id f).hostAtomics = s.hostAtomics := by unfold updRun; split <;> rfl
@[simp] theorem updRun_lstore (s : State) (id : Nat) (f : Run → Run) : (updRun s id f).lstore = s.lstore := by unfold updRun; split <;> rfl
@[simp] theorem updRun_wstore (s : State) (id : Nat) (f : Run → Run) : (updRun s id f).wstore = s.wstore := by unfold updRun; split <;> rfl
@[simp] theorem updRun_tiles (s : State) (id : Nat) (f : Run → Run) : (updRun s id f).tiles = s.tiles := by unfold updRun; split <;> rfl
@[simp] theorem updRun_side (s : State) (id : Nat) (f : Run → Run) : (updRun s id f).side = s.side := by unfold updRun; split <;> rfl
@[simp] theorem updRun_cc (s : State) (id : Nat) (f : Run → Run) : (updRun s id f).cc = s.cc := by unfold updRun; split <;> rfl
@[simp] theorem updRun_ccLines (s : State) (id : Nat) (f : Run → Run) : (updRun s id f).ccLines = s.ccLines := by unfold updRun; split <;> rfl
@[simp] theorem updRun_l2 (s : State) (id : Nat) (f : Run → Run) : (updRun s id f).l2 = s.l2 := by unfold updRun; split <;> rfl
@[simp] theorem updRun_consts (s : State) (id : Nat) (f : Run → Run) : (updRun s id f).consts = s.consts := by unfold updRun; split <;> rfl
@[simp] theorem updRun_codes (s : State) (id : Nat) (f : Run → Run) : (updRun s id f).codes = s.codes := by unfold updRun; split <;> rfl
@[simp] theorem updRun_tlbs (s : State) (id : Nat) (f : Run → Run) : (updRun s id f).tlbs = s.tlbs := by unfold updRun; split <;> rfl
@[simp] theorem updRun_tags (s : State) (id : Nat) (f : Run → Run) : (updRun s id f).tags = s.tags := by unfold updRun; split <;> rfl
@[simp] theorem updRun_epochs (s : State) (id : Nat) (f : Run → Run) : (updRun s id f).epochs = s.epochs := by unfold updRun; split <;> rfl
@[simp] theorem updRun_poison (s : State) (id : Nat) (f : Run → Run) : (updRun s id f).poison = s.poison := by unfold updRun; split <;> rfl
@[simp] theorem updRun_scTicket (s : State) (id : Nat) (f : Run → Run) : (updRun s id f).scTicket = s.scTicket := by unfold updRun; split <;> rfl
@[simp] theorem updRun_queues (s : State) (id : Nat) (f : Run → Run) : (updRun s id f).queues = s.queues := by unfold updRun; split <;> rfl
@[simp] theorem updRun_unserved (s : State) (id : Nat) (f : Run → Run) : (updRun s id f).unserved = s.unserved := by unfold updRun; split <;> rfl
@[simp] theorem updRun_irqstat (s : State) (id : Nat) (f : Run → Run) : (updRun s id f).irqstat = s.irqstat := by unfold updRun; split <;> rfl
@[simp] theorem updRun_irqmask (s : State) (id : Nat) (f : Run → Run) : (updRun s id f).irqmask = s.irqmask := by unfold updRun; split <;> rfl
@[simp] theorem updRun_msix (s : State) (id : Nat) (f : Run → Run) : (updRun s id f).msix = s.msix := by unfold updRun; split <;> rfl
@[simp] theorem updRun_mail (s : State) (id : Nat) (f : Run → Run) : (updRun s id f).mail = s.mail := by unfold updRun; split <;> rfl
@[simp] theorem updRun_hinge (s : State) (id : Nat) (f : Run → Run) : (updRun s id f).hinge = s.hinge := by unfold updRun; split <;> rfl
@[simp] theorem updRun_clusters (s : State) (id : Nat) (f : Run → Run) : (updRun s id f).clusters = s.clusters := by unfold updRun; split <;> rfl
@[simp] theorem updRun_stks (s : State) (id : Nat) (f : Run → Run) : (updRun s id f).stks = s.stks := by unfold updRun; split <;> rfl
@[simp] theorem updRun_thermtrip (s : State) (id : Nat) (f : Run → Run) : (updRun s id f).thermtrip = s.thermtrip := by unfold updRun; split <;> rfl
@[simp] theorem updRun_boot (s : State) (id : Nat) (f : Run → Run) : (updRun s id f).boot = s.boot := by unfold updRun; split <;> rfl
@[simp] theorem updRun_svc (s : State) (id : Nat) (f : Run → Run) : (updRun s id f).svc = s.svc := by unfold updRun; split <;> rfl
@[simp] theorem updRun_iss (s : State) (id : Nat) (f : Run → Run) : (updRun s id f).iss = s.iss := by unfold updRun; split <;> rfl
@[simp] theorem updRun_who (s : State) (id : Nat) (f : Run → Run) : (updRun s id f).who = s.who := by unfold updRun; split <;> rfl
@[simp] theorem updRun_agenda (s : State) (id : Nat) (f : Run → Run) : (updRun s id f).agenda = s.agenda := by unfold updRun; split <;> rfl
@[simp] theorem updRun_clockMark (s : State) (id : Nat) (f : Run → Run) : (updRun s id f).clockMark = s.clockMark := by unfold updRun; split <;> rfl
@[simp] theorem updRun_nextId (s : State) (id : Nat) (f : Run → Run) : (updRun s id f).nextId = s.nextId := by unfold updRun; split <;> rfl
@[simp] theorem updRun_freeCount (s : State) (id : Nat) (f : Run → Run) : (updRun s id f).freeCount = s.freeCount := by unfold updRun; split <;> rfl
@[simp] theorem updRun_fwPage (s : State) (id : Nat) (f : Run → Run) : (updRun s id f).fwPage = s.fwPage := by unfold updRun; split <;> rfl
@[simp] theorem updRun_badAddr (s : State) (id : Nat) (f : Run → Run) : (updRun s id f).badAddr = s.badAddr := by unfold updRun; split <;> rfl

/-! ### updCur -/

@[simp] theorem updCur_teams (s : State) (f : Wave → Wave) : (updCur s f).teams = s.teams := updWave_teams s _ f
@[simp] theorem updCur_runs (s : State) (f : Wave → Wave) : (updCur s f).runs = s.runs := updWave_runs s _ f
@[simp] theorem updCur_recs (s : State) (f : Wave → Wave) : (updCur s f).recs = s.recs := updWave_recs s _ f
@[simp] theorem updCur_engines (s : State) (f : Wave → Wave) : (updCur s f).engines = s.engines := updWave_engines s _ f
@[simp] theorem updCur_ctxs (s : State) (f : Wave → Wave) : (updCur s f).ctxs = s.ctxs := updWave_ctxs s _ f
@[simp] theorem updCur_mem (s : State) (f : Wave → Wave) : (updCur s f).mem = s.mem := updWave_mem s _ f
@[simp] theorem updCur_hostMem (s : State) (f : Wave → Wave) : (updCur s f).hostMem = s.hostMem := updWave_hostMem s _ f
@[simp] theorem updCur_hostAtomics (s : State) (f : Wave → Wave) : (updCur s f).hostAtomics = s.hostAtomics := updWave_hostAtomics s _ f
@[simp] theorem updCur_lstore (s : State) (f : Wave → Wave) : (updCur s f).lstore = s.lstore := updWave_lstore s _ f
@[simp] theorem updCur_wstore (s : State) (f : Wave → Wave) : (updCur s f).wstore = s.wstore := updWave_wstore s _ f
@[simp] theorem updCur_tiles (s : State) (f : Wave → Wave) : (updCur s f).tiles = s.tiles := updWave_tiles s _ f
@[simp] theorem updCur_side (s : State) (f : Wave → Wave) : (updCur s f).side = s.side := updWave_side s _ f
@[simp] theorem updCur_cc (s : State) (f : Wave → Wave) : (updCur s f).cc = s.cc := updWave_cc s _ f
@[simp] theorem updCur_ccLines (s : State) (f : Wave → Wave) : (updCur s f).ccLines = s.ccLines := updWave_ccLines s _ f
@[simp] theorem updCur_l2 (s : State) (f : Wave → Wave) : (updCur s f).l2 = s.l2 := updWave_l2 s _ f
@[simp] theorem updCur_consts (s : State) (f : Wave → Wave) : (updCur s f).consts = s.consts := updWave_consts s _ f
@[simp] theorem updCur_codes (s : State) (f : Wave → Wave) : (updCur s f).codes = s.codes := updWave_codes s _ f
@[simp] theorem updCur_tlbs (s : State) (f : Wave → Wave) : (updCur s f).tlbs = s.tlbs := updWave_tlbs s _ f
@[simp] theorem updCur_tags (s : State) (f : Wave → Wave) : (updCur s f).tags = s.tags := updWave_tags s _ f
@[simp] theorem updCur_epochs (s : State) (f : Wave → Wave) : (updCur s f).epochs = s.epochs := updWave_epochs s _ f
@[simp] theorem updCur_poison (s : State) (f : Wave → Wave) : (updCur s f).poison = s.poison := updWave_poison s _ f
@[simp] theorem updCur_scTicket (s : State) (f : Wave → Wave) : (updCur s f).scTicket = s.scTicket := updWave_scTicket s _ f
@[simp] theorem updCur_queues (s : State) (f : Wave → Wave) : (updCur s f).queues = s.queues := updWave_queues s _ f
@[simp] theorem updCur_unserved (s : State) (f : Wave → Wave) : (updCur s f).unserved = s.unserved := updWave_unserved s _ f
@[simp] theorem updCur_irqstat (s : State) (f : Wave → Wave) : (updCur s f).irqstat = s.irqstat := updWave_irqstat s _ f
@[simp] theorem updCur_irqmask (s : State) (f : Wave → Wave) : (updCur s f).irqmask = s.irqmask := updWave_irqmask s _ f
@[simp] theorem updCur_msix (s : State) (f : Wave → Wave) : (updCur s f).msix = s.msix := updWave_msix s _ f
@[simp] theorem updCur_mail (s : State) (f : Wave → Wave) : (updCur s f).mail = s.mail := updWave_mail s _ f
@[simp] theorem updCur_hinge (s : State) (f : Wave → Wave) : (updCur s f).hinge = s.hinge := updWave_hinge s _ f
@[simp] theorem updCur_clusters (s : State) (f : Wave → Wave) : (updCur s f).clusters = s.clusters := updWave_clusters s _ f
@[simp] theorem updCur_stks (s : State) (f : Wave → Wave) : (updCur s f).stks = s.stks := updWave_stks s _ f
@[simp] theorem updCur_thermtrip (s : State) (f : Wave → Wave) : (updCur s f).thermtrip = s.thermtrip := updWave_thermtrip s _ f
@[simp] theorem updCur_boot (s : State) (f : Wave → Wave) : (updCur s f).boot = s.boot := updWave_boot s _ f
@[simp] theorem updCur_svc (s : State) (f : Wave → Wave) : (updCur s f).svc = s.svc := updWave_svc s _ f
@[simp] theorem updCur_iss (s : State) (f : Wave → Wave) : (updCur s f).iss = s.iss := updWave_iss s _ f
@[simp] theorem updCur_who (s : State) (f : Wave → Wave) : (updCur s f).who = s.who := updWave_who s _ f
@[simp] theorem updCur_agenda (s : State) (f : Wave → Wave) : (updCur s f).agenda = s.agenda := updWave_agenda s _ f
@[simp] theorem updCur_clockMark (s : State) (f : Wave → Wave) : (updCur s f).clockMark = s.clockMark := updWave_clockMark s _ f
@[simp] theorem updCur_nextId (s : State) (f : Wave → Wave) : (updCur s f).nextId = s.nextId := updWave_nextId s _ f
@[simp] theorem updCur_freeCount (s : State) (f : Wave → Wave) : (updCur s f).freeCount = s.freeCount := updWave_freeCount s _ f
@[simp] theorem updCur_fwPage (s : State) (f : Wave → Wave) : (updCur s f).fwPage = s.fwPage := updWave_fwPage s _ f
@[simp] theorem updCur_badAddr (s : State) (f : Wave → Wave) : (updCur s f).badAddr = s.badAddr := updWave_badAddr s _ f

/-! ### updSvc -/

@[simp] theorem updSvc_waves (s : State) (f : Service → Service) : (updSvc s f).waves = s.waves := rfl
@[simp] theorem updSvc_teams (s : State) (f : Service → Service) : (updSvc s f).teams = s.teams := rfl
@[simp] theorem updSvc_runs (s : State) (f : Service → Service) : (updSvc s f).runs = s.runs := rfl
@[simp] theorem updSvc_recs (s : State) (f : Service → Service) : (updSvc s f).recs = s.recs := rfl
@[simp] theorem updSvc_engines (s : State) (f : Service → Service) : (updSvc s f).engines = s.engines := rfl
@[simp] theorem updSvc_ctxs (s : State) (f : Service → Service) : (updSvc s f).ctxs = s.ctxs := rfl
@[simp] theorem updSvc_mem (s : State) (f : Service → Service) : (updSvc s f).mem = s.mem := rfl
@[simp] theorem updSvc_hostMem (s : State) (f : Service → Service) : (updSvc s f).hostMem = s.hostMem := rfl
@[simp] theorem updSvc_hostAtomics (s : State) (f : Service → Service) : (updSvc s f).hostAtomics = s.hostAtomics := rfl
@[simp] theorem updSvc_lstore (s : State) (f : Service → Service) : (updSvc s f).lstore = s.lstore := rfl
@[simp] theorem updSvc_wstore (s : State) (f : Service → Service) : (updSvc s f).wstore = s.wstore := rfl
@[simp] theorem updSvc_tiles (s : State) (f : Service → Service) : (updSvc s f).tiles = s.tiles := rfl
@[simp] theorem updSvc_side (s : State) (f : Service → Service) : (updSvc s f).side = s.side := rfl
@[simp] theorem updSvc_cc (s : State) (f : Service → Service) : (updSvc s f).cc = s.cc := rfl
@[simp] theorem updSvc_ccLines (s : State) (f : Service → Service) : (updSvc s f).ccLines = s.ccLines := rfl
@[simp] theorem updSvc_l2 (s : State) (f : Service → Service) : (updSvc s f).l2 = s.l2 := rfl
@[simp] theorem updSvc_consts (s : State) (f : Service → Service) : (updSvc s f).consts = s.consts := rfl
@[simp] theorem updSvc_codes (s : State) (f : Service → Service) : (updSvc s f).codes = s.codes := rfl
@[simp] theorem updSvc_tlbs (s : State) (f : Service → Service) : (updSvc s f).tlbs = s.tlbs := rfl
@[simp] theorem updSvc_tags (s : State) (f : Service → Service) : (updSvc s f).tags = s.tags := rfl
@[simp] theorem updSvc_epochs (s : State) (f : Service → Service) : (updSvc s f).epochs = s.epochs := rfl
@[simp] theorem updSvc_poison (s : State) (f : Service → Service) : (updSvc s f).poison = s.poison := rfl
@[simp] theorem updSvc_scTicket (s : State) (f : Service → Service) : (updSvc s f).scTicket = s.scTicket := rfl
@[simp] theorem updSvc_queues (s : State) (f : Service → Service) : (updSvc s f).queues = s.queues := rfl
@[simp] theorem updSvc_unserved (s : State) (f : Service → Service) : (updSvc s f).unserved = s.unserved := rfl
@[simp] theorem updSvc_irqstat (s : State) (f : Service → Service) : (updSvc s f).irqstat = s.irqstat := rfl
@[simp] theorem updSvc_irqmask (s : State) (f : Service → Service) : (updSvc s f).irqmask = s.irqmask := rfl
@[simp] theorem updSvc_msix (s : State) (f : Service → Service) : (updSvc s f).msix = s.msix := rfl
@[simp] theorem updSvc_mail (s : State) (f : Service → Service) : (updSvc s f).mail = s.mail := rfl
@[simp] theorem updSvc_hinge (s : State) (f : Service → Service) : (updSvc s f).hinge = s.hinge := rfl
@[simp] theorem updSvc_clusters (s : State) (f : Service → Service) : (updSvc s f).clusters = s.clusters := rfl
@[simp] theorem updSvc_stks (s : State) (f : Service → Service) : (updSvc s f).stks = s.stks := rfl
@[simp] theorem updSvc_thermtrip (s : State) (f : Service → Service) : (updSvc s f).thermtrip = s.thermtrip := rfl
@[simp] theorem updSvc_boot (s : State) (f : Service → Service) : (updSvc s f).boot = s.boot := rfl
@[simp] theorem updSvc_svc (s : State) (f : Service → Service) : (updSvc s f).svc = f s.svc := rfl
@[simp] theorem updSvc_iss (s : State) (f : Service → Service) : (updSvc s f).iss = s.iss := rfl
@[simp] theorem updSvc_who (s : State) (f : Service → Service) : (updSvc s f).who = s.who := rfl
@[simp] theorem updSvc_agenda (s : State) (f : Service → Service) : (updSvc s f).agenda = s.agenda := rfl
@[simp] theorem updSvc_clockMark (s : State) (f : Service → Service) : (updSvc s f).clockMark = s.clockMark := rfl
@[simp] theorem updSvc_nextId (s : State) (f : Service → Service) : (updSvc s f).nextId = s.nextId := rfl
@[simp] theorem updSvc_freeCount (s : State) (f : Service → Service) : (updSvc s f).freeCount = s.freeCount := rfl
@[simp] theorem updSvc_fwPage (s : State) (f : Service → Service) : (updSvc s f).fwPage = s.fwPage := rfl
@[simp] theorem updSvc_badAddr (s : State) (f : Service → Service) : (updSvc s f).badAddr = s.badAddr := rfl

/-! ### updBoot -/

@[simp] theorem updBoot_waves (s : State) (f : Boot → Boot) : (updBoot s f).waves = s.waves := rfl
@[simp] theorem updBoot_teams (s : State) (f : Boot → Boot) : (updBoot s f).teams = s.teams := rfl
@[simp] theorem updBoot_runs (s : State) (f : Boot → Boot) : (updBoot s f).runs = s.runs := rfl
@[simp] theorem updBoot_recs (s : State) (f : Boot → Boot) : (updBoot s f).recs = s.recs := rfl
@[simp] theorem updBoot_engines (s : State) (f : Boot → Boot) : (updBoot s f).engines = s.engines := rfl
@[simp] theorem updBoot_ctxs (s : State) (f : Boot → Boot) : (updBoot s f).ctxs = s.ctxs := rfl
@[simp] theorem updBoot_mem (s : State) (f : Boot → Boot) : (updBoot s f).mem = s.mem := rfl
@[simp] theorem updBoot_hostMem (s : State) (f : Boot → Boot) : (updBoot s f).hostMem = s.hostMem := rfl
@[simp] theorem updBoot_hostAtomics (s : State) (f : Boot → Boot) : (updBoot s f).hostAtomics = s.hostAtomics := rfl
@[simp] theorem updBoot_lstore (s : State) (f : Boot → Boot) : (updBoot s f).lstore = s.lstore := rfl
@[simp] theorem updBoot_wstore (s : State) (f : Boot → Boot) : (updBoot s f).wstore = s.wstore := rfl
@[simp] theorem updBoot_tiles (s : State) (f : Boot → Boot) : (updBoot s f).tiles = s.tiles := rfl
@[simp] theorem updBoot_side (s : State) (f : Boot → Boot) : (updBoot s f).side = s.side := rfl
@[simp] theorem updBoot_cc (s : State) (f : Boot → Boot) : (updBoot s f).cc = s.cc := rfl
@[simp] theorem updBoot_ccLines (s : State) (f : Boot → Boot) : (updBoot s f).ccLines = s.ccLines := rfl
@[simp] theorem updBoot_l2 (s : State) (f : Boot → Boot) : (updBoot s f).l2 = s.l2 := rfl
@[simp] theorem updBoot_consts (s : State) (f : Boot → Boot) : (updBoot s f).consts = s.consts := rfl
@[simp] theorem updBoot_codes (s : State) (f : Boot → Boot) : (updBoot s f).codes = s.codes := rfl
@[simp] theorem updBoot_tlbs (s : State) (f : Boot → Boot) : (updBoot s f).tlbs = s.tlbs := rfl
@[simp] theorem updBoot_tags (s : State) (f : Boot → Boot) : (updBoot s f).tags = s.tags := rfl
@[simp] theorem updBoot_epochs (s : State) (f : Boot → Boot) : (updBoot s f).epochs = s.epochs := rfl
@[simp] theorem updBoot_poison (s : State) (f : Boot → Boot) : (updBoot s f).poison = s.poison := rfl
@[simp] theorem updBoot_scTicket (s : State) (f : Boot → Boot) : (updBoot s f).scTicket = s.scTicket := rfl
@[simp] theorem updBoot_queues (s : State) (f : Boot → Boot) : (updBoot s f).queues = s.queues := rfl
@[simp] theorem updBoot_unserved (s : State) (f : Boot → Boot) : (updBoot s f).unserved = s.unserved := rfl
@[simp] theorem updBoot_irqstat (s : State) (f : Boot → Boot) : (updBoot s f).irqstat = s.irqstat := rfl
@[simp] theorem updBoot_irqmask (s : State) (f : Boot → Boot) : (updBoot s f).irqmask = s.irqmask := rfl
@[simp] theorem updBoot_msix (s : State) (f : Boot → Boot) : (updBoot s f).msix = s.msix := rfl
@[simp] theorem updBoot_mail (s : State) (f : Boot → Boot) : (updBoot s f).mail = s.mail := rfl
@[simp] theorem updBoot_hinge (s : State) (f : Boot → Boot) : (updBoot s f).hinge = s.hinge := rfl
@[simp] theorem updBoot_clusters (s : State) (f : Boot → Boot) : (updBoot s f).clusters = s.clusters := rfl
@[simp] theorem updBoot_stks (s : State) (f : Boot → Boot) : (updBoot s f).stks = s.stks := rfl
@[simp] theorem updBoot_thermtrip (s : State) (f : Boot → Boot) : (updBoot s f).thermtrip = s.thermtrip := rfl
@[simp] theorem updBoot_boot (s : State) (f : Boot → Boot) : (updBoot s f).boot = f s.boot := rfl
@[simp] theorem updBoot_svc (s : State) (f : Boot → Boot) : (updBoot s f).svc = s.svc := rfl
@[simp] theorem updBoot_iss (s : State) (f : Boot → Boot) : (updBoot s f).iss = s.iss := rfl
@[simp] theorem updBoot_who (s : State) (f : Boot → Boot) : (updBoot s f).who = s.who := rfl
@[simp] theorem updBoot_agenda (s : State) (f : Boot → Boot) : (updBoot s f).agenda = s.agenda := rfl
@[simp] theorem updBoot_clockMark (s : State) (f : Boot → Boot) : (updBoot s f).clockMark = s.clockMark := rfl
@[simp] theorem updBoot_nextId (s : State) (f : Boot → Boot) : (updBoot s f).nextId = s.nextId := rfl
@[simp] theorem updBoot_freeCount (s : State) (f : Boot → Boot) : (updBoot s f).freeCount = s.freeCount := rfl
@[simp] theorem updBoot_fwPage (s : State) (f : Boot → Boot) : (updBoot s f).fwPage = s.fwPage := rfl
@[simp] theorem updBoot_badAddr (s : State) (f : Boot → Boot) : (updBoot s f).badAddr = s.badAddr := rfl

end Sys2Proof.Machine
end

