-- ==== Sys2Proof/Laws/Memory.lean ====
section
/-! SUPPORT. Memory at home: what a byte reads after a write, and that every operation over memory keeps the canonical
form. -/

namespace Sys2Proof.Machine

/-- The canonical form concerns the two memories alone. -/
theorem wf_congr {s t : State} (hm : t.mem = s.mem) (hh : t.hostMem = s.hostMem) : Memory.wf t = Memory.wf s := by
  simp [Memory.wf, hm, hh]

/-! ### Bytes at home -/

theorem putHome_wf {s : State} (l : Loc) (bs : List Byte) (h : Memory.wf s = true) : Memory.wf (putHome s l bs) = true := by
  induction bs generalizing s l with
  | nil => exact h
  | cons b r ih =>
    refine ih _ ?_
    simp only [Memory.wf, Bool.and_eq_true] at h ⊢
    split
    · exact ⟨h.1, cellsWrite_wf _ _ h.2⟩
    · exact ⟨cellsWrite_wf _ _ h.1, h.2⟩

/-- A write at home leaves every byte outside its range alone. -/
theorem homeByte_putHome_other (s : State) (l p : Loc) (bs : List Byte)
    (h : p.host ≠ l.host ∨ p.addr < l.addr ∨ l.addr + bs.length ≤ p.addr) :
    homeByte (putHome s l bs) p = homeByte s p := by
  induction bs generalizing s l with
  | nil => rfl
  | cons b r ih =>
    simp only [List.length_cons] at h
    have hr : p.host ≠ l.host ∨ p.addr < l.addr + 1 ∨ l.addr + 1 + r.length ≤ p.addr := by
      rcases h with h | h | h
      · exact .inl h
      · exact .inr (.inl (by omega))
      · exact .inr (.inr (by omega))
    rw [putHome, ih _ _ hr]
    unfold homeByte
    cases hl : l.host <;> cases hp : p.host <;> simp only [hl, hp, Bool.false_eq_true, if_true, if_false]
    · exact cellsRead_write_other _ _ (by simp [hl, hp] at h; omega)
    · exact cellsRead_write_other _ _ (by simp [hl, hp] at h; omega)

/-- The first byte written at home is read back. -/
theorem homeByte_putHome_first (s : State) (l : Loc) (b : Byte) (r : List Byte) :
    homeByte (putHome s l (b :: r)) l = b := by
  rw [putHome, homeByte_putHome_other _ _ _ _ (.inr (.inl (by simp)))]
  unfold homeByte
  cases l.host <;> simp

/-! ### What leaves the memories alone -/

@[simp] theorem homeEvents_mem (s : State) (l : Loc) : (homeEvents s l).mem = s.mem := rfl
@[simp] theorem homeEvents_hostMem (s : State) (l : Loc) : (homeEvents s l).hostMem = s.hostMem := rfl
@[simp] theorem enterEvents_mem (s : State) (w : Nat) (c : CoreNum) (l : Loc) : (enterEvents s w c l).mem = s.mem := rfl
@[simp] theorem enterEvents_hostMem (s : State) (w : Nat) (c : CoreNum) (l : Loc) :
    (enterEvents s w c l).hostMem = s.hostMem := rfl
@[simp] theorem localWrite_mem (s : State) (k : Nat) (bs : List Byte) : (localWrite s k bs).mem = s.mem := rfl
@[simp] theorem localWrite_hostMem (s : State) (k : Nat) (bs : List Byte) : (localWrite s k bs).hostMem = s.hostMem := rfl
@[simp] theorem weightWrite_mem (s : State) (c : CtxNum) (a : Nat) (bs : List Byte) : (weightWrite s c a bs).mem = s.mem := rfl
@[simp] theorem weightWrite_hostMem (s : State) (c : CtxNum) (a : Nat) (bs : List Byte) :
    (weightWrite s c a bs).hostMem = s.hostMem := rfl
@[simp] theorem unpoison_mem (s : State) (l : Loc) (n : Nat) : (unpoison s l n).mem = s.mem := by
  unfold unpoison; split <;> rfl
@[simp] theorem unpoison_hostMem (s : State) (l : Loc) (n : Nat) : (unpoison s l n).hostMem = s.hostMem := by
  unfold unpoison; split <;> rfl
@[simp] theorem touchL2_mem (s : State) (h : Hint) (l : Loc) : (touchL2 s h l).mem = s.mem := by
  unfold touchL2; simp only; split
  · rfl
  · split <;> rfl
@[simp] theorem touchL2_hostMem (s : State) (h : Hint) (l : Loc) : (touchL2 s h l).hostMem = s.hostMem := by
  unfold touchL2; simp only; split
  · rfl
  · split <;> rfl

/-- A fold of steps that keep the form keeps it. -/
theorem foldl_wf {α : Type} {f : State → α → State} (hf : ∀ s a, Memory.wf s = true → Memory.wf (f s a) = true)
    (l : List α) {s : State} (h : Memory.wf s = true) : Memory.wf (l.foldl f s) = true := by
  induction l generalizing s with
  | nil => exact h
  | cons a r ih => exact ih (hf s a h)

/-! ### Every operation keeps the form -/

theorem touchL2_wf {s : State} (h : Hint) (l : Loc) (hs : Memory.wf s = true) : Memory.wf (touchL2 s h l) = true :=
  (wf_congr (touchL2_mem s h l) (touchL2_hostMem s h l)).trans hs

theorem homeWrite_wf {s : State} (l : Loc) (bs : List Byte) (h : Memory.wf s = true) :
    Memory.wf (homeWrite s l bs) = true := by
  refine foldl_wf (fun t k ht => touchL2_wf (s := homeEvents t _) _ _ ht) _ ?_
  exact (wf_congr (unpoison_mem ..) (unpoison_hostMem ..)).trans (putHome_wf l bs h)

theorem physWrite_wf {s : State} (a : Nat) (bs : List Byte) (h : Memory.wf s = true) :
    Memory.wf (physWrite s a bs) = true := by
  unfold physWrite
  split
  · exact homeWrite_wf _ _ h
  · exact h

theorem cleanByte_wf {s : State} (c : CoreNum) (l : Loc) (h : Memory.wf s = true) : Memory.wf (cleanByte s c l) = true := by
  unfold cleanByte
  simp only
  split
  · exact homeWrite_wf (s := s) _ _ h
  · exact h

theorem cleanEach_wf {s : State} (c : CoreNum) (ls : List Loc) (h : Memory.wf s = true) :
    Memory.wf (cleanEach s c ls) = true := by
  induction ls generalizing s with
  | nil => exact h
  | cons l r ih => exact ih (cleanByte_wf c l h)

theorem cleanKeys_wf {s : State} (c : CoreNum) (ls : List Loc) (h : Memory.wf s = true) :
    Memory.wf (cleanKeys s c ls) = true :=
  cleanEach_wf (s := dropCovered s c ls) c ls h

theorem eagerClean_wf {s : State} (c : CoreNum) (h : Memory.wf s = true) : Memory.wf (eagerClean s c) = true :=
  cleanKeys_wf (s := s) c _ h
theorem eagerCleanCtx_wf {s : State} (c : CoreNum) (x : CtxNum) (h : Memory.wf s = true) :
    Memory.wf (eagerCleanCtx s c x) = true :=
  cleanKeys_wf (s := s) c _ h
theorem cleanTagged_wf {s : State} (c : CoreNum) (h : Memory.wf s = true) : Memory.wf (cleanTagged s c) = true :=
  cleanKeys_wf (s := s) c _ h
theorem invalidate_wf {s : State} (c : CoreNum) (h : Memory.wf s = true) : Memory.wf (invalidate s c) = true := h
theorem evictLine_wf {s : State} (c : CoreNum) (host : Bool) (line : BitVec 45) (h : Memory.wf s = true) :
    Memory.wf (evictLine c host line s) = true :=
  cleanKeys_wf (s := s) c _ h

theorem makeRoom_wf {s : State} (c : CoreNum) (line : BitVec 45) (h : Memory.wf s = true) :
    Memory.wf (makeRoom s c line) = true := by
  unfold makeRoom
  simp only
  split
  · split
    · exact h
    · exact evictLine_wf _ _ _ h
  · exact h

theorem touchLine_wf {s : State} (c : CoreNum) (x : CtxNum) (hint : Hint) (l : Loc) (h : Memory.wf s = true) :
    Memory.wf (touchLine s c x hint l) = true := by
  unfold touchLine
  simp only
  split
  · exact h
  · exact makeRoom_wf (s := s) _ _ h

theorem touchRange_wf {s : State} (c : CoreNum) (x : CtxNum) (hint : Hint) (l : Loc) (n : Nat) (h : Memory.wf s = true) :
    Memory.wf (touchRange s c x hint l n) = true :=
  foldl_wf (fun _ _ h => touchLine_wf _ _ _ _ h) _ h

theorem pullWhere_wf {s : State} (r : Option CoreNum) (p : TagPlace → Bool) (h : Memory.wf s = true) :
    Memory.wf (pullWhere s r p) = true :=
  foldl_wf (s := s) (fun _ _ h => cleanKeys_wf _ _ h) _ h
theorem pullTags_wf {s : State} (r : Option CoreNum) (l : Loc) (h : Memory.wf s = true) :
    Memory.wf (pullTags s r l) = true := by
  unfold pullTags; split
  · exact h
  · exact pullWhere_wf _ _ h

theorem dropOldest_wf {s : State} (c : CoreNum) (h : Memory.wf s = true) : Memory.wf (dropOldest s c) = true := by
  unfold dropOldest; split
  · exact h
  · exact cleanKeys_wf (s := s) _ _ h

theorem lazyTag_wf {s : State} (c : CoreNum) (x : CtxNum) (o : Option CtxNum) (p : TagPlace) (h : Memory.wf s = true) :
    Memory.wf (lazyTag s c x o p) = true := by
  unfold lazyTag
  simp only [Memory.wf]
  split
  · exact dropOldest_wf c h
  · exact h

theorem fillSector_wf {s : State} (c : CoreNum) (hint : Hint) (priv : Bool) (l : Loc) (h : Memory.wf s = true) :
    Memory.wf (fillSector s c hint priv l) = true := by
  refine foldl_wf (fun t b ht => ?_) _ (touchL2_wf hint l h)
  split <;> exact ht

theorem cacheByteLoad_wf {s : State} (c : CoreNum) (hint : Hint) (priv : Bool) (l : Loc) (h : Memory.wf s = true) :
    Memory.wf (cacheByteLoad s c hint priv l).2 = true := by
  unfold cacheByteLoad; simp only; split
  · exact h
  · exact fillSector_wf _ _ _ _ h

theorem lineLoad_wf {s : State} (c : CoreNum) (hint : Hint) (priv : Bool) (l : Loc) (n : Nat) (h : Memory.wf s = true) :
    Memory.wf (lineLoad s c hint priv l n).2 = true := by
  induction n generalizing s l with
  | zero => exact h
  | succ n ih => exact ih _ (cacheByteLoad_wf c hint priv l h)

theorem cacheLoad_wf {s : State} (c : CoreNum) (x : CtxNum) (hint : Hint) (priv : Bool) (l : Loc) (n : Nat)
    (h : Memory.wf s = true) : Memory.wf (cacheLoad s c x hint priv l n).2 = true :=
  lineLoad_wf _ _ _ _ _ (touchRange_wf c x hint l n h)

theorem setBytes_wf {s : State} (c : CoreNum) (priv dirty : Bool) (l : Loc) (bs : List Byte) (h : Memory.wf s = true) :
    Memory.wf (setBytes s c priv dirty l bs) = true := by
  induction bs generalizing s l with
  | nil => exact h
  | cons b r ih => exact ih (s := setCcByte s c l _) _ h

theorem cacheStore_wf {s : State} (c : CoreNum) (x : CtxNum) (hint : Hint) (priv : Bool) (l : Loc) (bs : List Byte)
    (h : Memory.wf s = true) : Memory.wf (cacheStore s c x hint priv l bs) = true :=
  setBytes_wf _ _ _ _ _ (touchRange_wf c x hint l _ h)
theorem setClean_wf {s : State} (c : CoreNum) (x : CtxNum) (hint : Hint) (l : Loc) (bs : List Byte)
    (h : Memory.wf s = true) : Memory.wf (setClean s c x hint l bs) = true :=
  setBytes_wf _ _ _ _ _ (touchRange_wf c x hint l _ h)
theorem cleanRange_wf {s : State} (c : CoreNum) (l : Loc) (n : Nat) (h : Memory.wf s = true) :
    Memory.wf (cleanRange s c l n) = true := cleanKeys_wf c _ h

theorem vWrite_wf {s t : State} {w : Nat} {core : CoreNum} {c : CtxNum} {hint : Hint} {va : DWord} {bs : List Byte}
    (hw : vWrite s w core c hint va bs = .ok t) (h : Memory.wf s = true) : Memory.wf t = true := by
  unfold vWrite at hw
  cases ht : translateAt s core c va .write with
  | error e => rw [ht] at hw; cases hw
  | ok l => rw [ht] at hw; cases hw; exact cacheStore_wf _ _ _ _ _ _ h

/-! ### The stores of the clusters -/

theorem localWrite_storesWf {s : State} (k : Nat) (bs : List Byte) (h : storesWf s = true) :
    storesWf (localWrite s k bs) = true := by
  simp only [storesWf, Bool.and_eq_true] at h ⊢
  exact ⟨⟨⟨⟨cellsWriteLE_wf _ _ _ h.1.1.1.1, h.1.1.1.2⟩, h.1.1.2⟩, h.1.2⟩, h.2⟩

theorem weightWrite_storesWf {s : State} (c : CtxNum) (a : Nat) (bs : List Byte) (h : storesWf s = true) :
    storesWf (weightWrite s c a bs) = true := by
  simp only [storesWf, Bool.and_eq_true] at h ⊢
  exact ⟨⟨⟨⟨h.1.1.1.1, cellsWriteLE_wf _ _ _ (cellsWriteLE_wf _ _ _ h.1.1.1.2)⟩, h.1.1.2⟩, h.1.2⟩, h.2⟩

theorem setCcByte_storesWf {s : State} (c : CoreNum) (l : Loc) (b : CacheByte) (h : storesWf s = true) :
    storesWf (setCcByte s c l b) = true := by
  simp only [storesWf, Bool.and_eq_true] at h ⊢
  exact ⟨h.1, cellsWrite_wf _ _ h.2⟩

/-! ### Reset -/

theorem reset_memory_wf : Memory.wf State.reset = true := rfl
theorem reset_stores_wf : storesWf State.reset = true := rfl

end Sys2Proof.Machine
end

