-- ==== Sys2Proof/Laws/Slots.lean ====
section
/-! SUPPORT. The issuing wave: what each update of a wave changes and leaves, finding a wave after a change, and what the
operations every meaning goes through can answer (the checks, HELD, the trap, and the step itself). -/

namespace Sys2Proof.Machine

/-! ### Finding what was set -/

/-- The wave set is found under its identity where one stood there before. -/
theorem findWaveIn_setWaveIn (ws : List Wave) (w : Wave) (id : Nat) :
    findWaveIn (setWaveIn ws w) id = if id = w.id ∧ (findWaveIn ws id).isSome then some w else findWaveIn ws id := by
  induction ws with
  | nil => simp [setWaveIn, findWaveIn]
  | cons v r ih =>
    unfold setWaveIn
    by_cases hv : v.id = w.id
    · rw [if_pos hv]; simp only [findWaveIn]
      by_cases hi : w.id = id <;> simp [hi, hv, Eq.comm (a := id)]
    · rw [if_neg hv]; simp only [findWaveIn]
      by_cases hi : v.id = id
      · subst hi; simp [hv]
      · simp [hi, ih]

@[simp] theorem findWave_setWave_self {s : State} {w v : Wave} (h : findWave s w.id = some v) :
    findWave (setWave s w) w.id = some w := by
  show findWaveIn (setWaveIn s.waves w) w.id = _
  rw [findWaveIn_setWaveIn, if_pos ⟨rfl, by rw [show findWaveIn s.waves w.id = some v from h]; rfl⟩]

theorem findWave_setWave_other {s : State} {w : Wave} {id : Nat} (h : id ≠ w.id) :
    findWave (setWave s w) id = findWave s id := by
  show findWaveIn (setWaveIn s.waves w) id = _
  rw [findWaveIn_setWaveIn, if_neg (fun c => h c.1)]; rfl

/-- The wave found has the identity asked for. -/
theorem findWaveIn_id {ws : List Wave} {id : Nat} {w : Wave} (h : findWaveIn ws id = some w) : w.id = id := by
  induction ws with
  | nil => simp [findWaveIn] at h
  | cons v r ih =>
    unfold findWaveIn at h
    split at h
    · cases h; assumption
    · exact ih h
theorem findWave_id {s : State} {id : Nat} {w : Wave} (h : findWave s id = some w) : w.id = id := findWaveIn_id h

/-- A change of the wave of an identity is found there, if it keeps the identity. -/
theorem findWave_updWave_self {s : State} {id : Nat} {w : Wave} {f : Wave → Wave} (h : findWave s id = some w)
    (hf : (f w).id = w.id) : findWave (updWave s id f) id = some (f w) := by
  have hw : (f w).id = id := hf.trans (findWave_id h)
  unfold updWave; rw [h]
  have := findWave_setWave_self (s := s) (w := f w) (v := w) (by rw [hw]; exact h)
  rwa [hw] at this
theorem findWave_updWave_other {s : State} {a b : Nat} {f : Wave → Wave} (h : b ≠ a)
    (hf : ∀ w, findWave s a = some w → (f w).id = w.id) : findWave (updWave s a f) b = findWave s b := by
  unfold updWave
  split
  · rename_i w hw
    exact findWave_setWave_other (by rw [hf w hw, findWave_id hw]; exact h)
  · rfl
/-- A change of the issuing wave, where the wave is there. -/
theorem updCur_eq {s : State} {v : Wave} (f : Wave → Wave) (h : findWave s s.iss.wave = some v) :
    updCur s f = setWave s (f v) := by
  unfold updCur updWave; rw [h]

/-! ### Contexts, stacks, clusters, engines and queues after a change -/

theorem getCtx_setCtx_self {s : State} {c : CtxNum} (x : Ctx) (h : c.toNat < s.ctxs.length) : getCtx (setCtx s c x) c = x := by
  simp [getCtx, setCtx, h]
theorem getCtx_setCtx_other (s : State) {c d : CtxNum} (x : Ctx) (h : d ≠ c) : getCtx (setCtx s c x) d = getCtx s d := by
  have : c.toNat ≠ d.toNat := fun e => h (BitVec.eq_of_toNat_eq e.symm)
  simp [getCtx, setCtx, List.getElem?_set_ne this]
theorem getCtx_updCtx_self {s : State} {c : CtxNum} (f : Ctx → Ctx) (h : c.toNat < s.ctxs.length) :
    getCtx (updCtx s c f) c = f (getCtx s c) := getCtx_setCtx_self _ h
theorem getCtx_updCtx_other (s : State) {c d : CtxNum} (f : Ctx → Ctx) (h : d ≠ c) : getCtx (updCtx s c f) d = getCtx s d :=
  getCtx_setCtx_other s _ h
theorem getStack_updStack_self {s : State} {k : StackNum} (f : Stack → Stack) (h : k.toNat < s.stks.length) :
    getStack (updStack s k f) k = f (getStack s k) := by
  simp [getStack, updStack, h]
theorem getStack_updStack_other (s : State) {k j : StackNum} (f : Stack → Stack) (h : j ≠ k) : getStack (updStack s k f) j = getStack s j := by
  have : k.toNat ≠ j.toNat := fun e => h (BitVec.eq_of_toNat_eq e.symm)
  simp [getStack, updStack, List.getElem?_set_ne this]
theorem getCluster_updCluster_self {s : State} {k : ClusterNum} (f : Cluster → Cluster) (h : k.toNat < s.clusters.length) :
    getCluster (updCluster s k f) k = f (getCluster s k) := by
  simp [getCluster, updCluster, h]
theorem getCluster_updCluster_other (s : State) {k j : ClusterNum} (f : Cluster → Cluster) (h : j ≠ k) : getCluster (updCluster s k f) j = getCluster s j := by
  have : k.toNat ≠ j.toNat := fun e => h (BitVec.eq_of_toNat_eq e.symm)
  simp [getCluster, updCluster, List.getElem?_set_ne this]
theorem getEngine_updEngine_self {s : State} {k : ClusterNum} (f : Engine → Engine) (h : k.toNat < s.engines.length) :
    getEngine (updEngine s k f) k = f (getEngine s k) := by
  simp [getEngine, updEngine, h]
theorem getEngine_updEngine_other (s : State) {k j : ClusterNum} (f : Engine → Engine) (h : j ≠ k) : getEngine (updEngine s k f) j = getEngine s j := by
  have : k.toNat ≠ j.toNat := fun e => h (BitVec.eq_of_toNat_eq e.symm)
  simp [getEngine, updEngine, List.getElem?_set_ne this]
theorem getQueue_updQueue_self {s : State} {k : QueueNum} (f : Queue → Queue) (h : k.toNat < s.queues.length) :
    getQueue (updQueue s k f) k = f (getQueue s k) := by
  simp [getQueue, updQueue, h]
theorem getQueue_updQueue_other (s : State) {k j : QueueNum} (f : Queue → Queue) (h : j ≠ k) : getQueue (updQueue s k f) j = getQueue s j := by
  have : k.toNat ≠ j.toNat := fun e => h (BitVec.eq_of_toNat_eq e.symm)
  simp [getQueue, updQueue, List.getElem?_set_ne this]

/-! ### Updates of a wave -/

@[simp] theorem getSlot_setSlot_self (w : Wave) (k : PcSlot) (x : SlotState) : getSlot (setSlot w k x) k = x := by
  cases k <;> rfl
@[simp] theorem getSlot_setSlot_other (w : Wave) (k : PcSlot) (x : SlotState) :
    getSlot (setSlot w k x) (otherSlot k) = getSlot w (otherSlot k) := by
  cases k <;> rfl
@[simp] theorem setSlot_id (w : Wave) (k : PcSlot) (x : SlotState) : (setSlot w k x).id = w.id := by cases k <;> rfl
@[simp] theorem setSlot_team (w : Wave) (k : PcSlot) (x : SlotState) : (setSlot w k x).team = w.team := by cases k <;> rfl
@[simp] theorem setSlot_num (w : Wave) (k : PcSlot) (x : SlotState) : (setSlot w k x).num = w.num := by cases k <;> rfl
@[simp] theorem setSlot_core (w : Wave) (k : PcSlot) (x : SlotState) : (setSlot w k x).core = w.core := by cases k <;> rfl
@[simp] theorem setSlot_part (w : Wave) (k : PcSlot) (x : SlotState) : (setSlot w k x).part = w.part := by cases k <;> rfl
@[simp] theorem setSlot_wslot (w : Wave) (k : PcSlot) (x : SlotState) : (setSlot w k x).wslot = w.wslot := by cases k <;> rfl
@[simp] theorem setSlot_status (w : Wave) (k : PcSlot) (x : SlotState) : (setSlot w k x).status = w.status := by cases k <;> rfl
@[simp] theorem setSlot_vr (w : Wave) (k : PcSlot) (x : SlotState) : (setSlot w k x).vr = w.vr := by cases k <;> rfl
@[simp] theorem setSlot_sr (w : Wave) (k : PcSlot) (x : SlotState) : (setSlot w k x).sr = w.sr := by cases k <;> rfl
@[simp] theorem setSlot_pr (w : Wave) (k : PcSlot) (x : SlotState) : (setSlot w k x).pr = w.pr := by cases k <;> rfl
@[simp] theorem setSlot_ix (w : Wave) (k : PcSlot) (x : SlotState) : (setSlot w k x).ix = w.ix := by cases k <;> rfl
@[simp] theorem setSlot_cur (w : Wave) (k : PcSlot) (x : SlotState) : (setSlot w k x).cur = w.cur := by cases k <;> rfl
@[simp] theorem setSlot_fair (w : Wave) (k : PcSlot) (x : SlotState) : (setSlot w k x).fair = w.fair := by cases k <;> rfl
@[simp] theorem setSlot_stack (w : Wave) (k : PcSlot) (x : SlotState) : (setSlot w k x).stack = w.stack := by cases k <;> rfl
@[simp] theorem setSlot_flags (w : Wave) (k : PcSlot) (x : SlotState) : (setSlot w k x).flags = w.flags := by cases k <;> rfl
@[simp] theorem setSlot_cntCopy (w : Wave) (k : PcSlot) (x : SlotState) : (setSlot w k x).cntCopy = w.cntCopy := by cases k <;> rfl
@[simp] theorem setSlot_cntMatrix (w : Wave) (k : PcSlot) (x : SlotState) : (setSlot w k x).cntMatrix = w.cntMatrix := by cases k <;> rfl
@[simp] theorem setSlot_cntNet (w : Wave) (k : PcSlot) (x : SlotState) : (setSlot w k x).cntNet = w.cntNet := by cases k <;> rfl
@[simp] theorem setSlot_cntTest (w : Wave) (k : PcSlot) (x : SlotState) : (setSlot w k x).cntTest = w.cntTest := by cases k <;> rfl
@[simp] theorem setSlot_allot (w : Wave) (k : PcSlot) (x : SlotState) : (setSlot w k x).allot = w.allot := by cases k <;> rfl
@[simp] theorem setSlot_tlane (w : Wave) (k : PcSlot) (x : SlotState) : (setSlot w k x).tlane = w.tlane := by cases k <;> rfl
@[simp] theorem setSlot_recix (w : Wave) (k : PcSlot) (x : SlotState) : (setSlot w k x).recix = w.recix := by cases k <;> rfl
@[simp] theorem setSlot_everLive (w : Wave) (k : PcSlot) (x : SlotState) : (setSlot w k x).everLive = w.everLive := by cases k <;> rfl
@[simp] theorem setSlot_fpx (w : Wave) (k : PcSlot) (x : SlotState) : (setSlot w k x).fpx = w.fpx := by cases k <;> rfl
@[simp] theorem setSlot_quad (w : Wave) (k : PcSlot) (x : SlotState) : (setSlot w k x).quad = w.quad := by cases k <;> rfl
@[simp] theorem setSlot_nerr (w : Wave) (k : PcSlot) (x : SlotState) : (setSlot w k x).nerr = w.nerr := by cases k <;> rfl
@[simp] theorem setSlot_helper (w : Wave) (k : PcSlot) (x : SlotState) : (setSlot w k x).helper = w.helper := by cases k <;> rfl
@[simp] theorem setSlot_tsbase (w : Wave) (k : PcSlot) (x : SlotState) : (setSlot w k x).tsbase = w.tsbase := by cases k <;> rfl
@[simp] theorem setSlot_tstk (w : Wave) (k : PcSlot) (x : SlotState) : (setSlot w k x).tstk = w.tstk := by cases k <;> rfl
@[simp] theorem setSlot_tdepth (w : Wave) (k : PcSlot) (x : SlotState) : (setSlot w k x).tdepth = w.tdepth := by cases k <;> rfl
@[simp] theorem setSlot_resv (w : Wave) (k : PcSlot) (x : SlotState) : (setSlot w k x).resv = w.resv := by cases k <;> rfl
@[simp] theorem setSlot_awaited (w : Wave) (k : PcSlot) (x : SlotState) : (setSlot w k x).awaited = w.awaited := by cases k <;> rfl
@[simp] theorem setSlot_arrived (w : Wave) (k : PcSlot) (x : SlotState) : (setSlot w k x).arrived = w.arrived := by cases k <;> rfl
@[simp] theorem setSlot_pendingBit (w : Wave) (k : PcSlot) (x : SlotState) : (setSlot w k x).pendingBit = w.pendingBit := by cases k <;> rfl
@[simp] theorem setSlot_mparts (w : Wave) (k : PcSlot) (x : SlotState) : (setSlot w k x).mparts = w.mparts := by cases k <;> rfl
@[simp] theorem setSlot_spin (w : Wave) (k : PcSlot) (x : SlotState) : (setSlot w k x).spin = w.spin := by cases k <;> rfl
@[simp] theorem setSlot_backMark (w : Wave) (k : PcSlot) (x : SlotState) : (setSlot w k x).backMark = w.backMark := by cases k <;> rfl
@[simp] theorem setSlot_age (w : Wave) (k : PcSlot) (x : SlotState) : (setSlot w k x).age = w.age := by cases k <;> rfl
@[simp] theorem setSlot_opSeq (w : Wave) (k : PcSlot) (x : SlotState) : (setSlot w k x).opSeq = w.opSeq := by cases k <;> rfl
@[simp] theorem setSlot_pend (w : Wave) (k : PcSlot) (x : SlotState) : (setSlot w k x).pend = w.pend := by cases k <;> rfl
@[simp] theorem setSlot_sq (w : Wave) (k : PcSlot) (x : SlotState) : (setSlot w k x).sq = w.sq := by cases k <;> rfl
@[simp] theorem setSlot_tests (w : Wave) (k : PcSlot) (x : SlotState) : (setSlot w k x).tests = w.tests := by cases k <;> rfl
@[simp] theorem setSlot_nets (w : Wave) (k : PcSlot) (x : SlotState) : (setSlot w k x).nets = w.nets := by cases k <;> rfl
@[simp] theorem setSlot_bfaults (w : Wave) (k : PcSlot) (x : SlotState) : (setSlot w k x).bfaults = w.bfaults := by cases k <;> rfl
@[simp] theorem setSlot_laterFaults (w : Wave) (k : PcSlot) (x : SlotState) : (setSlot w k x).laterFaults = w.laterFaults := by cases k <;> rfl
@[simp] theorem setSlot_latch (w : Wave) (k : PcSlot) (x : SlotState) : (setSlot w k x).latch = w.latch := by cases k <;> rfl
@[simp] theorem setSlot_lastIssue (w : Wave) (k : PcSlot) (x : SlotState) : (setSlot w k x).lastIssue = w.lastIssue := by cases k <;> rfl
@[simp] theorem setSlot_yieldUntil (w : Wave) (k : PcSlot) (x : SlotState) : (setSlot w k x).yieldUntil = w.yieldUntil := by cases k <;> rfl
@[simp] theorem setSlot_candSince (w : Wave) (k : PcSlot) (x : SlotState) : (setSlot w k x).candSince = w.candSince := by cases k <;> rfl
@[simp] theorem setSlot_dearSince (w : Wave) (k : PcSlot) (x : SlotState) : (setSlot w k x).dearSince = w.dearSince := by cases k <;> rfl
@[simp] theorem setSlot_starving (w : Wave) (k : PcSlot) (x : SlotState) : (setSlot w k x).starving = w.starving := by cases k <;> rfl
@[simp] theorem setSlot_heldA (w : Wave) (k : PcSlot) (x : SlotState) : (setSlot w k x).heldA = w.heldA := by cases k <;> rfl
@[simp] theorem setSlot_heldB (w : Wave) (k : PcSlot) (x : SlotState) : (setSlot w k x).heldB = w.heldB := by cases k <;> rfl
@[simp] theorem setSlot_growA (w : Wave) (k : PcSlot) (x : SlotState) : (setSlot w k x).growA = w.growA := by cases k <;> rfl
@[simp] theorem setSlot_growB (w : Wave) (k : PcSlot) (x : SlotState) : (setSlot w k x).growB = w.growB := by cases k <;> rfl
@[simp] theorem setSlot_frame (w : Wave) (k : PcSlot) (x : SlotState) : (setSlot w k x).frame = w.frame := by cases k <;> rfl
@[simp] theorem setSlot_frameWait (w : Wave) (k : PcSlot) (x : SlotState) : (setSlot w k x).frameWait = w.frameWait := by cases k <;> rfl
@[simp] theorem setSlot_replayOps (w : Wave) (k : PcSlot) (x : SlotState) : (setSlot w k x).replayOps = w.replayOps := by cases k <;> rfl
@[simp] theorem setSlot_trapSeq (w : Wave) (k : PcSlot) (x : SlotState) : (setSlot w k x).trapSeq = w.trapSeq := by cases k <;> rfl
@[simp] theorem setSlot_saveA (w : Wave) (k : PcSlot) (x : SlotState) : (setSlot w k x).saveA = w.saveA := by cases k <;> rfl
@[simp] theorem setSlot_saveB (w : Wave) (k : PcSlot) (x : SlotState) : (setSlot w k x).saveB = w.saveB := by cases k <;> rfl
@[simp] theorem setSlot_parityRetry (w : Wave) (k : PcSlot) (x : SlotState) : (setSlot w k x).parityRetry = w.parityRetry := by cases k <;> rfl

@[simp] theorem writeS_id (n : Nat) (x : Word) (w : Wave) : (writeS n x w).id = w.id := rfl
@[simp] theorem writeS_team (n : Nat) (x : Word) (w : Wave) : (writeS n x w).team = w.team := rfl
@[simp] theorem writeS_num (n : Nat) (x : Word) (w : Wave) : (writeS n x w).num = w.num := rfl
@[simp] theorem writeS_core (n : Nat) (x : Word) (w : Wave) : (writeS n x w).core = w.core := rfl
@[simp] theorem writeS_part (n : Nat) (x : Word) (w : Wave) : (writeS n x w).part = w.part := rfl
@[simp] theorem writeS_wslot (n : Nat) (x : Word) (w : Wave) : (writeS n x w).wslot = w.wslot := rfl
@[simp] theorem writeS_status (n : Nat) (x : Word) (w : Wave) : (writeS n x w).status = w.status := rfl
@[simp] theorem writeS_vr (n : Nat) (x : Word) (w : Wave) : (writeS n x w).vr = w.vr := rfl
@[simp] theorem writeS_pr (n : Nat) (x : Word) (w : Wave) : (writeS n x w).pr = w.pr := rfl
@[simp] theorem writeS_ix (n : Nat) (x : Word) (w : Wave) : (writeS n x w).ix = w.ix := rfl
@[simp] theorem writeS_slotA (n : Nat) (x : Word) (w : Wave) : (writeS n x w).slotA = w.slotA := rfl
@[simp] theorem writeS_slotB (n : Nat) (x : Word) (w : Wave) : (writeS n x w).slotB = w.slotB := rfl
@[simp] theorem writeS_cur (n : Nat) (x : Word) (w : Wave) : (writeS n x w).cur = w.cur := rfl
@[simp] theorem writeS_fair (n : Nat) (x : Word) (w : Wave) : (writeS n x w).fair = w.fair := rfl
@[simp] theorem writeS_stack (n : Nat) (x : Word) (w : Wave) : (writeS n x w).stack = w.stack := rfl
@[simp] theorem writeS_flags (n : Nat) (x : Word) (w : Wave) : (writeS n x w).flags = w.flags := rfl
@[simp] theorem writeS_cntCopy (n : Nat) (x : Word) (w : Wave) : (writeS n x w).cntCopy = w.cntCopy := rfl
@[simp] theorem writeS_cntMatrix (n : Nat) (x : Word) (w : Wave) : (writeS n x w).cntMatrix = w.cntMatrix := rfl
@[simp] theorem writeS_cntNet (n : Nat) (x : Word) (w : Wave) : (writeS n x w).cntNet = w.cntNet := rfl
@[simp] theorem writeS_cntTest (n : Nat) (x : Word) (w : Wave) : (writeS n x w).cntTest = w.cntTest := rfl
@[simp] theorem writeS_allot (n : Nat) (x : Word) (w : Wave) : (writeS n x w).allot = w.allot := rfl
@[simp] theorem writeS_tlane (n : Nat) (x : Word) (w : Wave) : (writeS n x w).tlane = w.tlane := rfl
@[simp] theorem writeS_recix (n : Nat) (x : Word) (w : Wave) : (writeS n x w).recix = w.recix := rfl
@[simp] theorem writeS_everLive (n : Nat) (x : Word) (w : Wave) : (writeS n x w).everLive = w.everLive := rfl
@[simp] theorem writeS_fpx (n : Nat) (x : Word) (w : Wave) : (writeS n x w).fpx = w.fpx := rfl
@[simp] theorem writeS_quad (n : Nat) (x : Word) (w : Wave) : (writeS n x w).quad = w.quad := rfl
@[simp] theorem writeS_nerr (n : Nat) (x : Word) (w : Wave) : (writeS n x w).nerr = w.nerr := rfl
@[simp] theorem writeS_helper (n : Nat) (x : Word) (w : Wave) : (writeS n x w).helper = w.helper := rfl
@[simp] theorem writeS_tsbase (n : Nat) (x : Word) (w : Wave) : (writeS n x w).tsbase = w.tsbase := rfl
@[simp] theorem writeS_tstk (n : Nat) (x : Word) (w : Wave) : (writeS n x w).tstk = w.tstk := rfl
@[simp] theorem writeS_tdepth (n : Nat) (x : Word) (w : Wave) : (writeS n x w).tdepth = w.tdepth := rfl
@[simp] theorem writeS_resv (n : Nat) (x : Word) (w : Wave) : (writeS n x w).resv = w.resv := rfl
@[simp] theorem writeS_awaited (n : Nat) (x : Word) (w : Wave) : (writeS n x w).awaited = w.awaited := rfl
@[simp] theorem writeS_arrived (n : Nat) (x : Word) (w : Wave) : (writeS n x w).arrived = w.arrived := rfl
@[simp] theorem writeS_pendingBit (n : Nat) (x : Word) (w : Wave) : (writeS n x w).pendingBit = w.pendingBit := rfl
@[simp] theorem writeS_mparts (n : Nat) (x : Word) (w : Wave) : (writeS n x w).mparts = w.mparts := rfl
@[simp] theorem writeS_spin (n : Nat) (x : Word) (w : Wave) : (writeS n x w).spin = w.spin := rfl
@[simp] theorem writeS_backMark (n : Nat) (x : Word) (w : Wave) : (writeS n x w).backMark = w.backMark := rfl
@[simp] theorem writeS_age (n : Nat) (x : Word) (w : Wave) : (writeS n x w).age = w.age := rfl
@[simp] theorem writeS_opSeq (n : Nat) (x : Word) (w : Wave) : (writeS n x w).opSeq = w.opSeq := rfl
@[simp] theorem writeS_pend (n : Nat) (x : Word) (w : Wave) : (writeS n x w).pend = w.pend := rfl
@[simp] theorem writeS_sq (n : Nat) (x : Word) (w : Wave) : (writeS n x w).sq = w.sq := rfl
@[simp] theorem writeS_tests (n : Nat) (x : Word) (w : Wave) : (writeS n x w).tests = w.tests := rfl
@[simp] theorem writeS_nets (n : Nat) (x : Word) (w : Wave) : (writeS n x w).nets = w.nets := rfl
@[simp] theorem writeS_bfaults (n : Nat) (x : Word) (w : Wave) : (writeS n x w).bfaults = w.bfaults := rfl
@[simp] theorem writeS_laterFaults (n : Nat) (x : Word) (w : Wave) : (writeS n x w).laterFaults = w.laterFaults := rfl
@[simp] theorem writeS_latch (n : Nat) (x : Word) (w : Wave) : (writeS n x w).latch = w.latch := rfl
@[simp] theorem writeS_lastIssue (n : Nat) (x : Word) (w : Wave) : (writeS n x w).lastIssue = w.lastIssue := rfl
@[simp] theorem writeS_yieldUntil (n : Nat) (x : Word) (w : Wave) : (writeS n x w).yieldUntil = w.yieldUntil := rfl
@[simp] theorem writeS_candSince (n : Nat) (x : Word) (w : Wave) : (writeS n x w).candSince = w.candSince := rfl
@[simp] theorem writeS_dearSince (n : Nat) (x : Word) (w : Wave) : (writeS n x w).dearSince = w.dearSince := rfl
@[simp] theorem writeS_starving (n : Nat) (x : Word) (w : Wave) : (writeS n x w).starving = w.starving := rfl
@[simp] theorem writeS_heldA (n : Nat) (x : Word) (w : Wave) : (writeS n x w).heldA = w.heldA := rfl
@[simp] theorem writeS_heldB (n : Nat) (x : Word) (w : Wave) : (writeS n x w).heldB = w.heldB := rfl
@[simp] theorem writeS_growA (n : Nat) (x : Word) (w : Wave) : (writeS n x w).growA = w.growA := rfl
@[simp] theorem writeS_growB (n : Nat) (x : Word) (w : Wave) : (writeS n x w).growB = w.growB := rfl
@[simp] theorem writeS_frame (n : Nat) (x : Word) (w : Wave) : (writeS n x w).frame = w.frame := rfl
@[simp] theorem writeS_frameWait (n : Nat) (x : Word) (w : Wave) : (writeS n x w).frameWait = w.frameWait := rfl
@[simp] theorem writeS_replayOps (n : Nat) (x : Word) (w : Wave) : (writeS n x w).replayOps = w.replayOps := rfl
@[simp] theorem writeS_trapSeq (n : Nat) (x : Word) (w : Wave) : (writeS n x w).trapSeq = w.trapSeq := rfl
@[simp] theorem writeS_saveA (n : Nat) (x : Word) (w : Wave) : (writeS n x w).saveA = w.saveA := rfl
@[simp] theorem writeS_saveB (n : Nat) (x : Word) (w : Wave) : (writeS n x w).saveB = w.saveB := rfl
@[simp] theorem writeS_parityRetry (n : Nat) (x : Word) (w : Wave) : (writeS n x w).parityRetry = w.parityRetry := rfl

@[simp] theorem writeSP_id (n : Nat) (x : DWord) (w : Wave) : (writeSP n x w).id = w.id := rfl
@[simp] theorem writeSP_team (n : Nat) (x : DWord) (w : Wave) : (writeSP n x w).team = w.team := rfl
@[simp] theorem writeSP_num (n : Nat) (x : DWord) (w : Wave) : (writeSP n x w).num = w.num := rfl
@[simp] theorem writeSP_core (n : Nat) (x : DWord) (w : Wave) : (writeSP n x w).core = w.core := rfl
@[simp] theorem writeSP_part (n : Nat) (x : DWord) (w : Wave) : (writeSP n x w).part = w.part := rfl
@[simp] theorem writeSP_wslot (n : Nat) (x : DWord) (w : Wave) : (writeSP n x w).wslot = w.wslot := rfl
@[simp] theorem writeSP_status (n : Nat) (x : DWord) (w : Wave) : (writeSP n x w).status = w.status := rfl
@[simp] theorem writeSP_vr (n : Nat) (x : DWord) (w : Wave) : (writeSP n x w).vr = w.vr := rfl
@[simp] theorem writeSP_pr (n : Nat) (x : DWord) (w : Wave) : (writeSP n x w).pr = w.pr := rfl
@[simp] theorem writeSP_ix (n : Nat) (x : DWord) (w : Wave) : (writeSP n x w).ix = w.ix := rfl
@[simp] theorem writeSP_slotA (n : Nat) (x : DWord) (w : Wave) : (writeSP n x w).slotA = w.slotA := rfl
@[simp] theorem writeSP_slotB (n : Nat) (x : DWord) (w : Wave) : (writeSP n x w).slotB = w.slotB := rfl
@[simp] theorem writeSP_cur (n : Nat) (x : DWord) (w : Wave) : (writeSP n x w).cur = w.cur := rfl
@[simp] theorem writeSP_fair (n : Nat) (x : DWord) (w : Wave) : (writeSP n x w).fair = w.fair := rfl
@[simp] theorem writeSP_stack (n : Nat) (x : DWord) (w : Wave) : (writeSP n x w).stack = w.stack := rfl
@[simp] theorem writeSP_flags (n : Nat) (x : DWord) (w : Wave) : (writeSP n x w).flags = w.flags := rfl
@[simp] theorem writeSP_cntCopy (n : Nat) (x : DWord) (w : Wave) : (writeSP n x w).cntCopy = w.cntCopy := rfl
@[simp] theorem writeSP_cntMatrix (n : Nat) (x : DWord) (w : Wave) : (writeSP n x w).cntMatrix = w.cntMatrix := rfl
@[simp] theorem writeSP_cntNet (n : Nat) (x : DWord) (w : Wave) : (writeSP n x w).cntNet = w.cntNet := rfl
@[simp] theorem writeSP_cntTest (n : Nat) (x : DWord) (w : Wave) : (writeSP n x w).cntTest = w.cntTest := rfl
@[simp] theorem writeSP_allot (n : Nat) (x : DWord) (w : Wave) : (writeSP n x w).allot = w.allot := rfl
@[simp] theorem writeSP_tlane (n : Nat) (x : DWord) (w : Wave) : (writeSP n x w).tlane = w.tlane := rfl
@[simp] theorem writeSP_recix (n : Nat) (x : DWord) (w : Wave) : (writeSP n x w).recix = w.recix := rfl
@[simp] theorem writeSP_everLive (n : Nat) (x : DWord) (w : Wave) : (writeSP n x w).everLive = w.everLive := rfl
@[simp] theorem writeSP_fpx (n : Nat) (x : DWord) (w : Wave) : (writeSP n x w).fpx = w.fpx := rfl
@[simp] theorem writeSP_quad (n : Nat) (x : DWord) (w : Wave) : (writeSP n x w).quad = w.quad := rfl
@[simp] theorem writeSP_nerr (n : Nat) (x : DWord) (w : Wave) : (writeSP n x w).nerr = w.nerr := rfl
@[simp] theorem writeSP_helper (n : Nat) (x : DWord) (w : Wave) : (writeSP n x w).helper = w.helper := rfl
@[simp] theorem writeSP_tsbase (n : Nat) (x : DWord) (w : Wave) : (writeSP n x w).tsbase = w.tsbase := rfl
@[simp] theorem writeSP_tstk (n : Nat) (x : DWord) (w : Wave) : (writeSP n x w).tstk = w.tstk := rfl
@[simp] theorem writeSP_tdepth (n : Nat) (x : DWord) (w : Wave) : (writeSP n x w).tdepth = w.tdepth := rfl
@[simp] theorem writeSP_resv (n : Nat) (x : DWord) (w : Wave) : (writeSP n x w).resv = w.resv := rfl
@[simp] theorem writeSP_awaited (n : Nat) (x : DWord) (w : Wave) : (writeSP n x w).awaited = w.awaited := rfl
@[simp] theorem writeSP_arrived (n : Nat) (x : DWord) (w : Wave) : (writeSP n x w).arrived = w.arrived := rfl
@[simp] theorem writeSP_pendingBit (n : Nat) (x : DWord) (w : Wave) : (writeSP n x w).pendingBit = w.pendingBit := rfl
@[simp] theorem writeSP_mparts (n : Nat) (x : DWord) (w : Wave) : (writeSP n x w).mparts = w.mparts := rfl
@[simp] theorem writeSP_spin (n : Nat) (x : DWord) (w : Wave) : (writeSP n x w).spin = w.spin := rfl
@[simp] theorem writeSP_backMark (n : Nat) (x : DWord) (w : Wave) : (writeSP n x w).backMark = w.backMark := rfl
@[simp] theorem writeSP_age (n : Nat) (x : DWord) (w : Wave) : (writeSP n x w).age = w.age := rfl
@[simp] theorem writeSP_opSeq (n : Nat) (x : DWord) (w : Wave) : (writeSP n x w).opSeq = w.opSeq := rfl
@[simp] theorem writeSP_pend (n : Nat) (x : DWord) (w : Wave) : (writeSP n x w).pend = w.pend := rfl
@[simp] theorem writeSP_sq (n : Nat) (x : DWord) (w : Wave) : (writeSP n x w).sq = w.sq := rfl
@[simp] theorem writeSP_tests (n : Nat) (x : DWord) (w : Wave) : (writeSP n x w).tests = w.tests := rfl
@[simp] theorem writeSP_nets (n : Nat) (x : DWord) (w : Wave) : (writeSP n x w).nets = w.nets := rfl
@[simp] theorem writeSP_bfaults (n : Nat) (x : DWord) (w : Wave) : (writeSP n x w).bfaults = w.bfaults := rfl
@[simp] theorem writeSP_laterFaults (n : Nat) (x : DWord) (w : Wave) : (writeSP n x w).laterFaults = w.laterFaults := rfl
@[simp] theorem writeSP_latch (n : Nat) (x : DWord) (w : Wave) : (writeSP n x w).latch = w.latch := rfl
@[simp] theorem writeSP_lastIssue (n : Nat) (x : DWord) (w : Wave) : (writeSP n x w).lastIssue = w.lastIssue := rfl
@[simp] theorem writeSP_yieldUntil (n : Nat) (x : DWord) (w : Wave) : (writeSP n x w).yieldUntil = w.yieldUntil := rfl
@[simp] theorem writeSP_candSince (n : Nat) (x : DWord) (w : Wave) : (writeSP n x w).candSince = w.candSince := rfl
@[simp] theorem writeSP_dearSince (n : Nat) (x : DWord) (w : Wave) : (writeSP n x w).dearSince = w.dearSince := rfl
@[simp] theorem writeSP_starving (n : Nat) (x : DWord) (w : Wave) : (writeSP n x w).starving = w.starving := rfl
@[simp] theorem writeSP_heldA (n : Nat) (x : DWord) (w : Wave) : (writeSP n x w).heldA = w.heldA := rfl
@[simp] theorem writeSP_heldB (n : Nat) (x : DWord) (w : Wave) : (writeSP n x w).heldB = w.heldB := rfl
@[simp] theorem writeSP_growA (n : Nat) (x : DWord) (w : Wave) : (writeSP n x w).growA = w.growA := rfl
@[simp] theorem writeSP_growB (n : Nat) (x : DWord) (w : Wave) : (writeSP n x w).growB = w.growB := rfl
@[simp] theorem writeSP_frame (n : Nat) (x : DWord) (w : Wave) : (writeSP n x w).frame = w.frame := rfl
@[simp] theorem writeSP_frameWait (n : Nat) (x : DWord) (w : Wave) : (writeSP n x w).frameWait = w.frameWait := rfl
@[simp] theorem writeSP_replayOps (n : Nat) (x : DWord) (w : Wave) : (writeSP n x w).replayOps = w.replayOps := rfl
@[simp] theorem writeSP_trapSeq (n : Nat) (x : DWord) (w : Wave) : (writeSP n x w).trapSeq = w.trapSeq := rfl
@[simp] theorem writeSP_saveA (n : Nat) (x : DWord) (w : Wave) : (writeSP n x w).saveA = w.saveA := rfl
@[simp] theorem writeSP_saveB (n : Nat) (x : DWord) (w : Wave) : (writeSP n x w).saveB = w.saveB := rfl
@[simp] theorem writeSP_parityRetry (n : Nat) (x : DWord) (w : Wave) : (writeSP n x w).parityRetry = w.parityRetry := rfl

@[simp] theorem writePred_id (n : Nat) (m x : Mask) (w : Wave) : (writePred n m x w).id = w.id := rfl
@[simp] theorem writePred_team (n : Nat) (m x : Mask) (w : Wave) : (writePred n m x w).team = w.team := rfl
@[simp] theorem writePred_num (n : Nat) (m x : Mask) (w : Wave) : (writePred n m x w).num = w.num := rfl
@[simp] theorem writePred_core (n : Nat) (m x : Mask) (w : Wave) : (writePred n m x w).core = w.core := rfl
@[simp] theorem writePred_part (n : Nat) (m x : Mask) (w : Wave) : (writePred n m x w).part = w.part := rfl
@[simp] theorem writePred_wslot (n : Nat) (m x : Mask) (w : Wave) : (writePred n m x w).wslot = w.wslot := rfl
@[simp] theorem writePred_status (n : Nat) (m x : Mask) (w : Wave) : (writePred n m x w).status = w.status := rfl
@[simp] theorem writePred_vr (n : Nat) (m x : Mask) (w : Wave) : (writePred n m x w).vr = w.vr := rfl
@[simp] theorem writePred_sr (n : Nat) (m x : Mask) (w : Wave) : (writePred n m x w).sr = w.sr := rfl
@[simp] theorem writePred_ix (n : Nat) (m x : Mask) (w : Wave) : (writePred n m x w).ix = w.ix := rfl
@[simp] theorem writePred_slotA (n : Nat) (m x : Mask) (w : Wave) : (writePred n m x w).slotA = w.slotA := rfl
@[simp] theorem writePred_slotB (n : Nat) (m x : Mask) (w : Wave) : (writePred n m x w).slotB = w.slotB := rfl
@[simp] theorem writePred_cur (n : Nat) (m x : Mask) (w : Wave) : (writePred n m x w).cur = w.cur := rfl
@[simp] theorem writePred_fair (n : Nat) (m x : Mask) (w : Wave) : (writePred n m x w).fair = w.fair := rfl
@[simp] theorem writePred_stack (n : Nat) (m x : Mask) (w : Wave) : (writePred n m x w).stack = w.stack := rfl
@[simp] theorem writePred_flags (n : Nat) (m x : Mask) (w : Wave) : (writePred n m x w).flags = w.flags := rfl
@[simp] theorem writePred_cntCopy (n : Nat) (m x : Mask) (w : Wave) : (writePred n m x w).cntCopy = w.cntCopy := rfl
@[simp] theorem writePred_cntMatrix (n : Nat) (m x : Mask) (w : Wave) : (writePred n m x w).cntMatrix = w.cntMatrix := rfl
@[simp] theorem writePred_cntNet (n : Nat) (m x : Mask) (w : Wave) : (writePred n m x w).cntNet = w.cntNet := rfl
@[simp] theorem writePred_cntTest (n : Nat) (m x : Mask) (w : Wave) : (writePred n m x w).cntTest = w.cntTest := rfl
@[simp] theorem writePred_allot (n : Nat) (m x : Mask) (w : Wave) : (writePred n m x w).allot = w.allot := rfl
@[simp] theorem writePred_tlane (n : Nat) (m x : Mask) (w : Wave) : (writePred n m x w).tlane = w.tlane := rfl
@[simp] theorem writePred_recix (n : Nat) (m x : Mask) (w : Wave) : (writePred n m x w).recix = w.recix := rfl
@[simp] theorem writePred_everLive (n : Nat) (m x : Mask) (w : Wave) : (writePred n m x w).everLive = w.everLive := rfl
@[simp] theorem writePred_fpx (n : Nat) (m x : Mask) (w : Wave) : (writePred n m x w).fpx = w.fpx := rfl
@[simp] theorem writePred_quad (n : Nat) (m x : Mask) (w : Wave) : (writePred n m x w).quad = w.quad := rfl
@[simp] theorem writePred_nerr (n : Nat) (m x : Mask) (w : Wave) : (writePred n m x w).nerr = w.nerr := rfl
@[simp] theorem writePred_helper (n : Nat) (m x : Mask) (w : Wave) : (writePred n m x w).helper = w.helper := rfl
@[simp] theorem writePred_tsbase (n : Nat) (m x : Mask) (w : Wave) : (writePred n m x w).tsbase = w.tsbase := rfl
@[simp] theorem writePred_tstk (n : Nat) (m x : Mask) (w : Wave) : (writePred n m x w).tstk = w.tstk := rfl
@[simp] theorem writePred_tdepth (n : Nat) (m x : Mask) (w : Wave) : (writePred n m x w).tdepth = w.tdepth := rfl
@[simp] theorem writePred_resv (n : Nat) (m x : Mask) (w : Wave) : (writePred n m x w).resv = w.resv := rfl
@[simp] theorem writePred_awaited (n : Nat) (m x : Mask) (w : Wave) : (writePred n m x w).awaited = w.awaited := rfl
@[simp] theorem writePred_arrived (n : Nat) (m x : Mask) (w : Wave) : (writePred n m x w).arrived = w.arrived := rfl
@[simp] theorem writePred_pendingBit (n : Nat) (m x : Mask) (w : Wave) : (writePred n m x w).pendingBit = w.pendingBit := rfl
@[simp] theorem writePred_mparts (n : Nat) (m x : Mask) (w : Wave) : (writePred n m x w).mparts = w.mparts := rfl
@[simp] theorem writePred_spin (n : Nat) (m x : Mask) (w : Wave) : (writePred n m x w).spin = w.spin := rfl
@[simp] theorem writePred_backMark (n : Nat) (m x : Mask) (w : Wave) : (writePred n m x w).backMark = w.backMark := rfl
@[simp] theorem writePred_age (n : Nat) (m x : Mask) (w : Wave) : (writePred n m x w).age = w.age := rfl
@[simp] theorem writePred_opSeq (n : Nat) (m x : Mask) (w : Wave) : (writePred n m x w).opSeq = w.opSeq := rfl
@[simp] theorem writePred_pend (n : Nat) (m x : Mask) (w : Wave) : (writePred n m x w).pend = w.pend := rfl
@[simp] theorem writePred_sq (n : Nat) (m x : Mask) (w : Wave) : (writePred n m x w).sq = w.sq := rfl
@[simp] theorem writePred_tests (n : Nat) (m x : Mask) (w : Wave) : (writePred n m x w).tests = w.tests := rfl
@[simp] theorem writePred_nets (n : Nat) (m x : Mask) (w : Wave) : (writePred n m x w).nets = w.nets := rfl
@[simp] theorem writePred_bfaults (n : Nat) (m x : Mask) (w : Wave) : (writePred n m x w).bfaults = w.bfaults := rfl
@[simp] theorem writePred_laterFaults (n : Nat) (m x : Mask) (w : Wave) : (writePred n m x w).laterFaults = w.laterFaults := rfl
@[simp] theorem writePred_latch (n : Nat) (m x : Mask) (w : Wave) : (writePred n m x w).latch = w.latch := rfl
@[simp] theorem writePred_lastIssue (n : Nat) (m x : Mask) (w : Wave) : (writePred n m x w).lastIssue = w.lastIssue := rfl
@[simp] theorem writePred_yieldUntil (n : Nat) (m x : Mask) (w : Wave) : (writePred n m x w).yieldUntil = w.yieldUntil := rfl
@[simp] theorem writePred_candSince (n : Nat) (m x : Mask) (w : Wave) : (writePred n m x w).candSince = w.candSince := rfl
@[simp] theorem writePred_dearSince (n : Nat) (m x : Mask) (w : Wave) : (writePred n m x w).dearSince = w.dearSince := rfl
@[simp] theorem writePred_starving (n : Nat) (m x : Mask) (w : Wave) : (writePred n m x w).starving = w.starving := rfl
@[simp] theorem writePred_heldA (n : Nat) (m x : Mask) (w : Wave) : (writePred n m x w).heldA = w.heldA := rfl
@[simp] theorem writePred_heldB (n : Nat) (m x : Mask) (w : Wave) : (writePred n m x w).heldB = w.heldB := rfl
@[simp] theorem writePred_growA (n : Nat) (m x : Mask) (w : Wave) : (writePred n m x w).growA = w.growA := rfl
@[simp] theorem writePred_growB (n : Nat) (m x : Mask) (w : Wave) : (writePred n m x w).growB = w.growB := rfl
@[simp] theorem writePred_frame (n : Nat) (m x : Mask) (w : Wave) : (writePred n m x w).frame = w.frame := rfl
@[simp] theorem writePred_frameWait (n : Nat) (m x : Mask) (w : Wave) : (writePred n m x w).frameWait = w.frameWait := rfl
@[simp] theorem writePred_replayOps (n : Nat) (m x : Mask) (w : Wave) : (writePred n m x w).replayOps = w.replayOps := rfl
@[simp] theorem writePred_trapSeq (n : Nat) (m x : Mask) (w : Wave) : (writePred n m x w).trapSeq = w.trapSeq := rfl
@[simp] theorem writePred_saveA (n : Nat) (m x : Mask) (w : Wave) : (writePred n m x w).saveA = w.saveA := rfl
@[simp] theorem writePred_saveB (n : Nat) (m x : Mask) (w : Wave) : (writePred n m x w).saveB = w.saveB := rfl
@[simp] theorem writePred_parityRetry (n : Nat) (m x : Mask) (w : Wave) : (writePred n m x w).parityRetry = w.parityRetry := rfl

@[simp] theorem writeVec_id (n : Nat) (g : Nat → Word) (ls : List Nat) (w : Wave) : (writeVec n g ls w).id = w.id := by
  induction ls generalizing w with
  | nil => rfl
  | cons l r ih => exact ih _
@[simp] theorem writeVec_team (n : Nat) (g : Nat → Word) (ls : List Nat) (w : Wave) : (writeVec n g ls w).team = w.team := by
  induction ls generalizing w with
  | nil => rfl
  | cons l r ih => exact ih _
@[simp] theorem writeVec_num (n : Nat) (g : Nat → Word) (ls : List Nat) (w : Wave) : (writeVec n g ls w).num = w.num := by
  induction ls generalizing w with
  | nil => rfl
  | cons l r ih => exact ih _
@[simp] theorem writeVec_core (n : Nat) (g : Nat → Word) (ls : List Nat) (w : Wave) : (writeVec n g ls w).core = w.core := by
  induction ls generalizing w with
  | nil => rfl
  | cons l r ih => exact ih _
@[simp] theorem writeVec_part (n : Nat) (g : Nat → Word) (ls : List Nat) (w : Wave) : (writeVec n g ls w).part = w.part := by
  induction ls generalizing w with
  | nil => rfl
  | cons l r ih => exact ih _
@[simp] theorem writeVec_wslot (n : Nat) (g : Nat → Word) (ls : List Nat) (w : Wave) : (writeVec n g ls w).wslot = w.wslot := by
  induction ls generalizing w with
  | nil => rfl
  | cons l r ih => exact ih _
@[simp] theorem writeVec_status (n : Nat) (g : Nat → Word) (ls : List Nat) (w : Wave) : (writeVec n g ls w).status = w.status := by
  induction ls generalizing w with
  | nil => rfl
  | cons l r ih => exact ih _
@[simp] theorem writeVec_sr (n : Nat) (g : Nat → Word) (ls : List Nat) (w : Wave) : (writeVec n g ls w).sr = w.sr := by
  induction ls generalizing w with
  | nil => rfl
  | cons l r ih => exact ih _
@[simp] theorem writeVec_pr (n : Nat) (g : Nat → Word) (ls : List Nat) (w : Wave) : (writeVec n g ls w).pr = w.pr := by
  induction ls generalizing w with
  | nil => rfl
  | cons l r ih => exact ih _
@[simp] theorem writeVec_ix (n : Nat) (g : Nat → Word) (ls : List Nat) (w : Wave) : (writeVec n g ls w).ix = w.ix := by
  induction ls generalizing w with
  | nil => rfl
  | cons l r ih => exact ih _
@[simp] theorem writeVec_slotA (n : Nat) (g : Nat → Word) (ls : List Nat) (w : Wave) : (writeVec n g ls w).slotA = w.slotA := by
  induction ls generalizing w with
  | nil => rfl
  | cons l r ih => exact ih _
@[simp] theorem writeVec_slotB (n : Nat) (g : Nat → Word) (ls : List Nat) (w : Wave) : (writeVec n g ls w).slotB = w.slotB := by
  induction ls generalizing w with
  | nil => rfl
  | cons l r ih => exact ih _
@[simp] theorem writeVec_cur (n : Nat) (g : Nat → Word) (ls : List Nat) (w : Wave) : (writeVec n g ls w).cur = w.cur := by
  induction ls generalizing w with
  | nil => rfl
  | cons l r ih => exact ih _
@[simp] theorem writeVec_fair (n : Nat) (g : Nat → Word) (ls : List Nat) (w : Wave) : (writeVec n g ls w).fair = w.fair := by
  induction ls generalizing w with
  | nil => rfl
  | cons l r ih => exact ih _
@[simp] theorem writeVec_stack (n : Nat) (g : Nat → Word) (ls : List Nat) (w : Wave) : (writeVec n g ls w).stack = w.stack := by
  induction ls generalizing w with
  | nil => rfl
  | cons l r ih => exact ih _
@[simp] theorem writeVec_flags (n : Nat) (g : Nat → Word) (ls : List Nat) (w : Wave) : (writeVec n g ls w).flags = w.flags := by
  induction ls generalizing w with
  | nil => rfl
  | cons l r ih => exact ih _
@[simp] theorem writeVec_cntCopy (n : Nat) (g : Nat → Word) (ls : List Nat) (w : Wave) : (writeVec n g ls w).cntCopy = w.cntCopy := by
  induction ls generalizing w with
  | nil => rfl
  | cons l r ih => exact ih _
@[simp] theorem writeVec_cntMatrix (n : Nat) (g : Nat → Word) (ls : List Nat) (w : Wave) : (writeVec n g ls w).cntMatrix = w.cntMatrix := by
  induction ls generalizing w with
  | nil => rfl
  | cons l r ih => exact ih _
@[simp] theorem writeVec_cntNet (n : Nat) (g : Nat → Word) (ls : List Nat) (w : Wave) : (writeVec n g ls w).cntNet = w.cntNet := by
  induction ls generalizing w with
  | nil => rfl
  | cons l r ih => exact ih _
@[simp] theorem writeVec_cntTest (n : Nat) (g : Nat → Word) (ls : List Nat) (w : Wave) : (writeVec n g ls w).cntTest = w.cntTest := by
  induction ls generalizing w with
  | nil => rfl
  | cons l r ih => exact ih _
@[simp] theorem writeVec_allot (n : Nat) (g : Nat → Word) (ls : List Nat) (w : Wave) : (writeVec n g ls w).allot = w.allot := by
  induction ls generalizing w with
  | nil => rfl
  | cons l r ih => exact ih _
@[simp] theorem writeVec_tlane (n : Nat) (g : Nat → Word) (ls : List Nat) (w : Wave) : (writeVec n g ls w).tlane = w.tlane := by
  induction ls generalizing w with
  | nil => rfl
  | cons l r ih => exact ih _
@[simp] theorem writeVec_recix (n : Nat) (g : Nat → Word) (ls : List Nat) (w : Wave) : (writeVec n g ls w).recix = w.recix := by
  induction ls generalizing w with
  | nil => rfl
  | cons l r ih => exact ih _
@[simp] theorem writeVec_everLive (n : Nat) (g : Nat → Word) (ls : List Nat) (w : Wave) : (writeVec n g ls w).everLive = w.everLive := by
  induction ls generalizing w with
  | nil => rfl
  | cons l r ih => exact ih _
@[simp] theorem writeVec_fpx (n : Nat) (g : Nat → Word) (ls : List Nat) (w : Wave) : (writeVec n g ls w).fpx = w.fpx := by
  induction ls generalizing w with
  | nil => rfl
  | cons l r ih => exact ih _
@[simp] theorem writeVec_quad (n : Nat) (g : Nat → Word) (ls : List Nat) (w : Wave) : (writeVec n g ls w).quad = w.quad := by
  induction ls generalizing w with
  | nil => rfl
  | cons l r ih => exact ih _
@[simp] theorem writeVec_nerr (n : Nat) (g : Nat → Word) (ls : List Nat) (w : Wave) : (writeVec n g ls w).nerr = w.nerr := by
  induction ls generalizing w with
  | nil => rfl
  | cons l r ih => exact ih _
@[simp] theorem writeVec_helper (n : Nat) (g : Nat → Word) (ls : List Nat) (w : Wave) : (writeVec n g ls w).helper = w.helper := by
  induction ls generalizing w with
  | nil => rfl
  | cons l r ih => exact ih _
@[simp] theorem writeVec_tsbase (n : Nat) (g : Nat → Word) (ls : List Nat) (w : Wave) : (writeVec n g ls w).tsbase = w.tsbase := by
  induction ls generalizing w with
  | nil => rfl
  | cons l r ih => exact ih _
@[simp] theorem writeVec_tstk (n : Nat) (g : Nat → Word) (ls : List Nat) (w : Wave) : (writeVec n g ls w).tstk = w.tstk := by
  induction ls generalizing w with
  | nil => rfl
  | cons l r ih => exact ih _
@[simp] theorem writeVec_tdepth (n : Nat) (g : Nat → Word) (ls : List Nat) (w : Wave) : (writeVec n g ls w).tdepth = w.tdepth := by
  induction ls generalizing w with
  | nil => rfl
  | cons l r ih => exact ih _
@[simp] theorem writeVec_resv (n : Nat) (g : Nat → Word) (ls : List Nat) (w : Wave) : (writeVec n g ls w).resv = w.resv := by
  induction ls generalizing w with
  | nil => rfl
  | cons l r ih => exact ih _
@[simp] theorem writeVec_awaited (n : Nat) (g : Nat → Word) (ls : List Nat) (w : Wave) : (writeVec n g ls w).awaited = w.awaited := by
  induction ls generalizing w with
  | nil => rfl
  | cons l r ih => exact ih _
@[simp] theorem writeVec_arrived (n : Nat) (g : Nat → Word) (ls : List Nat) (w : Wave) : (writeVec n g ls w).arrived = w.arrived := by
  induction ls generalizing w with
  | nil => rfl
  | cons l r ih => exact ih _
@[simp] theorem writeVec_pendingBit (n : Nat) (g : Nat → Word) (ls : List Nat) (w : Wave) : (writeVec n g ls w).pendingBit = w.pendingBit := by
  induction ls generalizing w with
  | nil => rfl
  | cons l r ih => exact ih _
@[simp] theorem writeVec_mparts (n : Nat) (g : Nat → Word) (ls : List Nat) (w : Wave) : (writeVec n g ls w).mparts = w.mparts := by
  induction ls generalizing w with
  | nil => rfl
  | cons l r ih => exact ih _
@[simp] theorem writeVec_spin (n : Nat) (g : Nat → Word) (ls : List Nat) (w : Wave) : (writeVec n g ls w).spin = w.spin := by
  induction ls generalizing w with
  | nil => rfl
  | cons l r ih => exact ih _
@[simp] theorem writeVec_backMark (n : Nat) (g : Nat → Word) (ls : List Nat) (w : Wave) : (writeVec n g ls w).backMark = w.backMark := by
  induction ls generalizing w with
  | nil => rfl
  | cons l r ih => exact ih _
@[simp] theorem writeVec_age (n : Nat) (g : Nat → Word) (ls : List Nat) (w : Wave) : (writeVec n g ls w).age = w.age := by
  induction ls generalizing w with
  | nil => rfl
  | cons l r ih => exact ih _
@[simp] theorem writeVec_opSeq (n : Nat) (g : Nat → Word) (ls : List Nat) (w : Wave) : (writeVec n g ls w).opSeq = w.opSeq := by
  induction ls generalizing w with
  | nil => rfl
  | cons l r ih => exact ih _
@[simp] theorem writeVec_pend (n : Nat) (g : Nat → Word) (ls : List Nat) (w : Wave) : (writeVec n g ls w).pend = w.pend := by
  induction ls generalizing w with
  | nil => rfl
  | cons l r ih => exact ih _
@[simp] theorem writeVec_sq (n : Nat) (g : Nat → Word) (ls : List Nat) (w : Wave) : (writeVec n g ls w).sq = w.sq := by
  induction ls generalizing w with
  | nil => rfl
  | cons l r ih => exact ih _
@[simp] theorem writeVec_tests (n : Nat) (g : Nat → Word) (ls : List Nat) (w : Wave) : (writeVec n g ls w).tests = w.tests := by
  induction ls generalizing w with
  | nil => rfl
  | cons l r ih => exact ih _
@[simp] theorem writeVec_nets (n : Nat) (g : Nat → Word) (ls : List Nat) (w : Wave) : (writeVec n g ls w).nets = w.nets := by
  induction ls generalizing w with
  | nil => rfl
  | cons l r ih => exact ih _
@[simp] theorem writeVec_bfaults (n : Nat) (g : Nat → Word) (ls : List Nat) (w : Wave) : (writeVec n g ls w).bfaults = w.bfaults := by
  induction ls generalizing w with
  | nil => rfl
  | cons l r ih => exact ih _
@[simp] theorem writeVec_laterFaults (n : Nat) (g : Nat → Word) (ls : List Nat) (w : Wave) : (writeVec n g ls w).laterFaults = w.laterFaults := by
  induction ls generalizing w with
  | nil => rfl
  | cons l r ih => exact ih _
@[simp] theorem writeVec_latch (n : Nat) (g : Nat → Word) (ls : List Nat) (w : Wave) : (writeVec n g ls w).latch = w.latch := by
  induction ls generalizing w with
  | nil => rfl
  | cons l r ih => exact ih _
@[simp] theorem writeVec_lastIssue (n : Nat) (g : Nat → Word) (ls : List Nat) (w : Wave) : (writeVec n g ls w).lastIssue = w.lastIssue := by
  induction ls generalizing w with
  | nil => rfl
  | cons l r ih => exact ih _
@[simp] theorem writeVec_yieldUntil (n : Nat) (g : Nat → Word) (ls : List Nat) (w : Wave) : (writeVec n g ls w).yieldUntil = w.yieldUntil := by
  induction ls generalizing w with
  | nil => rfl
  | cons l r ih => exact ih _
@[simp] theorem writeVec_candSince (n : Nat) (g : Nat → Word) (ls : List Nat) (w : Wave) : (writeVec n g ls w).candSince = w.candSince := by
  induction ls generalizing w with
  | nil => rfl
  | cons l r ih => exact ih _
@[simp] theorem writeVec_dearSince (n : Nat) (g : Nat → Word) (ls : List Nat) (w : Wave) : (writeVec n g ls w).dearSince = w.dearSince := by
  induction ls generalizing w with
  | nil => rfl
  | cons l r ih => exact ih _
@[simp] theorem writeVec_starving (n : Nat) (g : Nat → Word) (ls : List Nat) (w : Wave) : (writeVec n g ls w).starving = w.starving := by
  induction ls generalizing w with
  | nil => rfl
  | cons l r ih => exact ih _
@[simp] theorem writeVec_heldA (n : Nat) (g : Nat → Word) (ls : List Nat) (w : Wave) : (writeVec n g ls w).heldA = w.heldA := by
  induction ls generalizing w with
  | nil => rfl
  | cons l r ih => exact ih _
@[simp] theorem writeVec_heldB (n : Nat) (g : Nat → Word) (ls : List Nat) (w : Wave) : (writeVec n g ls w).heldB = w.heldB := by
  induction ls generalizing w with
  | nil => rfl
  | cons l r ih => exact ih _
@[simp] theorem writeVec_growA (n : Nat) (g : Nat → Word) (ls : List Nat) (w : Wave) : (writeVec n g ls w).growA = w.growA := by
  induction ls generalizing w with
  | nil => rfl
  | cons l r ih => exact ih _
@[simp] theorem writeVec_growB (n : Nat) (g : Nat → Word) (ls : List Nat) (w : Wave) : (writeVec n g ls w).growB = w.growB := by
  induction ls generalizing w with
  | nil => rfl
  | cons l r ih => exact ih _
@[simp] theorem writeVec_frame (n : Nat) (g : Nat → Word) (ls : List Nat) (w : Wave) : (writeVec n g ls w).frame = w.frame := by
  induction ls generalizing w with
  | nil => rfl
  | cons l r ih => exact ih _
@[simp] theorem writeVec_frameWait (n : Nat) (g : Nat → Word) (ls : List Nat) (w : Wave) : (writeVec n g ls w).frameWait = w.frameWait := by
  induction ls generalizing w with
  | nil => rfl
  | cons l r ih => exact ih _
@[simp] theorem writeVec_replayOps (n : Nat) (g : Nat → Word) (ls : List Nat) (w : Wave) : (writeVec n g ls w).replayOps = w.replayOps := by
  induction ls generalizing w with
  | nil => rfl
  | cons l r ih => exact ih _
@[simp] theorem writeVec_trapSeq (n : Nat) (g : Nat → Word) (ls : List Nat) (w : Wave) : (writeVec n g ls w).trapSeq = w.trapSeq := by
  induction ls generalizing w with
  | nil => rfl
  | cons l r ih => exact ih _
@[simp] theorem writeVec_saveA (n : Nat) (g : Nat → Word) (ls : List Nat) (w : Wave) : (writeVec n g ls w).saveA = w.saveA := by
  induction ls generalizing w with
  | nil => rfl
  | cons l r ih => exact ih _
@[simp] theorem writeVec_saveB (n : Nat) (g : Nat → Word) (ls : List Nat) (w : Wave) : (writeVec n g ls w).saveB = w.saveB := by
  induction ls generalizing w with
  | nil => rfl
  | cons l r ih => exact ih _
@[simp] theorem writeVec_parityRetry (n : Nat) (g : Nat → Word) (ls : List Nat) (w : Wave) : (writeVec n g ls w).parityRetry = w.parityRetry := by
  induction ls generalizing w with
  | nil => rfl
  | cons l r ih => exact ih _

@[simp] theorem setFlags_id (w : Wave) (x : BitVec 2) (fs : List (BitVec 4)) : (setFlags w x fs).id = w.id := by
  induction fs generalizing w with
  | nil => rfl
  | cons l r ih => exact ih _
@[simp] theorem setFlags_team (w : Wave) (x : BitVec 2) (fs : List (BitVec 4)) : (setFlags w x fs).team = w.team := by
  induction fs generalizing w with
  | nil => rfl
  | cons l r ih => exact ih _
@[simp] theorem setFlags_num (w : Wave) (x : BitVec 2) (fs : List (BitVec 4)) : (setFlags w x fs).num = w.num := by
  induction fs generalizing w with
  | nil => rfl
  | cons l r ih => exact ih _
@[simp] theorem setFlags_core (w : Wave) (x : BitVec 2) (fs : List (BitVec 4)) : (setFlags w x fs).core = w.core := by
  induction fs generalizing w with
  | nil => rfl
  | cons l r ih => exact ih _
@[simp] theorem setFlags_part (w : Wave) (x : BitVec 2) (fs : List (BitVec 4)) : (setFlags w x fs).part = w.part := by
  induction fs generalizing w with
  | nil => rfl
  | cons l r ih => exact ih _
@[simp] theorem setFlags_wslot (w : Wave) (x : BitVec 2) (fs : List (BitVec 4)) : (setFlags w x fs).wslot = w.wslot := by
  induction fs generalizing w with
  | nil => rfl
  | cons l r ih => exact ih _
@[simp] theorem setFlags_status (w : Wave) (x : BitVec 2) (fs : List (BitVec 4)) : (setFlags w x fs).status = w.status := by
  induction fs generalizing w with
  | nil => rfl
  | cons l r ih => exact ih _
@[simp] theorem setFlags_vr (w : Wave) (x : BitVec 2) (fs : List (BitVec 4)) : (setFlags w x fs).vr = w.vr := by
  induction fs generalizing w with
  | nil => rfl
  | cons l r ih => exact ih _
@[simp] theorem setFlags_sr (w : Wave) (x : BitVec 2) (fs : List (BitVec 4)) : (setFlags w x fs).sr = w.sr := by
  induction fs generalizing w with
  | nil => rfl
  | cons l r ih => exact ih _
@[simp] theorem setFlags_pr (w : Wave) (x : BitVec 2) (fs : List (BitVec 4)) : (setFlags w x fs).pr = w.pr := by
  induction fs generalizing w with
  | nil => rfl
  | cons l r ih => exact ih _
@[simp] theorem setFlags_ix (w : Wave) (x : BitVec 2) (fs : List (BitVec 4)) : (setFlags w x fs).ix = w.ix := by
  induction fs generalizing w with
  | nil => rfl
  | cons l r ih => exact ih _
@[simp] theorem setFlags_slotA (w : Wave) (x : BitVec 2) (fs : List (BitVec 4)) : (setFlags w x fs).slotA = w.slotA := by
  induction fs generalizing w with
  | nil => rfl
  | cons l r ih => exact ih _
@[simp] theorem setFlags_slotB (w : Wave) (x : BitVec 2) (fs : List (BitVec 4)) : (setFlags w x fs).slotB = w.slotB := by
  induction fs generalizing w with
  | nil => rfl
  | cons l r ih => exact ih _
@[simp] theorem setFlags_cur (w : Wave) (x : BitVec 2) (fs : List (BitVec 4)) : (setFlags w x fs).cur = w.cur := by
  induction fs generalizing w with
  | nil => rfl
  | cons l r ih => exact ih _
@[simp] theorem setFlags_fair (w : Wave) (x : BitVec 2) (fs : List (BitVec 4)) : (setFlags w x fs).fair = w.fair := by
  induction fs generalizing w with
  | nil => rfl
  | cons l r ih => exact ih _
@[simp] theorem setFlags_stack (w : Wave) (x : BitVec 2) (fs : List (BitVec 4)) : (setFlags w x fs).stack = w.stack := by
  induction fs generalizing w with
  | nil => rfl
  | cons l r ih => exact ih _
@[simp] theorem setFlags_cntCopy (w : Wave) (x : BitVec 2) (fs : List (BitVec 4)) : (setFlags w x fs).cntCopy = w.cntCopy := by
  induction fs generalizing w with
  | nil => rfl
  | cons l r ih => exact ih _
@[simp] theorem setFlags_cntMatrix (w : Wave) (x : BitVec 2) (fs : List (BitVec 4)) : (setFlags w x fs).cntMatrix = w.cntMatrix := by
  induction fs generalizing w with
  | nil => rfl
  | cons l r ih => exact ih _
@[simp] theorem setFlags_cntNet (w : Wave) (x : BitVec 2) (fs : List (BitVec 4)) : (setFlags w x fs).cntNet = w.cntNet := by
  induction fs generalizing w with
  | nil => rfl
  | cons l r ih => exact ih _
@[simp] theorem setFlags_cntTest (w : Wave) (x : BitVec 2) (fs : List (BitVec 4)) : (setFlags w x fs).cntTest = w.cntTest := by
  induction fs generalizing w with
  | nil => rfl
  | cons l r ih => exact ih _
@[simp] theorem setFlags_allot (w : Wave) (x : BitVec 2) (fs : List (BitVec 4)) : (setFlags w x fs).allot = w.allot := by
  induction fs generalizing w with
  | nil => rfl
  | cons l r ih => exact ih _
@[simp] theorem setFlags_tlane (w : Wave) (x : BitVec 2) (fs : List (BitVec 4)) : (setFlags w x fs).tlane = w.tlane := by
  induction fs generalizing w with
  | nil => rfl
  | cons l r ih => exact ih _
@[simp] theorem setFlags_recix (w : Wave) (x : BitVec 2) (fs : List (BitVec 4)) : (setFlags w x fs).recix = w.recix := by
  induction fs generalizing w with
  | nil => rfl
  | cons l r ih => exact ih _
@[simp] theorem setFlags_everLive (w : Wave) (x : BitVec 2) (fs : List (BitVec 4)) : (setFlags w x fs).everLive = w.everLive := by
  induction fs generalizing w with
  | nil => rfl
  | cons l r ih => exact ih _
@[simp] theorem setFlags_fpx (w : Wave) (x : BitVec 2) (fs : List (BitVec 4)) : (setFlags w x fs).fpx = w.fpx := by
  induction fs generalizing w with
  | nil => rfl
  | cons l r ih => exact ih _
@[simp] theorem setFlags_quad (w : Wave) (x : BitVec 2) (fs : List (BitVec 4)) : (setFlags w x fs).quad = w.quad := by
  induction fs generalizing w with
  | nil => rfl
  | cons l r ih => exact ih _
@[simp] theorem setFlags_nerr (w : Wave) (x : BitVec 2) (fs : List (BitVec 4)) : (setFlags w x fs).nerr = w.nerr := by
  induction fs generalizing w with
  | nil => rfl
  | cons l r ih => exact ih _
@[simp] theorem setFlags_helper (w : Wave) (x : BitVec 2) (fs : List (BitVec 4)) : (setFlags w x fs).helper = w.helper := by
  induction fs generalizing w with
  | nil => rfl
  | cons l r ih => exact ih _
@[simp] theorem setFlags_tsbase (w : Wave) (x : BitVec 2) (fs : List (BitVec 4)) : (setFlags w x fs).tsbase = w.tsbase := by
  induction fs generalizing w with
  | nil => rfl
  | cons l r ih => exact ih _
@[simp] theorem setFlags_tstk (w : Wave) (x : BitVec 2) (fs : List (BitVec 4)) : (setFlags w x fs).tstk = w.tstk := by
  induction fs generalizing w with
  | nil => rfl
  | cons l r ih => exact ih _
@[simp] theorem setFlags_tdepth (w : Wave) (x : BitVec 2) (fs : List (BitVec 4)) : (setFlags w x fs).tdepth = w.tdepth := by
  induction fs generalizing w with
  | nil => rfl
  | cons l r ih => exact ih _
@[simp] theorem setFlags_resv (w : Wave) (x : BitVec 2) (fs : List (BitVec 4)) : (setFlags w x fs).resv = w.resv := by
  induction fs generalizing w with
  | nil => rfl
  | cons l r ih => exact ih _
@[simp] theorem setFlags_awaited (w : Wave) (x : BitVec 2) (fs : List (BitVec 4)) : (setFlags w x fs).awaited = w.awaited := by
  induction fs generalizing w with
  | nil => rfl
  | cons l r ih => exact ih _
@[simp] theorem setFlags_arrived (w : Wave) (x : BitVec 2) (fs : List (BitVec 4)) : (setFlags w x fs).arrived = w.arrived := by
  induction fs generalizing w with
  | nil => rfl
  | cons l r ih => exact ih _
@[simp] theorem setFlags_pendingBit (w : Wave) (x : BitVec 2) (fs : List (BitVec 4)) : (setFlags w x fs).pendingBit = w.pendingBit := by
  induction fs generalizing w with
  | nil => rfl
  | cons l r ih => exact ih _
@[simp] theorem setFlags_mparts (w : Wave) (x : BitVec 2) (fs : List (BitVec 4)) : (setFlags w x fs).mparts = w.mparts := by
  induction fs generalizing w with
  | nil => rfl
  | cons l r ih => exact ih _
@[simp] theorem setFlags_spin (w : Wave) (x : BitVec 2) (fs : List (BitVec 4)) : (setFlags w x fs).spin = w.spin := by
  induction fs generalizing w with
  | nil => rfl
  | cons l r ih => exact ih _
@[simp] theorem setFlags_backMark (w : Wave) (x : BitVec 2) (fs : List (BitVec 4)) : (setFlags w x fs).backMark = w.backMark := by
  induction fs generalizing w with
  | nil => rfl
  | cons l r ih => exact ih _
@[simp] theorem setFlags_age (w : Wave) (x : BitVec 2) (fs : List (BitVec 4)) : (setFlags w x fs).age = w.age := by
  induction fs generalizing w with
  | nil => rfl
  | cons l r ih => exact ih _
@[simp] theorem setFlags_opSeq (w : Wave) (x : BitVec 2) (fs : List (BitVec 4)) : (setFlags w x fs).opSeq = w.opSeq := by
  induction fs generalizing w with
  | nil => rfl
  | cons l r ih => exact ih _
@[simp] theorem setFlags_pend (w : Wave) (x : BitVec 2) (fs : List (BitVec 4)) : (setFlags w x fs).pend = w.pend := by
  induction fs generalizing w with
  | nil => rfl
  | cons l r ih => exact ih _
@[simp] theorem setFlags_sq (w : Wave) (x : BitVec 2) (fs : List (BitVec 4)) : (setFlags w x fs).sq = w.sq := by
  induction fs generalizing w with
  | nil => rfl
  | cons l r ih => exact ih _
@[simp] theorem setFlags_tests (w : Wave) (x : BitVec 2) (fs : List (BitVec 4)) : (setFlags w x fs).tests = w.tests := by
  induction fs generalizing w with
  | nil => rfl
  | cons l r ih => exact ih _
@[simp] theorem setFlags_nets (w : Wave) (x : BitVec 2) (fs : List (BitVec 4)) : (setFlags w x fs).nets = w.nets := by
  induction fs generalizing w with
  | nil => rfl
  | cons l r ih => exact ih _
@[simp] theorem setFlags_bfaults (w : Wave) (x : BitVec 2) (fs : List (BitVec 4)) : (setFlags w x fs).bfaults = w.bfaults := by
  induction fs generalizing w with
  | nil => rfl
  | cons l r ih => exact ih _
@[simp] theorem setFlags_laterFaults (w : Wave) (x : BitVec 2) (fs : List (BitVec 4)) : (setFlags w x fs).laterFaults = w.laterFaults := by
  induction fs generalizing w with
  | nil => rfl
  | cons l r ih => exact ih _
@[simp] theorem setFlags_latch (w : Wave) (x : BitVec 2) (fs : List (BitVec 4)) : (setFlags w x fs).latch = w.latch := by
  induction fs generalizing w with
  | nil => rfl
  | cons l r ih => exact ih _
@[simp] theorem setFlags_lastIssue (w : Wave) (x : BitVec 2) (fs : List (BitVec 4)) : (setFlags w x fs).lastIssue = w.lastIssue := by
  induction fs generalizing w with
  | nil => rfl
  | cons l r ih => exact ih _
@[simp] theorem setFlags_yieldUntil (w : Wave) (x : BitVec 2) (fs : List (BitVec 4)) : (setFlags w x fs).yieldUntil = w.yieldUntil := by
  induction fs generalizing w with
  | nil => rfl
  | cons l r ih => exact ih _
@[simp] theorem setFlags_candSince (w : Wave) (x : BitVec 2) (fs : List (BitVec 4)) : (setFlags w x fs).candSince = w.candSince := by
  induction fs generalizing w with
  | nil => rfl
  | cons l r ih => exact ih _
@[simp] theorem setFlags_dearSince (w : Wave) (x : BitVec 2) (fs : List (BitVec 4)) : (setFlags w x fs).dearSince = w.dearSince := by
  induction fs generalizing w with
  | nil => rfl
  | cons l r ih => exact ih _
@[simp] theorem setFlags_starving (w : Wave) (x : BitVec 2) (fs : List (BitVec 4)) : (setFlags w x fs).starving = w.starving := by
  induction fs generalizing w with
  | nil => rfl
  | cons l r ih => exact ih _
@[simp] theorem setFlags_heldA (w : Wave) (x : BitVec 2) (fs : List (BitVec 4)) : (setFlags w x fs).heldA = w.heldA := by
  induction fs generalizing w with
  | nil => rfl
  | cons l r ih => exact ih _
@[simp] theorem setFlags_heldB (w : Wave) (x : BitVec 2) (fs : List (BitVec 4)) : (setFlags w x fs).heldB = w.heldB := by
  induction fs generalizing w with
  | nil => rfl
  | cons l r ih => exact ih _
@[simp] theorem setFlags_growA (w : Wave) (x : BitVec 2) (fs : List (BitVec 4)) : (setFlags w x fs).growA = w.growA := by
  induction fs generalizing w with
  | nil => rfl
  | cons l r ih => exact ih _
@[simp] theorem setFlags_growB (w : Wave) (x : BitVec 2) (fs : List (BitVec 4)) : (setFlags w x fs).growB = w.growB := by
  induction fs generalizing w with
  | nil => rfl
  | cons l r ih => exact ih _
@[simp] theorem setFlags_frame (w : Wave) (x : BitVec 2) (fs : List (BitVec 4)) : (setFlags w x fs).frame = w.frame := by
  induction fs generalizing w with
  | nil => rfl
  | cons l r ih => exact ih _
@[simp] theorem setFlags_frameWait (w : Wave) (x : BitVec 2) (fs : List (BitVec 4)) : (setFlags w x fs).frameWait = w.frameWait := by
  induction fs generalizing w with
  | nil => rfl
  | cons l r ih => exact ih _
@[simp] theorem setFlags_replayOps (w : Wave) (x : BitVec 2) (fs : List (BitVec 4)) : (setFlags w x fs).replayOps = w.replayOps := by
  induction fs generalizing w with
  | nil => rfl
  | cons l r ih => exact ih _
@[simp] theorem setFlags_trapSeq (w : Wave) (x : BitVec 2) (fs : List (BitVec 4)) : (setFlags w x fs).trapSeq = w.trapSeq := by
  induction fs generalizing w with
  | nil => rfl
  | cons l r ih => exact ih _
@[simp] theorem setFlags_saveA (w : Wave) (x : BitVec 2) (fs : List (BitVec 4)) : (setFlags w x fs).saveA = w.saveA := by
  induction fs generalizing w with
  | nil => rfl
  | cons l r ih => exact ih _
@[simp] theorem setFlags_saveB (w : Wave) (x : BitVec 2) (fs : List (BitVec 4)) : (setFlags w x fs).saveB = w.saveB := by
  induction fs generalizing w with
  | nil => rfl
  | cons l r ih => exact ih _
@[simp] theorem setFlags_parityRetry (w : Wave) (x : BitVec 2) (fs : List (BitVec 4)) : (setFlags w x fs).parityRetry = w.parityRetry := by
  induction fs generalizing w with
  | nil => rfl
  | cons l r ih => exact ih _

/-- A scalar register after a write. -/
theorem readS_writeS (n m : Nat) (x : Word) (w : Wave) : readS (writeS n x w) m = if m = n then x else readS w m :=
  cellsRead_write _ _ _ _
/-- A predicate after a write. -/
theorem readP_writePred (n k : Nat) (m x : Mask) (w : Wave) :
    readP (writePred n m x w) k = if k = n then (readP w n &&& ~~~m) ||| (x &&& m) else readP w k :=
  cellsRead_write _ _ _ _
/-- A vector register of a lane after a write to the lanes of a list. -/
theorem readV_writeVec (n : Nat) (g : Nat → Word) (ls : List Nat) (w : Wave) (m l : Nat) (hl : l < 32)
    (hls : ∀ k ∈ ls, k < 32) : readV (writeVec n g ls w) m l = if m = n ∧ l ∈ ls then g l else readV w m l := by
  induction ls generalizing w with
  | nil => simp [writeVec]
  | cons k r ih =>
    have hk := hls k (by simp)
    rw [writeVec, ih _ (fun j hj => hls j (by simp [hj]))]
    unfold readV
    rw [cellsRead_write]
    by_cases hm : m = n <;> by_cases hr : l ∈ r <;> by_cases hkl : l = k <;> simp [hm, hr, hkl]
    all_goals try (intro h; omega)
/-- The results of an operation keep everything of a wave but its registers, predicates and FPX. -/
theorem applyWrs_frame (w : Wave) (rs : List Wr) :
    applyWrs w rs = { w with vr := (applyWrs w rs).vr, sr := (applyWrs w rs).sr, pr := (applyWrs w rs).pr,
                             fpx := (applyWrs w rs).fpx } := by
  induction rs generalizing w with
  | nil => rfl
  | cons r rs ih =>
    rw [applyWrs, ih]
    cases r <;> rfl

/-! ### What a meaning answers -/

/-- The outcome of a meaning: the state itself, unless it met an address that does not exist. -/
theorem finish_next {s t : State} (h : finish s = .next t) : t = s ∧ s.badAddr = none := by
  unfold finish at h
  split at h
  · cases h
  · cases h; exact ⟨rfl, ‹_›⟩
theorem finish_of_none {s : State} (h : s.badAddr = none) : finish s = .next s := by unfold finish; rw [h]

theorem run_effect {i : Instr} {e : Option OpFault} {eff : State → State} {s : State} (h : firstFault i s e = none) :
    run i e false eff s = .next (eff s) := by unfold run; rw [h]; rfl
theorem run_held {i : Instr} {e : Option OpFault} {eff : State → State} {s : State} (h : firstFault i s e = none) :
    run i e true eff s = .next (holdSlot s) := by unfold run; rw [h]; rfl
theorem run_trap {i : Instr} {e : Option OpFault} {hold : Bool} {eff : State → State} {s : State} {f : OpFault}
    (h : firstFault i s e = some f) : run i e hold eff s = finish (takeTrap s f) := by unfold run; rw [h]
/-- All that a meaning of a slot can do: trap, stay HELD, or have its effect. -/
theorem run_cases {i : Instr} {e : Option OpFault} {hold : Bool} {eff : State → State} {s t : State}
    (h : run i e hold eff s = .next t) :
    (∃ f, firstFault i s e = some f ∧ t = takeTrap s f ∧ t.badAddr = none) ∨
    (firstFault i s e = none ∧ hold = true ∧ t = holdSlot s) ∨
    (firstFault i s e = none ∧ hold = false ∧ t = eff s) := by
  cases hf : firstFault i s e with
  | some f =>
    rw [run_trap hf] at h
    obtain ⟨rfl, hb⟩ := finish_next h
    exact .inl ⟨f, rfl, rfl, hb⟩
  | none =>
    cases hold
    · rw [run_effect hf] at h; cases h; exact .inr (.inr ⟨rfl, rfl, rfl⟩)
    · rw [run_held hf] at h; cases h; exact .inr (.inl ⟨rfl, rfl, rfl⟩)

/-- Operands that pass the checks of 07 R213 leave only the instruction's own condition. -/
theorem firstFault_operands {i : Instr} {s : State} {e : Option OpFault} (hw : wellFormed i = true)
    (ha : (uses (srcWave s).ix.toNat i).any useMisaligned = false)
    (hb : (uses (srcWave s).ix.toNat i).any (useOutside (srcWave s).allot.toNat) = false) : firstFault i s e = e := by
  cases e with
  | none => simp [firstFault, hw, ha, hb]
  | some f => simp [firstFault, hw, ha, hb]

@[simp] theorem orFault_none_left (o : Option OpFault) : orFault none o = o := rfl
@[simp] theorem orFault_some (f : OpFault) (o : Option OpFault) : orFault (some f) o = some f := rfl
@[simp] theorem whenFault_false (c : Cause) : whenFault false c = none := rfl
@[simp] theorem whenFault_true (c : Cause) : whenFault true c = some (plainFault c) := rfl

/-- What a trap does to the wave that raises it: its path rests where it resumes, and its team ends FAULTED, or it waits for a
frame, or it enters its handler. -/
theorem trapWave_cases {s : State} {wid : Nat} {w : Wave} {t : Team} (k : PcSlot) (i : TrapInfo)
    (hw : findWave s wid = some w) (ht : findTeam s w.team = some t) :
    let x := getCtx s t.ctx
    let v := setSlot { w with growA := 0, growB := 0, cur := k } k (trappedSlot i (getSlot w k))
    ((t.vendor || inHandler v || decide (x.handler = 0)) = true ∧
      trapWave s wid k i = writeLog (endTeamFaulted s t.id) t.ctx (trapRecord t v i false (inHandler v && !t.vendor) true)) ∨
    ((t.vendor || inHandler v || decide (x.handler = 0)) = false ∧ freeFrameNum x = none ∧
      trapWave s wid k i = setWave s { v with frameWait := some i }) ∨
    ((t.vendor || inHandler v || decide (x.handler = 0)) = false ∧
      ∃ f, freeFrameNum x = some f ∧ trapWave s wid k i = enterHandler s t v f i) := by
  intro x v
  have e : trapWave s wid k i = if (t.vendor || inHandler v || decide (x.handler = 0)) = true then
      writeLog (endTeamFaulted s t.id) t.ctx (trapRecord t v i false (inHandler v && !t.vendor) true)
    else match freeFrameNum x with
      | none => setWave s { v with frameWait := some i }
      | some f => enterHandler s t v f i := by
    unfold trapWave; rw [hw]; dsimp only; rw [ht]; try rfl
  cases hc : (t.vendor || inHandler v || decide (x.handler = 0)) with
  | true => exact .inl ⟨rfl, by rw [e, if_pos hc]⟩
  | false =>
    rw [if_neg (by rw [hc]; exact Bool.false_ne_true)] at e
    cases hf : freeFrameNum x with
    | none => rw [hf] at e; exact .inr (.inl ⟨rfl, rfl, e⟩)
    | some f => rw [hf] at e; exact .inr (.inr ⟨rfl, f, rfl, e⟩)

/-- Issuing an operation with flags: it joins the outstanding ones, and its flags are PENDING. -/
theorem issuePend_wave {s : State} {v : Wave} (p : PendOp) (h : findWave s s.iss.wave = some v) :
    issuePend s p = setWave s (setFlags { v with pend := v.pend ++ [p], opSeq := v.opSeq + 1 } flagPending p.flags) :=
  updCur_eq _ h

/-! ### The step -/

theorem step_tick {s : State} (h : s.agenda = []) : step s = finish (tick s) := by unfold step; rw [h]
theorem step_move {s : State} {m : Move} {r : List Move} (h : s.agenda = m :: r) :
    step s = runMove m { s with agenda := r } := by unfold step; rw [h]

end Sys2Proof.Machine
end

