-- ==== Sys2Proof/Tests/Slice0.lean ====
section
/-! SUPPORT. Tests: instructions that are not well formed, words written out from the encoding tables of spec/, single steps, and
for every statement a witness that its hypotheses can be met together. Expected values are worked out by hand from the rule that
the name or comment gives. -/

open Sys2Proof Sys2Proof.Machine Sys2Proof.Claims

namespace Sys2Proof.Tests
set_option Elab.async false

/-! ### A small machine: one run of one TEAM node, one team of one wave, at the issue of the bundle at 0x1000 -/

def tPath (pc : Pc) : Path := { pc := pc, mask := 0xFFFFFFFF, fmt := 0, jpc := 0, jv := false }
/-- The wave as the slots read it, and as it stands when its path has moved on. -/
def tWave : Wave :=
  { blankWave with
    id := 7, team := 6, status := .running, allot := 64, everLive := 0xFFFFFFFF, slotA := .ready (tPath 0x1000),
    vr := [(32, 0x40000000), (64, 0x3F800000)], sr := [(3, 5), (10, 0x2000)],
    tlane := cellsWriteAll [] (allLanes.map (fun l => (l, BitVec.ofNat 10 l))) }
def tNow : Wave := { tWave with slotA := .ready (tPath 0x1020) }
def tNode : Node := { blankNode with kind := 1, regs := 64, lstore := 4, bars := 2, outs := 1, qcap := 4, emitmax := [1] }
def tEdge : Edge := { src := 0, port := 0, dst := 0, depth := 0, cyc := false, back := false, ring := false, slotKb := 0 }
def tRun : Run :=
  { id := 5, ctx := 0, nodes := [tNode], edges := [tEdge], sig := 0, lazy := false, faulted := false, cores := [], rasters := [],
    steals := [], reserves := [], grids := [] }
def tTeam : Team :=
  { blankTeam with
    id := 6, run := 5, status := .running, nwaves := 1, nl := 32, winSize := 4096, nbars := 2, barExpect := [(0, 2), (1, 1)],
    rsv := [{ store := 40, spill := 0, cycle := 0, app := 0 }] }
/-- Every address of context 0 is its own place for core 0. -/
def tTlb : TlbEntry :=
  { unit := .core 0, ctx := 0, leaf := { base := 0, size := 4503599627370496, host := false, addr := 0, w := true, x := true } }
def bed (w v : Wave) (tm : Team) : State :=
  { State.reset with
    waves := [v], teams := [tm], runs := [tRun], tlbs := [tTlb], nextId := 20, ctxs := { ctxReset with state := .live } :: List.replicate 63 ctxReset,
    iss := { issueReset with wave := 7, pc := 0x1000, src := some w } }
def tBed : State := bed tWave tNow tTeam
/-- The machine with the wave in another form, at the same bundle. -/
def tWith (f : Wave → Wave) : State := bed (f tWave) (f tNow) tTeam

/-! ### Witnesses: registers, paths and the allotment -/

def iFadd : Instr := .fadd ⟨.always, ⟨false, 10⟩, ⟨false, 1⟩, .scl 3, .rn, ⟨false, false⟩, ⟨false, false⟩⟩
def iCvt : Instr := .cvt ⟨.always, ⟨false, 10⟩, ⟨false, 1⟩, .rn, false, ⟨false, false⟩, .int32, .fp32⟩
def iHalf : Instr := .pairedFadd ⟨⟨false, 9⟩, .scl 3, .always, false⟩
def iSmul : Instr := .smul ⟨3, 5, 63⟩
def iImul : Instr := .imul ⟨.always, ⟨false, 1⟩, ⟨false, 2⟩, .scl 3⟩

theorem tBed_issuing : Issuing tBed tWave tNow := ⟨rfl, rfl⟩
theorem tBed_onPath : OnPath tBed tWave tNow := ⟨tBed_issuing, rfl, rfl, rfl, rfl⟩

theorem witness_FloatingPointResults : ∃ r, fpResult tBed tWave iFadd = some r ∧ Issuing tBed tWave tNow ∧ OperandsOk iFadd tWave :=
  ⟨_, rfl, tBed_issuing, by decide⟩
theorem witness_ConversionResults : ∃ r, convertResult tBed tWave iCvt = some r ∧ Issuing tBed tWave tNow ∧ OperandsOk iCvt tWave :=
  ⟨_, rfl, tBed_issuing, by decide⟩
theorem witness_PairedHalfResults : ∃ r, pairedResult tBed tWave iHalf = some r ∧ Issuing tBed tWave tNow ∧ OperandsOk iHalf tWave :=
  ⟨_, rfl, tBed_issuing, by decide⟩
theorem witness_IntegerResults : (∃ r, scalarResult tWave iSmul = some r ∧ OperandsOk iSmul tWave) ∧
    ∃ r, vectorResult tBed tWave iImul = some r ∧ OperandsOk iImul tWave := ⟨⟨_, rfl, by decide⟩, _, rfl, by decide⟩
theorem witness_CrossLaneResults : ∃ r, crossResult tBed tWave (.pget 4 3) = some r ∧ OperandsOk (.pget 4 3) tWave := ⟨_, rfl, by decide⟩
theorem witness_IndexAndFormatWrites : OnPath tBed tWave tNow ∧ OperandsOk (.ixset 3) tWave ∧ OperandsOk (.ixadd 3) tWave ∧
    OperandsOk (.setfmtImm 0) tWave ∧ OperandsOk (.setfmtReg 3) tWave ∧ fmtOk ((readS tWave 4).setWidth 14) = true ∧
    fmtOk ((readS { tWave with sr := [(3, 0x3F)] } 3).setWidth 14) = false := ⟨tBed_onPath, by decide⟩
theorem witness_BranchOutcomes : OperandsOk (.bra ⟨.always, 8, 0⟩) tWave ∧ OperandsOk (.bra ⟨.on false 1, 8, 16⟩) tWave ∧
    OperandsOk (.brx ⟨.on false 1, 10, 16⟩) tWave ∧ goodTarget (readSP tWave 10) ∧ ¬ goodTarget (readSP { tWave with sr := [(10, 5)] } 10) := by
  unfold goodTarget; decide
/-- Return addresses that every lane holds, and one lane's that differs. -/
def tRet (x : Word) : Wave := { tWave with vr := cellsWriteAll [] ((List.range 32).map (fun l => (64 + l, 0x2000))) |> (fun c => cellsWrite c 64 x) }
theorem witness_CallAndReturn : OperandsOk (.call 8 ⟨false, 2⟩) tWave ∧ OperandsOk (.ret ⟨false, 2⟩) tWave ∧
    lanesAgree (bed (tRet 0x2000) tNow tTeam) (tRet 0x2000) ⟨false, 2⟩ 0x2000 ∧ goodTarget 0x2000 ∧
    readVP (tRet 0x2001) 2 0 = 0x2001 ∧ readVP (tRet 0x2020) 2 0 = 0x2020 ∧ readVP (tRet 0x2020) 2 1 = 0x2000 := by
  unfold goodTarget; decide +kernel
/-- A path at its join, with the lanes of a join entry, and with half of them. -/
def tJoinPath (m : Mask) (pc : Pc) : Path := { pc := pc, mask := m, fmt := 0, jpc := 0x1000, jv := true }
def tJoin (m : Mask) (pc : Pc) (b : SlotState) (w : Wave) : Wave :=
  { w with slotA := .ready (tJoinPath m pc), slotB := b, stack := [joinEntry (tPath 0x800) 0x1000] }
theorem witness_JoinOutcomes :
    (let s := bed (tJoin 0xFFFFFFFF 0x1000 .empty tWave) (tJoin 0xFFFFFFFF 0x1020 .empty tWave) tTeam;
      OnPath s (tJoin 0xFFFFFFFF 0x1000 .empty tWave) (tJoin 0xFFFFFFFF 0x1020 .empty tWave) ∧ (issPath s).jv = true ∧ (issPath s).jpc = s.iss.pc) ∧
    JoinAt 0x1000 [joinEntry (tPath 0x800) 0x1000] (joinEntry (tPath 0x800) 0x1000) [] [] ∧
    (let v := tJoin 0xFFFF 0x1020 (.ready (tPath 0x3000)) tWave;
      (joinEntry (tPath 0x800) 0x1000).mask &&& ~~~(0xFFFF : Mask) ≠ 0 ∧ getSlot v .b ≠ .empty ∧ ∀ x ∈ v.stack, x.isJoin = true) :=
  ⟨⟨⟨⟨rfl, rfl⟩, rfl, rfl, rfl, rfl⟩, rfl, rfl⟩, .here _ _ rfl rfl, by decide⟩
theorem witness_ExitOutcomes : OnPath tBed tWave tNow ∧ tNow.cur = tBed.iss.pcSlot ∧ tNow.status = .running ∧
    getSlot tNow .b = .empty ∧ tNow.stack = [] ∧ tNow.bfaults = [] ∧ tNow.laterFaults = [] ∧ (∀ q ∈ tNow.pend, q.fault = none) ∧
    (let v := tJoin 0xFFFF 0x1020 (.ready (tPath 0x3000)) tWave;
      getSlot v .b ≠ .empty ∧ ∀ e ∈ v.stack, e.isJoin = true ∧ e.mask &&& ~~~(0xFFFF : Mask) ≠ 0) :=
  ⟨tBed_onPath, by decide⟩
theorem witness_SlotswPresentsOther : OperandsOk .slotsw tWave ∧ getSlot tNow .b = .empty ∧
    getSlot { tNow with slotB := .ready (tPath 0x3000) } .b = .ready (tPath 0x3000) := by decide
theorem witness_RegroupParks : OperandsOk .regroup tWave ∧ (∀ e ∈ tNow.stack, e.isJoin = true) ∧
    ∃ e ∈ [spilledPath (tPath 0x3000)], e.isJoin = false := by decide
theorem witness_RegisterAllotment : OperandsOk (.rgrowImm 9) tWave ∧ OperandsOk (.rshrinkImm 7) tWave ∧
    (tNow.allot.toNat < 72 ∧ GrowthFits tBed tNow 72 ∧ shrinkWaits tBed tNow 56 = false) ∧
    (let full := { tBed with waves := [tNow, { tNow with id := 8, allot := 256 }, { tNow with id := 9, allot := 256 },
        { tNow with id := 10, allot := 256 }, { tNow with id := 11, allot := 184 }] };
      tNow.allot.toNat / 8 + granulesFree full 0 0 < 80 / 8 ∧
      ∃ x ∈ full.waves, x.id ≠ 7 ∧ x.core = 0 ∧ x.part = 0 ∧ waveLive x = true ∧ ∃ p, x.slotA = .ready p) :=
  ⟨by decide, by decide, by decide +kernel, by decide +kernel, _, List.mem_cons_of_mem _ (List.mem_cons_self ..), by decide +kernel, rfl, rfl, rfl, _, rfl⟩
theorem witness_SpecialRegisters : OperandsOk (.rdsr 2 0) tWave ∧ OperandsOk (.rdsr 2 0x30) tWave ∧ OperandsOk (.rdsr 2 0x100) tWave ∧
    OperandsOk (.wrsr 4 3) tWave ∧ OperandsOk (.wrsr 0x10 3) tWave ∧ OperandsOk (.wrsr 0x25 3) tWave ∧ OperandsOk (.clock true 2) tWave ∧
    (∃ x, specialWord tBed tWave 4 = some x) ∧ findTeam tBed tWave.team = some tTeam ∧ tWave.frame = none :=
  ⟨by decide, by decide, by decide, by decide, by decide, by decide, by decide, ⟨_, rfl⟩, rfl, rfl⟩
def tRec : Rec := { blankRec with run := 5, bytes := List.replicate 16 0 }
theorem witness_DerivativesAndRecordInfo : OperandsOk (.ddx ⟨.always, ⟨false, 4⟩, ⟨false, 1⟩, .rn⟩) tWave ∧
    (let w := { tWave with recix := cellsWriteAll [] (allLanes.map (fun l => (l, (1 : BitVec 6)))) };
     let s := bed w w { tTeam with batch := [tRec], recsHeld := true };
     let o : RecInfo := ⟨.always, ⟨false, 4⟩, .self, .len⟩;
     OperandsOk (.recinfo o) w ∧ ∀ l ∈ lanesOf (laneSet s o.pr), recordAt (teamOf s w) w (captured s w w (.recinfo o)) o.ri l = some tRec) ∧
    (lanesOf (laneSet tBed .always)).find? (fun l => (recordAt tTeam tWave (captured tBed tWave tNow (.recinfo ⟨.always, ⟨false, 4⟩, .self, .len⟩)) .self l).isNone) = some 0 := by
  decide +kernel

/-! ### Witnesses: operations that complete later, fences, barriers, copies and records -/

def iRcp : Instr := .rcp ⟨.always, ⟨false, 10⟩, ⟨false, 1⟩, .none, ⟨false, false⟩⟩
def memOps (d : Nat) (ord : Ord) (scope : Scope) : MemV := ⟨.always, ⟨false, BitVec.ofNat 8 d⟩, .vec ⟨false, 20⟩, false, ord, scope, .b4, .none, 16⟩
def iLdG : Instr := .ldG (memOps 10 .plain .wave)
def iLdL : Instr := .ldL (memOps 10 .plain .wave)
def iStG : Instr := .stG (memOps 10 .plain .wave)
def iStL : Instr := .stL (memOps 10 .plain .wave)
def oAtomL : Atom := ⟨.add, .always, ⟨false, 10⟩, .vec ⟨false, 20⟩, ⟨false, 12⟩, .relaxed, .team, .b4, .none, 16⟩
def oSc : StoreCond := ⟨.always, ⟨false, 10⟩, .vec ⟨false, 20⟩, ⟨false, 12⟩, .relaxed, .dev, .b4, 16⟩
/-- An operation of lane 0 that has issued, in the wave and in its store queue. -/
def tOp (i : Instr) : PendOp := { captured tBed tWave tNow i with lanes := 1 }
def tPending (i : Instr) : Wave := { tNow with pend := [tOp i], opSeq := 1 }
def tQueued (i : Instr) : Wave := { tNow with sq := [tOp i], opSeq := 1 }
def tEvent (v : Wave) : State := { tBed with waves := [v], who := { agentReset with wave := 7 } }
theorem tEvent_completing (i : Instr) : Completing (tEvent (tPending i)) (tPending i) (tOp i) :=
  ⟨rfl, rfl, rfl, rfl, rfl, rfl, rfl, rfl, rfl, rfl⟩

theorem witness_FlaggedOperationsIssue : waitsToPerform iRcp = true ∧ Issuing tBed tWave tNow ∧ OperandsOk iRcp tWave ∧
    IssueOk iRcp tBed tWave ∧ OperandsOk iLdG tWave ∧ IssueOk iLdG tBed tWave :=
  ⟨rfl, tBed_issuing, by decide, ⟨by decide, trivial⟩, by decide, ⟨by decide +kernel, trivial⟩⟩
theorem witness_SpecialFunctionsComplete : ∃ f o, Completing (tEvent (tPending iRcp)) (tPending iRcp) (tOp iRcp) ∧
    specialOf (tOp iRcp).instr = some (f, o) := ⟨_, _, tEvent_completing _, rfl⟩
theorem witness_LoadsComplete :
    (let s := tEvent (tPending iLdG);
      Completing s (tPending iLdG) (tOp iLdG) ∧ (tPending iLdG).sq = [] ∧ earlierOpen (tPending iLdG) (tOp iLdG).seq = false ∧
      ∀ l ∈ lanesOf (tOp iLdG).lanes, translateAt s 0 (teamOf s (tPending iLdG)).ctx (opPair (tOp iLdG) .a l + (16 : BitVec 12).signExtend 64) .read =
          .ok { host := false, addr := 16 } ∧ loadPoisoned s 0 { host := false, addr := 16 } 4 = false) ∧
    Completing (tEvent (tPending iLdL)) (tPending iLdL) (tOp iLdL) ∧ (teamOf (tEvent (tPending iLdL)) (tPending iLdL)).pair = false ∧
      earlierOpen (tPending iLdL) (tOp iLdL).seq = false :=
  ⟨⟨tEvent_completing _, rfl, rfl, by decide +kernel⟩, tEvent_completing _, rfl, rfl⟩
theorem witness_StoresQueue : isStore iStG = true ∧ OperandsOk iStG tWave ∧ AccessOk iStG tBed tWave ∧ isStore iStL = true ∧
    OperandsOk iStL tWave ∧ AccessOk iStL tBed tWave := by decide +kernel
theorem witness_StoresPerform : ∀ i ∈ [iStG, iStL], let w := tQueued i; let s := tEvent w
    findWave s s.who.wave = some w ∧ w.sq = tOp i :: [] ∧ goesOn s w.id = true ∧ queueStopped w = false ∧ w.pend = [] ∧ s.badAddr = none ∧
      lanesOf ((tOp i).lanes &&& ~~~(tOp i).helper) = [0] ∧
      translateAt s w.core (teamOf s w).ctx (opPair (tOp iStG) .a 0 + (16 : BitVec 12).signExtend 64) .write = .ok { host := false, addr := 16 } := by
  decide +kernel
theorem witness_AtomicAndConditionalStore :
    Completing (tEvent (tPending (.atomL oAtomL))) (tPending (.atomL oAtomL)) (tOp (.atomL oAtomL)) ∧
    earlierOpen (tPending (.atomL oAtomL)) 0 = false ∧ (tOp (.atomL oAtomL)).lanes = BitVec.twoPow 32 0 ∧
    inMask (tOp (.atomL oAtomL)).helper 0 = false ∧
    Completing (tEvent (tPending (.sc oSc))) (tPending (.sc oSc)) (tOp (.sc oSc)) ∧
    (let w := { tPending (.sc oSc) with resv := [((0 : BitVec 5), ({ host := false, line := 0 } : Granule))] };
      findWave (tEvent w) 7 = some w ∧ (BitVec.ofNat 5 0, ({ host := false, line := 0 } : Granule)) ∈ w.resv) ∧
    translateAt (tEvent (tPending (.sc oSc))) 0 0 (opPair (tOp (.sc oSc)) .a 0 + oSc.ofs.signExtend 64) .write = .ok { host := false, addr := 16 } :=
  ⟨tEvent_completing _, rfl, by decide, rfl, tEvent_completing _, by decide +kernel, by decide +kernel⟩
def oPrefetch : Prefetch := ⟨.always, .vec ⟨false, 20⟩, .none, 0⟩
theorem witness_CacheInstructions : Issuing tBed tWave tNow ∧ Drained tNow ∧ OperandsOk (.fence .acqRel .dev) tWave ∧
    OperandsOk (.prefetch oPrefetch) tWave ∧
    (let s := tWith (fun w => { w with everLive := 1, slotA := .ready { tPath 0x1000 with mask := 1 } });
      lanesOf (laneSet s .always) = [0] ∧ translateAt s 0 0 (opPair (captured s tWave tNow (.prefetch oPrefetch)) .a 0) .read = .ok { host := false, addr := 0 }) :=
  ⟨tBed_issuing, ⟨rfl, by decide⟩, by decide, by decide, by decide +kernel⟩
def oWaitG : WaitAddr := ⟨6, 4, 8, .dev, .b4, false, 0⟩
def oWaitL : WaitAddr := ⟨6, 4, 8, .team, .b4, true, 0⟩
theorem witness_WaitaddrContinuesOrParks : Drained tNow ∧ OperandsOk (.waitaddr oWaitG) tWave ∧ AccessOk (.waitaddr oWaitG) tBed tWave ∧
    OperandsOk (.waitaddr oWaitL) tWave ∧ AccessOk (.waitaddr oWaitL) tBed tWave ∧
    translateAt tBed 0 0 (waitAddrOf oWaitG tBed) .read = .ok { host := false, addr := 0 } ∧
    watchPoisoned tBed tWave oWaitG { host := false, addr := 0 } = false ∧
    watchPoisoned { tBed with poison := [0] } tWave oWaitG { host := false, addr := 0 } = true ∧
    translateAt { tBed with tlbs := [] } 0 0 (waitAddrOf oWaitG tBed) .read = .error 0 := by decide +kernel
theorem witness_CounterWaits : OnPath tBed tWave tNow ∧ (counterOf tNow .copy).toNat ≤ 0 ∧
    0 < (counterOf { tNow with cntCopy := 1 } .copy).toNat ∧ OperandsOk (.yieldCopy 10 0) tWave ∧ goodTarget (readSP tWave 10) ∧
    ¬ goodTarget (readSP { tWave with sr := [(10, 5)] } 10) := ⟨tBed_onPath, by unfold goodTarget; decide⟩
theorem witness_Barriers : Issuing tBed tWave tNow ∧ findTeam tBed tWave.team = some tTeam ∧ (1 : Bar).toNat < tTeam.nbars ∧
    countOf tTeam 0 = 0 ∧ (readS tWave 3).setWidth 8 ≠ (0 : BitVec 8) ∧ tTeam.nbars ≤ (2 : Bar).toNat ∧
    OnPath tBed tWave tNow ∧ Drained tNow ∧ bitOf tNow.arrived 0 = false ∧ countOf tTeam 0 + 1 < expectedOf tTeam 0 ∧
    countOf tTeam 1 + 1 = expectedOf tTeam 1 ∧ bitOf ({ tNow with arrived := 1 } : Wave).arrived 0 = true ∧
    (countOf { tTeam with barCount := [(0, 1)] } 0 : Int) = (expectedOf tTeam 0 : Int) + ((0xFFFFFFFF : Word).setWidth 8 : BitVec 8).toInt :=
  ⟨tBed_issuing, rfl, by decide, by decide, by decide, by decide, tBed_onPath, by decide, by decide, by decide, by decide, by decide, by decide⟩
/-- Scalars of a copy of 16 bytes between local 0 and global 0x1000, and of one with a reserved field. -/
def tCopyRegs (w : Wave) : Wave := { w with sr := [(16, 0x1000), (21, 16)] }
theorem witness_CopiesIssue : OperandsOk (.acopy 16) (tCopyRegs tWave) ∧
    (let s := tWith tCopyRegs; let e := entryOf s 16
      entryIllegal e false tTeam.nbars = false ∧ ceLaddr e + ceRows e * ceLstride e + ceLen e ≤ tTeam.winSize ∧ ceSv e = false ∧
      tWave.cntCopy ≠ 255 ∧ tTeam.copies.length < 64) ∧
    entryIllegal (entryOf tBed 16) false 2 = true := by decide +kernel
def oAppend : QAppend := ⟨.always, 3, ⟨false, 20⟩, 0⟩
theorem witness_EmissionsAppend : OperandsOk (.qappend oAppend) tWave ∧ Drained tNow ∧ teamEdge tBed (teamOf tBed tWave) 0 = some (0, tEdge) ∧
    findTeam tBed tWave.team = some (teamOf tBed tWave) ∧ 0 < (teamNode tBed (teamOf tBed tWave)).outs ∧
    vnum 0 oAppend.a + edgeRegs tBed (teamOf tBed tWave) tEdge ≤ min tWave.allot.toNat 256 ∧ (teamOf tBed tWave).tdone = false ∧
    popcount (appendMask oAppend tBed) ≤ rsvLeft (teamOf tBed tWave) 0 := by decide +kernel
def tRing : Ring := { port := 0, base := 8192, slotBytes := 1024, room := none, pays := [] }
def tRingBed (pays : List Payload) : State :=
  { bed { tWave with sr := [(4, 16)] } { tNow with sr := [(4, 16)] } { tTeam with rings := [{ tRing with pays := pays }] } with
    runs := [{ tRun with edges := [{ tEdge with ring := true, slotKb := 1 }] }] }
def tFull : List Payload := (List.range 4).map (fun k => { slot := BitVec.ofNat 2 k, bytes := [], tag := 0, since := 0, team := none })
theorem witness_Taskemit : OperandsOk (.taskemit 0 5 4) tWave ∧
    (let s := tRingBed []; let w := srcWave s; let x := (readS w 5).toNat; let n := (readS w 4).toNat
      ringSlot s (teamOf s w) 0 = some 1024 ∧ n % 16 = 0 ∧ 16 ≤ n ∧ n ≤ 1024 ∧ x % 16 = 0 ∧ x + n ≤ (teamOf s w).winSize ∧
      ringOf (teamOf s w) 0 = some tRing ∧ freeRingSlot (teamOf s w) 0 = some 0) ∧
    freeRingSlot (teamOf (tRingBed tFull) tWave) 0 = none := by decide +kernel
theorem witness_TeamsFinish : Issuing tBed tWave tNow ∧ findTeam tBed tWave.team = some tTeam ∧ tTeam.status = .running ∧
    recldOpen tBed 6 = false ∧ recldOpen (tEvent (tPending (.recld ⟨.always, ⟨false, 10⟩, .self, none, .b4, 0⟩))) 6 = true :=
  ⟨tBed_issuing, rfl, rfl, by decide +kernel, by decide +kernel⟩
/-- The wave's team is fed by a RASTER node; lane 0 has a place, and another wave's lane an earlier one over the same sample. -/
def tLatch (pos lane : Nat) : LatchLane :=
  { lane := BitVec.ofNat 5 lane, run := 5, node := 1, pos := pos, px := 3, py := 4, samples := 1, perSample := false, entered := false, released := false }
def tFed (w v : Wave) : State :=
  { bed w v tTeam with waves := [v, { tNow with id := 8, latch := [tLatch 0 5] }],
                       runs := [{ tRun with nodes := [tNode, { tNode with kind := 4 }], edges := [{ tEdge with src := 1 }] }] }
theorem witness_LatchEntersAndReleases : rasterFed tBed tTeam = false ∧
    (let w := { tWave with latch := [tLatch 1 0] };
      rasterFed (tFed w w) tTeam = true ∧ latchBlocked (tFed w w) (tLatch 1 0) = true ∧ inMask (laneSet (tFed w w) .always &&& ~~~w.helper) 0 = true) ∧
    (let w := { tWave with latch := [tLatch 0 0] }; latchBlocked (tFed w w) (tLatch 0 0) = false) ∧ (tLatch 0 0).entered = false := by
  decide +kernel
theorem witness_SynchronisationCompletes : Issuing tBed tWave tNow ∧ tNow.team = tWave.team ∧ OperandsOk (.fence .acqRel .dev) tWave ∧ Drained tNow ∧
    OperandsOk (.prefetch oPrefetch) tWave ∧ OperandsOk (.qappend oAppend) tWave ∧ OperandsOk (.taskemit 0 5 4) tWave :=
  ⟨tBed_issuing, rfl, by decide, by decide, by decide, by decide, by decide⟩

/-! ### Witnesses: the engine, tests, traps and the handler -/

/-- The quad of waves 0 to 3 of the team; the wave 7 is its number 0. -/
def tQuadWave (w : Wave) (n : Nat) : Wave := { w with id := 7 + n, num := BitVec.ofNat 5 n, quad := 0x18820 }
def tQuadTeam : Team := { tTeam with nwaves := 4, tiles := 8, tblocks := [0], winSize := 65536 }
def tQuad (es : List Entry) : State :=
  { bed (tQuadWave tWave 0) (tQuadWave tNow 0) tQuadTeam with
    waves := [tQuadWave tNow 0, tQuadWave tNow 1, tQuadWave tNow 2, tQuadWave tNow 3],
    engines := { engineReset with entries := es } :: List.replicate 31 engineReset,
    clusters := { clusterReset with pool := 64, clk := 1000 } :: List.replicate 31 clusterReset }
def tEntry (i : Instr) (n : Nat) : Entry :=
  { madeEntry (tQuad []) (tQuadWave tNow 0) i 0 0 with
    parts := (List.range n).map (fun k => { partFrom (tQuad []) (tQuadWave tNow 0) i with wave := 7 + k }) }
theorem tQuad_ok : QuadOk (tQuad []) (tQuadWave tWave 0) :=
  ⟨fun j k hj hk => (by decide +kernel : ∀ j < 4, ∀ k < 4, quadNum (tQuadWave tWave 0).quad j = quadNum (tQuadWave tWave 0).quad k → j = k) j hj k hk,
    ⟨0, by decide, by decide +kernel⟩,
    fun k h => ⟨(by decide +kernel : ∀ k < 4, quadNum (tQuadWave tWave 0).quad k < 4) k h, tQuadWave tNow k,
      (by decide +kernel : ∀ k < 4, waveOfNum (tQuad []) 6 (quadNum (tQuadWave tWave 0).quad k) = some (tQuadWave tNow k)) k h, rfl, rfl⟩⟩
def iMzero : Instr := .mzero .always 1
theorem witness_MatrixPartsGather : matrixInstr iMzero = true ∧ Issuing (tQuad []) (tQuadWave tWave 0) (tQuadWave tNow 0) ∧
    Drained (tQuadWave tNow 0) ∧ OperandsOk iMzero (tQuadWave tWave 0) ∧ PartOk iMzero (tQuad []) (tQuadWave tWave 0) .h ∧
    gathering (tQuad []) = none ∧ freeEntry (getEngine (tQuad []) 0) = some 0 ∧
    gathering (tQuad [tEntry iMzero 1]) = some (tEntry iMzero 1) ∧
    freeEntry { engineReset with entries := (List.range 16).map (fun k => { tEntry iMzero 4 with idx := BitVec.ofNat 4 k }) } = none :=
  ⟨rfl, ⟨rfl, rfl⟩, by decide, by decide, ⟨by decide +kernel, rfl, by decide +kernel, fun _ h => by simp [iMzero] at h, by decide +kernel, tQuad_ok,
    by decide +kernel, by decide +kernel, by decide +kernel⟩, by decide +kernel, by decide +kernel, by decide +kernel, by decide +kernel⟩
def tDone (i : Instr) (n : Nat) : Entry := { tEntry i 4 with state := .running, loop := { (tEntry i 4).loop with product := n } }
theorem witness_MatrixOperationsRetire : Retiring (tQuad [tDone iMzero 1]) (tDone iMzero 1) tQuadTeam :=
  ⟨by decide +kernel, by decide, ⟨0, rfl⟩, rfl, rfl, rfl, by decide +kernel⟩
def iMiter : Instr := .miter ⟨.always, 6, 3, 1, 8, .ns⟩
theorem witness_MiterIterations : ∃ o, (getEngine (tQuad [tDone iMiter 4]) 0).entries.find? iterationReady = some (tDone iMiter 4) ∧
    (tDone iMiter 4).instr = .miter o ∧ (∃ n, (tDone iMiter 4).kind = .quad tQuadTeam.id n) ∧ findTeam (tQuad [tDone iMiter 4]) 6 = some tQuadTeam ∧
    ((tDone iMiter 4).parts.map (fun p => p.wave)).Nodup := ⟨_, by decide +kernel, rfl, ⟨0, rfl⟩, rfl, by decide +kernel⟩
def tReady : Entry := { tEntry iMzero 4 with state := .ready, eligibleSince := some 900 }
theorem witness_EngineGrantsPasses :
    (let s := tQuad [tReady]; let g := markEligible 1000 (getEngine s 0);
      engineBusy g = false ∧ tReady ∈ g.entries ∧ tReady.eligibleSince ≠ none ∧ mayStart s tReady = true ∧ (∀ x ∈ g.entries, x = tReady) ∧
      (∀ e ∈ (getEngine s 0).entries, e.tokens = 0)) ∧
    engineBusy (markEligible 1000 (getEngine (tQuad [tDone iMzero 1]) 0)) = true ∧
    (let e := { tReady with waitTokens := some 900, eligibleSince := none, state := .running }; let s := tQuad [e];
      (getEngine s 0).entries.find? (fun e => e.waitTokens.isSome) = some e ∧ s.thermtrip = false ∧ (getCluster s 0).serving = none ∧
      (clusterGrants s 0).any (fun b => decide (b.who = .engine)) = true) := by decide +kernel
def oNeval : Neval := ⟨.always, ⟨false, 10⟩, ⟨false, 20⟩, .vec ⟨false, 21⟩, 0, 0⟩
def tGather : Gather := { idx := 0, ctx := 0, handle := 0, rows := [], opened := 0, closed := false }
def tTile : Entry := { plainEntry (.net tGather) 0 0 0 with state := .running, tokens := 64 }
theorem witness_NetworkEvaluation : Issuing tBed tWave tNow ∧ OperandsOk (.neval oNeval) tWave ∧
    (let q := ctxStackOf tBed 0 0; ¬ (q.netQ ≠ 0 ∧ q.netQ.toNat < q.usedNet + 32)) ∧ tNow.cntNet ≠ 255 ∧ nevalEngine oNeval tBed ≠ none ∧
    (let s := { tQuad [] with engines := { engineReset with gathers := [tGather] } :: List.replicate 31 engineReset };
      tGather ∈ (getEngine s 0).gathers ∧ ((getEngine s 0).gathers.map (fun y => y.idx)).Nodup ∧ tGather.opened + 256 ≤ (getCluster s 0).clk) ∧
    (let s := { tQuad [tTile] with stks := [{ stackReset with mclk := 9000 }, stackReset] }; layerEntry (getEngine s 0) = some (tTile, tGather) ∧ tTile.parts = [] ∧ layerWaits s 0 tGather 0 = false) ∧
    (let p := { tOp (.neval oNeval) with left := 0 }; let w := { tNow with nets := [p], cntNet := 1 };
      findWave (tEvent w) 7 = some w ∧ w.frame = none ∧ waveLive w = true ∧ p.results = []) :=
  ⟨tBed_issuing, by decide, by decide +kernel, by decide, by decide +kernel, by decide +kernel, by decide +kernel, by decide +kernel⟩

/-! ### Translations for every meanwhile: the TLB entry of the fixture holds each address in its own place -/

theorem tlb_place (t : State) (h : t.tlbs = [tTlb]) (hs : t.svc = serviceReset) (va : DWord) (acc : Access) (hva : va.toNat < 68719476736) :
    translateAt t 0 0 va acc = .ok { host := false, addr := va.toNat } := by
  have h1 : va.toNat < 4503599627370496 := by omega
  have h2 : ¬ 68719476736 ≤ va.toNat := by omega
  have e1 : coreLeaf t 0 0 va acc = .ok tTlb.leaf := by
    simp [coreLeaf, tlbLeaf, h, tTlb, h1]
  unfold translateAt
  rw [e1]
  simp [placeIn, leafPlace, tTlb, hs, serviceReset, Config.gddrFull, Nat.mod_eq_of_lt h1, h2]
theorem tlb_placed (s : State) (h : s.tlbs = [tTlb]) (hs : s.svc = serviceReset) (va : DWord) (acc : Access) (W : Loc → Prop)
    (hva : va.toNat < 68719476736) : Placed s 0 0 va acc { host := false, addr := va.toNat } W :=
  fun t h1 _ h2 _ _ => tlb_place t (h1.trans h) (h2.trans hs) va acc hva
def tPlace (base : Nat) (k : Nat) : Loc := { host := false, addr := base + k }
theorem tlb_mapped (s : State) (h : s.tlbs = [tTlb]) (hs : s.svc = serviceReset) (base : DWord) (n : Nat) (acc : Access)
    (hb : base.toNat + n ≤ 68719476736) : Mapped s 0 0 base n acc (tPlace base.toNat) where
  fits := by omega
  stands := fun k hk => by
    have e : (base + BitVec.ofNat 64 k).toNat = base.toNat + k := by
      rw [BitVec.toNat_add, BitVec.toNat_ofNat, Nat.mod_eq_of_lt (a := k) (by omega), Nat.mod_eq_of_lt (by omega)]
    have := tlb_placed s h hs (base + BitVec.ofNat 64 k) acc (fun b => ∃ j, j < n ∧ b = tPlace base.toNat j) (by omega)
    rwa [e] at this
  runs := fun k _ _ => rfl
  own := fun j k _ _ e => by simpa [tPlace] using e
  inside := fun k hk => by simp only [tPlace]; omega
theorem cells_bytes (s : State) (base n : Nat) (h : s.cc = []) :
    HoldsBytes s 0 (tPlace base) ((List.range n).map (fun k => cellsRead s.mem (base + k))) n := by
  refine ⟨by simp, fun k hk x hx => ?_⟩
  have z : ∀ l, ccByte s 0 l = 0 := fun l => by simp [ccByte, h, cellsRead]
  simp only [Sees, seenByte, z, tPlace, homeByte] at hx
  have e : (((List.range n).map (fun k => cellsRead s.mem (base + k))).getD k 0) = cellsRead s.mem (base + k) := by
    simp [List.getD_eq_getElem?_getD, List.getElem?_map, List.getElem?_range hk]
  rw [e]
  simpa [cbValid, cbDirty] using hx

/-! ### Witnesses: tests and traversal stacks -/

def iBox : Instr := .trvBox ⟨.always, ⟨false, 10⟩, 3, ⟨false, 20⟩, ⟨false, 30⟩⟩
def tTests (i : Instr) : Wave := { tNow with tests := [tOp i], cntTest := 1 }
theorem witness_TraversalTests : Issuing tBed tWave tNow ∧ Drained tNow ∧ OperandsOk iBox tWave ∧
    (∀ l ∈ lanesOf (captured tBed tWave tNow iBox).lanes, (opPair (captured tBed tWave tNow iBox) .b l).toNat % testBytes iBox = 0 ∧
      (opPair (captured tBed tWave tNow iBox) .b l).toNat < 2 ^ 52) ∧ tNow.cntTest ≠ 255 ∧
    (findWave (tEvent (tTests iBox)) 7 = some (tTests iBox) ∧ (tTests iBox).tests = [tOp iBox] ∧ (tTests iBox).frame = none ∧
      waveLive (tTests iBox) = true ∧ lanesOf ((tOp iBox).lanes &&& ~~~(tOp iBox).helper) = [0]) ∧
    Placed (tEvent (tTests iBox)) 0 0 (opPair (tOp iBox) .b 0) .read { host := false, addr := (opPair (tOp iBox) .b 0).toNat } (fun _ => False) ∧
    Sound (tEvent (tTests iBox)) 0 { host := false, addr := 0 } (testBytes iBox) (True) ∧
    translateAt { tEvent (tTests iBox) with tlbs := [] } 0 0 (opPair (tOp iBox) .b 0) .read = .error 0 :=
  ⟨tBed_issuing, by decide, by decide, by decide +kernel, by decide, by decide +kernel,
    tlb_placed _ rfl rfl _ _ _ (by decide +kernel), .inl (by decide +kernel), by decide +kernel⟩
/-- Lanes with 16 entries, and with 17, of which one lies in private memory. -/
def tDeep (n : Nat) (w : Wave) : Wave :=
  { w with tdepth := cellsWriteAll [] (allLanes.map (fun l => (l, BitVec.ofNat 16 n))), everLive := 1, slotA := .ready { tPath 0x1000 with mask := 1 } }
def tStackBed (n psize : Nat) : State :=
  { tWith (tDeep n) with ctxs := { ctxReset with state := .live, psize := BitVec.ofNat 17 psize } :: List.replicate 63 ctxReset }
theorem witness_TraversalStacks : Issuing (tStackBed 16 64) (tDeep 16 tWave) (tDeep 16 tNow) ∧ Drained (tDeep 16 tNow) ∧
    OperandsOk (.trvPush .always ⟨false, 1⟩) tWave ∧ OperandsOk (.trvPop .always ⟨false, 1⟩ 3) tWave ∧
    (let s := tStackBed 16 64; let w := tDeep 16 tWave;
      lanesOf (laneSet s .always) = [0] ∧ trvDepth w 0 = 16 ∧ w.tsbase.toNat + 4 * (trvDepth w 0 - 16) + 4 ≤ (getCtx s (waveCtx s w)).psize.toNat ∧
      (lanesOf (laneSet s .always)).find? (pushBad (tStackBed 16 0) w) = some 0 ∧ trvDepth (tDeep 17 tNow) 0 = 17) ∧
    Placed (tStackBed 16 64) 0 0 (privAddr tTeam 0 0) .write { host := false, addr := (privAddr tTeam 0 0).toNat } (fun b => ∃ k, k < 4 ∧ b = tPlace 0 k) ∧
    Placed (tStackBed 17 64) 0 0 (privAddr tTeam 0 0) .read { host := false, addr := (privAddr tTeam 0 0).toNat } (fun _ => False) :=
  ⟨⟨rfl, rfl⟩, by decide, by decide, by decide, by decide +kernel, tlb_placed _ rfl rfl _ _ _ (by decide +kernel),
    tlb_placed _ rfl rfl _ _ _ (by decide +kernel)⟩

/-! ### Witnesses: traps and the handler -/

/-- Context 0 with a handler and n frames from address 0. -/
def tHandler (n : Nat) (used : List (BitVec 12)) : Ctx :=
  { ctxReset with state := .live, handler := 0x8000, tfcount := BitVec.ofNat 12 n, frames := used, bpten := true }
def tTrapBed (x : Ctx) (w v : Wave) : State := { bed w v tTeam with ctxs := x :: List.replicate 63 ctxReset, who := { agentReset with wave := 7 } }
theorem tTrap_can (w v : Wave) (h : v.id = 7 ∧ v.team = 6 ∧ v.frame = none ∧ v.core = 0 ∧ v.pend = []) :
    CanTrap (tTrapBed (tHandler 1 []) w v) v tTeam 0 (tPlace 0) where
  wave := by simp [tTrapBed, bed, findWave, findWaveIn, h.1]
  team := by simp [tTrapBed, bed, findTeam, findTeamIn, h.2.1, tTeam]
  own := ⟨rfl, h.2.2.1, show (tHandler 1 []).handler ≠ 0 by decide, show 0 < 64 by decide⟩
  frame := ⟨show 0 < (tHandler 1 []).tfcount.toNat by decide, show 0 ∉ (tHandler 1 []).frames by decide, fun m hm => absurd hm (by simp)⟩
  mapped := by rw [h.2.2.2.1]; exact tlb_mapped _ rfl rfl _ _ _ (show ((tHandler 1 []).tfbase + BitVec.ofNat 64 (71168 * (0 : BitVec 12).toNat)).toNat + 71168 ≤ 68719476736 by decide)
  settled := by simp [h.2.2.2.2]
  sound := rfl
theorem witness_TrapEntry : CanTrap (tTrapBed (tHandler 1 []) tWave tNow) tNow tTeam 0 (tPlace 0) ∧
    (∀ m : BitVec 12, m.toNat < (tHandler 1 [0]).tfcount.toNat → m ∈ (tHandler 1 [0]).frames) ∧
    (let s := tTrapBed { tHandler 1 [] with handler := 0, flcount := 4 } tWave tNow; let x := getCtx s tTeam.ctx;
      (getCtx s tTeam.ctx).handler = 0 ∧ (∀ x ∈ s.waves, x.team = tTeam.id → endFaults x = []) ∧ tTeam.status = .running ∧
      x.flcount ≠ 0 ∧ (x.flhead.toNat + 1) % x.flcount.toNat ≠ x.fltail.toNat % x.flcount.toNat ∧
      x.flbase.toNat + 64 * x.flhead.toNat + 64 ≤ s.svc.installed) :=
  ⟨tTrap_can _ _ (by decide), by
    intro m h
    have : m = 0 := BitVec.eq_of_toNat_eq (Nat.lt_one_iff.mp h)
    simp [this, tHandler], by decide +kernel⟩
def tFault : TrapInfo :=
  { cause := .matrixDivergence, code := 0, deliv := .boundary, slot := 2, fkind := 0, flane := 0, faddr := 0, tpc := 0x1000, resume := 0, iter := 1, res := 0 }
theorem witness_TrapsRaised : Issuing (tTrapBed (tHandler 1 []) tWave tNow) tWave tNow ∧ OperandsOk (.trap 5) tWave ∧ OperandsOk (.bpt 5) tWave ∧
    waveCtx (tTrapBed (tHandler 1 []) tWave tNow) tWave = tTeam.ctx ∧ (getCtx (tTrapBed (tHandler 1 []) tWave tNow) tTeam.ctx).bpten = true ∧
    (getCtx tBed (waveCtx tBed tWave)).bpten = false ∧
    (let v := { tNow with bfaults := [tFault] }; let s := tTrapBed (tHandler 1 []) tWave v;
      CanTrap s v tTeam 0 (tPlace 0) ∧ s.who.wave = v.id ∧ mayIssue s v = true ∧ inTurn s v = true) ∧
    (let s := tTrapBed (tHandler 1 []) tWave tNow;
      mayIssue s tNow = true ∧ inTurn s tNow = true ∧ tNow.fair.toNat < 64 ∧ getSlot tNow tNow.cur = .ready (tPath 0x1020) ∧
      fetchBits { s with tlbs := [{ tTlb with leaf := { tTlb.leaf with x := false } }] } 0 0 (tPath 0x1020).pc =
        .error { cause := .translation, fkind := 2, lane := 0, addr := 0x1020 }) ∧
    (let v := { tNow with frameWait := some tFault }; let s := tTrapBed (tHandler 1 []) tWave v;
      CanTrap s v tTeam 0 (tPlace 0) ∧ waveLive v = true ∧ waveStopped s v = false ∧ inTurn s v = true) :=
  ⟨⟨rfl, rfl⟩, by decide, by decide, by decide +kernel, by decide, by decide +kernel,
    ⟨tTrap_can _ _ (by decide), by decide +kernel⟩, by decide +kernel, ⟨tTrap_can _ _ (by decide), by decide +kernel⟩⟩
/-- Memory with a frame at 0 that holds one replay entry, of an RCP, and an image at 0x20000 with an allotment of 64. -/
def tFrameMem : Cells 8 :=
  [(6, 0x10)] ++ cellsWriteLE [] 0xC00 0x7000280200000000 8 ++ [(0xC10, 1), (0x20000 + 137, 8)]
def tFrame : List Byte := (List.range 71168).map (fun k => cellsRead tFrameMem (0 + k))
def tImage : List Byte := (List.range (0x11400 + 128 * 64)).map (fun k => cellsRead tFrameMem (0x20000 + k))
def tIn (w : Wave) : Wave := { w with frame := some 0, status := .trapped, sr := [(10, 0x20000)] }
def tHandling : State := { tTrapBed (tHandler 1 [0]) (tIn tWave) (tIn tNow) with mem := tFrameMem }
theorem tHandling_ok : Handling tHandling (tIn tWave) (tIn tNow) tTeam 0 (tPlace 0) tFrame where
  issuing := ⟨rfl, rfl⟩
  drained := by decide
  same := ⟨rfl, rfl, rfl, rfl, rfl⟩
  team := ⟨rfl, by decide, rfl⟩
  reads := tlb_mapped _ rfl rfl _ _ _ (by decide)
  writes := tlb_mapped _ rfl rfl _ _ _ (by decide)
  aligned := by decide
  bytes := cells_bytes _ _ _ rfl
  sound := rfl
theorem witness_HandlerInstructions :
    (Issuing tBed tWave tNow ∧ tWave.frame = none ∧ OperandsOk .trapret tWave ∧ OperandsOk .haltw tWave) ∧
    Handling tHandling (tIn tWave) (tIn tNow) tTeam 0 (tPlace 0) tFrame ∧
    OperandsOk (.rplay 0) (tIn tWave) ∧ OperandsOk (.savew 10) (tIn tWave) ∧ OperandsOk (.restw 10) (tIn tWave) ∧
    (¬ (numberAt tFrame 6 2 / 16 % 64 ≤ 0 ∨ numberAt tFrame 116 4 / 2 ^ 0 % 2 = 1) ∧ (frEntry tFrame 0).isSome = true ∧
      (frEntry tFrame 0).map (fun p => (entryFault tHandling (tIn tNow) (entryOp (tIn tNow) 0 p), movesStacks p.raw)) = some (none, false)) ∧
    (entriesFault tHandling tFrame (openEntries tFrame) = none ∧ numberAt tFrame 24 8 % 32 = 0) ∧
    (imageAddr 10 tHandling = 0x20000 ∧ 8 * numberAt tImage 137 1 = 64) ∧
    HoldsBytes tHandling 0 (tPlace 0x20000) tImage (0x11400 + 128 * 64) ∧
    Mapped tHandling 0 0 0x20000 (0x11400 + 128 * 64) .write (tPlace 0x20000) ∧ Mapped tHandling 0 0 0x20000 (0x11400 + 128 * 64) .read (tPlace 0x20000) ∧
    (∀ j k, j < 71168 → k < 0x11400 + 128 * 64 → tPlace 0 j ≠ tPlace 0x20000 k) ∧
    (∀ x ∈ tHandling.waves, x.team = tTeam.id → endFaults x = []) ∧ (getCtx tHandling 0).flcount = 0 :=
  ⟨⟨tBed_issuing, rfl, by decide, by decide⟩, tHandling_ok, by decide, by decide, by decide, by decide +kernel, by decide +kernel, by decide +kernel,
    cells_bytes _ _ _ rfl, tlb_mapped _ rfl rfl _ _ _ (by decide), tlb_mapped _ rfl rfl _ _ _ (by decide),
    fun j k hj _ e => by simp [tPlace] at e; omega, by decide +kernel, rfl⟩

/-! ### Witnesses: Keyway and the host -/

def kNode : Nat := 128 + 2 ^ 47 + 8 * 2 ^ 78 + 16 * 2 ^ 176
def kLaunch : Nat := 0x4000 + 2 ^ 64 + 0x6000 * 2 ^ 128 + 0x7000 * 2 ^ 192
def kCopy : Nat := 0x6000 + 0x8000 * 2 ^ 64 + 32 * 2 ^ 128
/-- Queue 0 RUNNING, with a graph of one node at 0x4000, a launch block at 0x5000 and copy blocks at 0x5100 (to memory), 0x5200
(to the weight store) and 0x5300 (with a length of 0). -/
def kBed (f : Queue → Queue) : State :=
  let s := withQueue (withCode State.reset 0 8)
  let m := cellsWriteLE s.mem 0x4000 (1 + 2 ^ 16 + 0x4040 * 2 ^ 64) 64
  let m := cellsWriteLE (cellsWriteLE m 0x4040 kNode 64) 0x5000 kLaunch 64
  let m := cellsWriteLE (cellsWriteLE m 0x5100 kCopy 32) 0x5200 (kCopy + 2 ^ 160) 32
  let m := cellsWriteLE m 0x5300 (kCopy - 32 * 2 ^ 128) 32
  updQueue { s with mem := m } 0 (fun x => f { x with qwr := 64, regs := [(1, 0x3000), (2, 3), (3, 0x3001), (4, 0x5000), (5, 0x5100), (6, 0x5200), (7, 0x5300)] })
def kPlain : State := kBed id
def kAt (a : Nat) : Loc := { host := false, addr := a }
theorem witness_KeywayWords : kPlain.iss.queue.toNat < kPlain.queues.length ∧ laneValue kPlain (.qadd 0 1 2) = some (0, 0x3003) ∧
    WordAt kPlain 0 (laneReg kPlain 1 + 0) .read (kAt 0x3000) ∧ NoTags kPlain (kAt 0x3000) ∧ NoWord kPlain 0 (laneReg kPlain 3 + 0) .read ∧
    WordAt kPlain 0 (laneReg kPlain 1 + 0) .write (kAt 0x3000) ∧ NoWord kPlain 0 (laneReg kPlain 3 + 0) .write ∧
    (let x := getQueue kPlain 0;
      ¬ holds .eq (laneReg kPlain 1) (laneReg kPlain 2) ∧ holds .ne (laneReg kPlain 1) (laneReg kPlain 2) ∧
      insideRing x (wordsOn x 3) ∧ ¬ insideRing x (wordsOn x 9) ∧ laneReg kPlain 2 - 1 ≠ 0 ∧ laneReg (kBed (fun x => { x with regs := [(2, 1)] })) 2 - 1 = 0 ∧
      x.rstack = [] ∧ 4 ≤ (getQueue (kBed (fun x => { x with rstack := [0, 0, 0, 0] })) 0).rstack.length) :=
  ⟨by decide, by decide +kernel, ⟨by decide +kernel, by decide +kernel, .inr (by decide)⟩, .inr (by decide), .inl (by decide +kernel),
    ⟨by decide +kernel, by decide +kernel, .inr (by decide)⟩, .inl (by decide +kernel),
    by show ¬ laneReg kPlain 1 = laneReg kPlain 2; decide +kernel, by show laneReg kPlain 1 ≠ laneReg kPlain 2; decide +kernel,
    by show _ % _ % _ < _ % _ % _; decide +kernel, by show ¬ _ % _ % _ < _ % _ % _; decide +kernel, by decide +kernel⟩
def kWait (us : Word) (woken : Bool) : QWait := { addr := 0x3000, cc := .eq, d := 0, b := 9, us := us, first := 0, woken := woken, last := 0 }
def kWaiting (w : QWait) : State := kBed (fun x => { x with state := .waiting, wait := some w })
def kCopying (b n : Nat) (c : CtxState) : State :=
  updCtx (updQueue { kPlain with who := { agentReset with count := 1 } } 0 (fun x => { x with copy := some { block := BitVec.ofNat 256 b, units := n } })) 0
    (fun x => { x with state := c, wsize := 0x10000 })
def kGraph : Descriptor := { status := 0, nodes := [mkNode kNode], edges := [], rasters := [] }
theorem witness_KeywaySignalsAndLaunches :
    (WordAt kPlain 0 (laneReg kPlain 1) .write (kAt 0x3000) ∧ NoTags kPlain (kAt 0x3000) ∧ NoWord kPlain 0 (laneReg kPlain 3) .write) ∧
    (WordAt kPlain 0 (laneReg kPlain 1) .read (kAt 0x3000) ∧ holds .eq (homeWord kPlain (kAt 0x3000)) (laneReg kPlain 9) ∧
      ¬ holds .ne (homeWord kPlain (kAt 0x3000)) (laneReg kPlain 9) ∧ NoWord kPlain 0 (laneReg kPlain 3) .read) ∧
    (let s := { kWaiting (kWait 1 false) with stks := [{ stackReset with mclk := 9000 }, stackReset] };
      (getQueue s 0).wait = some (kWait 1 false) ∧ (getQueue s 0).state = .waiting ∧ (getQueue s 0).paused = false ∧ 0 + Config.clocksPerUs * 1 ≤ (getStack s 0).mclk) ∧
    (let s := kWaiting (kWait 0 true); WordAt s 0 0x3000 .read (kAt 0x3000) ∧ NoTags s (kAt 0x3000) ∧ holds .eq (homeWord s (kAt 0x3000)) (laneReg s 9)) ∧
    (readBlock kPlain 0 (laneReg kPlain 5) 32 = some kCopy ∧ copyBad kCopy = false ∧ cbWeight kCopy = false ∧
      readBlock kPlain 0 (laneReg kPlain 7) 32 = some (kCopy - 32 * 2 ^ 128) ∧ copyBad (kCopy - 32 * 2 ^ 128) = true ∧
      readBlock kPlain 0 (laneReg kPlain 6) 32 = some (kCopy + 2 ^ 160) ∧ copyBad (kCopy + 2 ^ 160) = false ∧ cbWeight (kCopy + 2 ^ 160) = true ∧
      (getCtx kPlain 0).wsize.toNat < cbDst (kCopy + 2 ^ 160) + cbLen (kCopy + 2 ^ 160) ∧
      cbDst (kCopy + 2 ^ 160) + cbLen (kCopy + 2 ^ 160) ≤ (getCtx (kCopying kCopy 0 .idle) 0).wsize.toNat ∧ readBlock kPlain 0 (laneReg kPlain 3) 32 = none) ∧
    (let s := kCopying kCopy 0 .live; s.badAddr = none ∧ s.who.count = 1 ∧ 16 * 1 ≤ cbLen kCopy ∧ translate s 0 0x6000 .read = .ok (kAt 0x6000) ∧
      rangePoisoned s (kAt 0x6000) 16 = false ∧ 1 < cbLen kCopy / 16 ∧ translate s 0 0x8000 .write = .ok (kAt 0x8000)) ∧
    (let b := kCopy + 2 ^ 160; let s := kCopying b 1 .idle; 16 * 2 ≤ cbLen b ∧ cbLen b / 16 = 2 ∧ translate s 0 0x6010 .read = .ok (kAt 0x6010) ∧
      rangePoisoned s (kAt 0x6010) 16 = false ∧ (getCtx s 0).state ≠ .live ∧ bankRetired s 0 (weightBank (cbDst b + 16)) = false ∧ cbDst b + 16 + 16 ≤ 402653184) ∧
    (getCtx (kCopying kCopy 0 .saved) 0).state = .saved ∧
    (let s := { kPlain with nextId := 3 }; let r := newRun s 0 kGraph 0x7000 false; let s' := { s with runs := s.runs ++ [r], nextId := 4 };
      (getCtx s 0).state = .live ∧ readBlock s 0 (laneReg s 4) 64 = some kLaunch ∧ launchBad kLaunch = false ∧ launchBad (kLaunch - 2 ^ 64) = true ∧
      readAt s 0 0x4000 64 = some ((List.range 64).map (fun k => BitVec.ofNat 8 ((1 + 2 ^ 16 + 0x4040 * 2 ^ 64) / 256 ^ k))) ∧
      lbNode kLaunch < hdrNodes (1 + 2 ^ 16 + 0x4040 * 2 ^ 64) ∧ readGraph s (readAt s 0) (lbGraph kLaunch) (1 + 2 ^ 16 + 0x4040 * 2 ^ 64) = some kGraph ∧
      readGraph s (readAt s 0) (lbGraph kLaunch) (2 ^ 16 + 0x4040 * 2 ^ 64) = some (rejected 1) ∧ noRoom s 0 kGraph = false ∧
      noRoom { s with runs := List.replicate 4096 r } 0 { kGraph with nodes := List.replicate 256 { mkNode kNode with rsize := 256, qcap := 4096 } } = true ∧
      (∀ y ∈ s.runs, y.id ≠ s.nextId) ∧ injectRefused (updCtx s' 0 (fun x => { x with recq := 5, spillq := 5 })) r 0 0 1 = false ∧
      injectRefused s' r 0 0 1 = true ∧ readAt s 0 (lbRecs kLaunch) 16 = some (List.replicate 16 0)) :=
  ⟨⟨⟨by decide +kernel, by decide +kernel, .inr (by decide)⟩, .inr (by decide), .inl (by decide +kernel)⟩,
    ⟨⟨by decide +kernel, by decide +kernel, .inr (by decide)⟩, by show homeWord _ _ = laneReg _ _; decide +kernel,
      by show ¬ homeWord _ _ ≠ laneReg _ _; decide +kernel, .inl (by decide +kernel)⟩,
    by decide +kernel,
    ⟨⟨by decide +kernel, by decide +kernel, .inr (by decide)⟩, .inr (by decide), by show homeWord _ _ = laneReg _ _; decide +kernel⟩,
    by decide +kernel, by decide +kernel, by decide +kernel, by decide +kernel, by decide +kernel⟩

theorem filter_first (p : Nat → Bool) (n : Nat) (h0 : p 0 = true) (h : ∀ k, p (k + 1) = false) : (List.range (n + 1)).filter p = [0] := by
  rw [List.range_succ_eq_map, List.filter_cons, h0, List.filter_map]
  simp [Function.comp_def, h]
/-- An edit below 512 GiB goes through the first entry of the root table only. -/
theorem edit_first (s : State) (c : CtxNum) (va n : Nat) (e : Edit) (hn : 0 < n ∧ va + n ≤ 549755813888 ∧ va < 549755813888) :
    editCtx s c va n e =
      (let r : EditRange := { lo := va, hi := va + n, edit := e }
      match tableUnder s r 3 (ctxRoot s c) with
      | some q => if within r 0 549755813888 then (match editEntry r 3 0 0 (readPte s (ctxRoot s c)) with
        | some e => writePte s (ctxRoot s c) e
        | none => editTable r 2 q.1 0 q.2) else editTable r 2 q.1 0 q.2
      | none => if within r 0 549755813888 then (match editEntry r 3 0 0 (readPte s (ctxRoot s c)) with
        | some e => writePte s (ctxRoot s c) e
        | none => s) else s) := by
  have hf : (List.range (entryCount 3)).filter (fun k => meets { lo := va, hi := va + n, edit := e } (0 + k * entrySpan 3) (entrySpan 3)) = [0] := by
    refine filter_first _ 8191 ?_ ?_
    · simp [meets, show entrySpan 3 = 549755813888 from rfl]; omega
    · intro k; simp [meets, show entrySpan 3 = 549755813888 from rfl]; intros; omega
  unfold editCtx
  rw [editTable, hf]
  simp [show entrySpan 3 = 549755813888 from rfl, pteAt]
  split <;> split <;> simp_all
theorem mapped_none (s : State) (c : CtxNum) (va n : Nat) (h : s.mem = []) : mappedBytes s c va n = 0 := by
  have hp : ∀ a, readPte s a = 0#64 := by
    intro a; simp [readPte, cellsReadLE, h, cellsRead]
  have hz : ∀ (m : Nat) , (List.range m).flatMap (fun _ => ([] : List Leaf)) = [] := fun m => List.flatMap_eq_nil_iff.mpr (fun _ _ => rfl)
  simp [mappedBytes, ctxLeaves, tableLeaves, hp, show pteLeaf 0#64 = false from rfl, show pteTable 0#64 = false from rfl, hz]

theorem witness_HostRegisters :
    (let x := getQueue kPlain 0; fromFree x x.qwr.toNat ≤ fromFree x 72 ∧ fromFree x 8 < fromFree x x.qwr.toNat) ∧
    (let x := getQueue (kBed (fun x => { x with state := .idle })) 0; x.state = .idle ∧ x.en = true ∧ x.bound = true ∧ Covered x x.pc.toNat) ∧
    (getQueue kPlain 0).state ≠ .idle ∧ kPlain.boot.mode = .ready ∧ kPlain.badAddr = none ∧ (2 : DWord).getLsbD 1 = true ∧
    (getQueue (kBed (fun x => { x with en := false })) 0).en = false ∧ (getQueue kPlain 0).en = true ∧ kPlain.mail.busy = false ∧ kPlain.mail.done = false ∧
    { kPlain with mail := { kPlain.mail with busy := true } }.mail.busy = true ∧ overThreshold { kPlain with svc := { serviceReset with ras := [(0, 1)] } } 0 = true ∧
    kPlain.svc.installed ≤ 68719476736 ∧ 0 + [(0 : Byte)].length ≤ kPlain.svc.installed := by decide +kernel

/-! ### Witnesses: packets -/

def fld (t : BitVec 16) (n : Nat) (v : Nat) : PktField := { ftype := t, value := (List.range n).map (fun k => BitVec.ofNat 8 (v / 256 ^ k)) }
def pkt (fs : List PktField) : Packet := { seq := 9, ctx := 0, malformed := false, fields := fs }
def pWrite (o v : Nat) : Packet := pkt [fld 0x8010 2 o, fld 0x8011 8 v]
def pMap (va n pa a : Nat) : Packet := pkt [fld 0x8020 8 va, fld 0x8022 8 n, fld 0x8021 8 pa, fld 0x8023 2 a]
def pUnmap (va n : Nat) : Packet := pkt [fld 0x8020 8 va, fld 0x8022 8 n]
def pProtect (va n a : Nat) : Packet := pkt [fld 0x8020 8 va, fld 0x8022 8 n, fld 0x8023 2 a]
def pQbind (q pc : Nat) : Packet := pkt [fld 0x8030 1 q, fld 0x0031 3 pc]
/-- A state whose context 0 is in a state, with an empty root table, and whose queue 0 is bound to it and IDLE. -/
def pBed (c : CtxState) : State :=
  updCtx (updQueue State.reset 0 (fun x => { x with bound := true })) 0
    (fun x => { x with state := c, ptroot := 0x10000, memq := 20000, savebase := 0x30000 })
theorem accepted (i : Instr) (s : State) (type : BitVec 16) (known : List (BitVec 16 × Nat)) (p : Packet) (h : packetOf i = some (type, known, p))
    (hs : s.boot.mode = .ready ∧ s.badAddr = none) (hp : WellMade known p ∧ NoRz known p ∧ AllKnown known p) : Accepted i s type p :=
  ⟨known, h, .inl (by rw [hs.1]; decide), hp.1, hp.2.1, hp.2.2, hs.2⟩
theorem witness_ContextPackets :
    (let s := pBed .idle; packetOf (.ctxbind (pkt [])) = some (0x0001, [], pkt []) ∧ ¬ TypeTaken { s with boot := { bootReset with mode := .recovery } } 0x0001 ∧
      TypeTaken s 0x0001 ∧ ¬ WellMade [] { pkt [] with malformed := true } ∧ WellMade [] (pkt [fld 0x8777 1 0]) ∧
      (pkt [fld 0x8777 1 0]).fields.find? (fun f => f.ftype.getLsbD 15 && ([] : List (BitVec 16 × Nat)).all (fun k => decide (k.1 ≠ f.ftype))) = some (fld 0x8777 1 0)) ∧
    (Accepted (.ctxbind (pkt [])) (pBed .free) 1 (pkt []) ∧ Accepted (.ctxfree (pkt [])) (pBed .idle) 2 (pkt []) ∧ (getCtx (pBed .free) 0).state = .free ∧
      (getCtx (pBed .idle) 0).state = .idle ∧ (∀ y ∈ (pBed .idle).queues, y.bound = true → y.ctx = 0 → y.state = .idle) ∧
      (∃ y ∈ (kBed id).queues, y.bound = true ∧ y.ctx = 0 ∧ y.state ≠ .idle)) ∧
    (Accepted (.ctxwrite (pWrite 0x78 0x1000)) (pBed .idle) 3 (pWrite 0x78 0x1000) ∧ valueAt (pWrite 0x78 0x1000) 0x8010 0 = 0x78 ∧ ¬ OutOfRange 0x78 0x1000 ∧
      OutOfRange 0x101 0 ∧ OutOfRange 0x10 8 ∧ OutOfRange 0x20 0x18010000 ∧ IdleOnly 0x28 ∧ AreaInUse (pBed .saved) 0 0x78 ∧ ¬ AreaInUse (pBed .idle) 0 0x78) ∧
    (Accepted (.ctxread (pkt [fld 0x8010 2 8])) (pBed .idle) 4 (pkt [fld 0x8010 2 8]) ∧ valueAt (pkt [fld 0x8010 2 8]) 0x8010 0 = 8) ∧
    (let p := pMap 0x40000000 0x40000000 0x80000000 3; let s := pBed .idle; Accepted (.map p) s 0x10 p ∧ mappedBytes s 0 0x40000000 0x40000000 = 0 ∧
      (editCtx s 0 0x40000000 0x40000000 (.map 0x80000000 3)).badAddr = none ∧ PageRange (valueAt p 0x8020 0) (valueAt p 0x8022 0) ∧
      ¬ PageRange 1 0x1000 ∧ (getCtx s 0).membytes = 0 ∧ (0x40000000 + 65535) / 65536 ≤ (getCtx s 0).memq.toNat ∧
      (getCtx s 0).memq.toNat < (2 * 0x40000000 + 65535) / 65536 ∧ Settled s 0 0x40000000 0x80000000 ∧ ¬ Settled { s with tlbs := [tTlb] } 0 0x4000 0x5000) ∧
    (let p := pUnmap 0x4000 0x1000; let s := pBed .idle; Accepted (.unmap p) s 0x11 p ∧
      (editCtx s 0 0x4000 0x1000 .unmap).badAddr = none ∧ PageRange (valueAt p 0x8020 0) (valueAt p 0x8022 0)) ∧
    (let p := pProtect 0x4000 0x1000 1; let s := pBed .idle; Accepted (.protect p) s 0x12 p ∧
      (editCtx s 0 0x4000 0x1000 (.protect true false)).badAddr = none ∧ PageRange (valueAt p 0x8020 0) (valueAt p 0x8022 0) ∧
      ¬ valueAt p 0x8023 0 / 4 % 2 = 1) ∧
    (let p := pQbind 0 8; let s := pBed .idle; Accepted (.qbind p) s 0x18 p ∧ valueAt p 0x8030 0 = 0 ∧ valueAt p 0x0031 0 = 8 ∧ 8 < 2 ^ (getQueue s 0).qsize.toNat ∧
      (getQueue s 0).state = .idle ∧ (getQueue kPlain 0).state ≠ .idle) ∧
    (let p := pkt [fld 0x8060 2 2]; Accepted (.telemetry p) (pBed .idle) 0x50 p ∧ valueAt p 0x8060 0 = 2 ∧ valueAt (pkt [fld 0x8060 2 5]) 0x8060 0 = 5) := by
  refine ⟨by decide +kernel, ⟨accepted _ _ _ _ _ rfl ⟨rfl, rfl⟩ (by decide), accepted _ _ _ _ _ rfl ⟨rfl, rfl⟩ (by decide), by decide +kernel⟩, ⟨accepted _ _ _ _ _ rfl ⟨rfl, rfl⟩ (by decide), by decide +kernel⟩, ⟨accepted _ _ _ _ _ rfl ⟨rfl, rfl⟩ (by decide), by decide +kernel⟩,
    ⟨accepted _ _ _ _ _ rfl ⟨rfl, rfl⟩ (by decide), mapped_none _ _ _ _ rfl, by rw [edit_first _ _ _ _ _ (by decide)]; decide +kernel, by decide +kernel⟩,
    ⟨accepted _ _ _ _ _ rfl ⟨rfl, rfl⟩ (by decide), by rw [edit_first _ _ _ _ _ (by decide)]; decide +kernel, by decide +kernel⟩, ⟨accepted _ _ _ _ _ rfl ⟨rfl, rfl⟩ (by decide), by rw [edit_first _ _ _ _ _ (by decide)]; decide +kernel, by decide +kernel⟩,
    ⟨accepted _ _ _ _ _ rfl ⟨rfl, rfl⟩ (by decide), by decide +kernel⟩, ⟨accepted _ _ _ _ _ rfl ⟨rfl, rfl⟩ (by decide), by decide +kernel⟩⟩

def tSaved (st : TeamStatus) : Team := { tTeam with status := st }
/-- Context 0 IDLE with a weight window, the tables of kPlain and no queue bound. -/
def pLoad (c : CtxState) : State := updCtx { kPlain with queues := List.replicate 32 queueReset } 0 (fun x => { x with state := c, wsize := 0x10000 })
def pPower (n : Nat) (fs : List PktField) : Packet := pkt (fld 0x8070 1 n :: fs)
def tSlot : FwSlot := { version := 2, image := [] }
def bBed (b : Boot) : State := { State.reset with boot := b }
theorem witness_FirmwareAndSavePackets :
    (let p := pkt []; let s := pBed .live; Accepted (.preempt p) s 0x20 p ∧ valueAt p 0x0040 1 = 1 ∧ valueAt (pkt [fld 0x40 1 0]) 0x0040 1 = 0 ∧
      valueAt (pkt [fld 0x40 1 2]) 0x0040 1 = 2 ∧ (getCtx s 0).state = .live ∧ (getCtx (pBed .saved) 0).state ≠ .idle ∧ (∀ r ∈ s.runs, r.ctx = 0 → r.steals = []) ∧
      (∀ tm ∈ s.teams, tm.ctx = 0 → tm.status ≠ .running) ∧ s.queues.length ≤ 32 ∧
      (let s' := updCtx s 1 (fun x => { x with state := .saved, savebase := 0x30000 }); (1 : CtxNum) ≠ 0 ∧ (getCtx s' 1).state = .saved ∧
        (getCtx s' 1).savebase = (getCtx s' 0).savebase)) ∧
    (let p := pkt []; let s := pBed .saved; Accepted (.restore p) s 0x21 p ∧ (getCtx s 0).state = .saved ∧ (∀ tm ∈ s.teams, tm.ctx = 0 → tm.status ≠ .saved) ∧
      (∃ tm ∈ { s with teams := [tSaved .saved] }.teams, tm.ctx = 0 ∧ tm.status = .saved)) ∧
    (let p := pkt []; let s := kPlain; Accepted (.resetCtx p) s 0x22 p ∧ (getCtx s 0).state ≠ .free ∧ s.queues.length ≤ 32 ∧
      (getQueue s 0).bound = true ∧ (getQueue s 0).ctx = 0 ∧ (getQueue s 0).state = .running ∧ (getQueue s 0).halting = false) ∧
    (let p := pkt [fld 0x8050 8 0x6000, fld 0x8051 4 0, fld 0x8052 4 16]; let s := pLoad .idle; Accepted (.weightload p) s 0x30 p ∧
      valueAt p 0x8052 0 = 16 ∧ 0 + 16 ≤ (getCtx s 0).wsize.toNat ∧ s.svc.retBanks = 0 ∧ (getCtx s 0).wbase.toNat + 0 + 16 ≤ 402653184 ∧
      (getCtx s 0).state ≠ .free ∧ (getCtx s 0).state ≠ .live ∧ translate s 0 (BitVec.ofNat 64 (valueAt p 0x8050 0 + 16 * 0)) .read = .ok (kAt 0x6000) ∧
      rangePoisoned s (kAt 0x6000) 16 = false ∧ (getCtx (pLoad .live) 0).state = .live) ∧
    ((getCtx (pBed .resetting) 0).state = .resetting ∧ (let s := updCtx (pBed .live) 0 (fun x => { x with saving := true }); s.badAddr = none ∧
      (getCtx s 0).saving = true ∧ (∀ y ∈ s.queues, y.bound = true → y.ctx = 0 → y.copy = none) ∧
      (∀ tm ∈ s.teams, tm.ctx = 0 → tm.status ≠ .saved ∧ tm.status ≠ .running) ∧ (getCtx s 0).savebase.toNat + 4096 ≤ s.svc.installed) ∧
      (getCtx (pBed .live) 0).saving = false ∧ { (pBed .live).mail with owed := some (0x22, 0, 3) }.owed = some (0x22, 0, 3)) ∧
    (let p := pkt [fld 0x8080 8 0x1000, fld 0x8081 4 0x1000]; let s := State.reset; Accepted (.fwstage p) s 0x60 p ∧ valueAt p 0x8080 0 % 4096 = 0 ∧
      valueAt p 0x8081 0 = 4096 ∧ s.boot.live = none) ∧
    (let p := pkt []; let s := bBed { bootReset with slotB := some tSlot, run := false }; Accepted (.fwcommit p) s 0x61 p ∧ Accepted (.fwrollback p) s 0x62 p ∧
      valueAt p 0x0082 0 = 0 ∧ valueAt (pkt [fld 0x82 1 1]) 0x0082 0 = 1 ∧ valueAt (pkt [fld 0x82 1 2]) 0x0082 0 = 2 ∧ s.boot.live = none ∧ s.boot.mode ≠ .recovery ∧
      fwSlot s.boot (!s.boot.run) ≠ none ∧ fwSlot State.reset.boot (!State.reset.boot.run) = none ∧ (∃ x ∈ (pBed .saved).ctxs, x.state = .saved ∨ x.state = .resetting)) ∧
    (let s := bBed { bootReset with live := some ([0, 1], false, 3) }; s.boot.live = some ([0, 1], false, 3) ∧ (0 : QueueNum) ∈ [0, 1] ∧ (2 : QueueNum) ∉ [0, 1] ∧
      (getQueue s 0).state ≠ .running ∧ (∃ y ∈ [(0 : QueueNum), 1], y ≠ 0) ∧ (∀ y ∈ [(0 : QueueNum)], y = 0)) ∧
    (let p := pPower 1 [fld 0x71 2 16383, fld 0x72 2 2176]; let s := State.reset; Accepted (.powercfg p) s 0x70 p ∧ s.stks.length = 2 ∧ valueAt p 0x8070 0 = 1 ∧
      fieldAt p 0x0073 = none ∧ fieldAt p 0x0074 = none ∧ fieldAt p 0x0075 = none ∧ valueAt p 0x0071 0 = 16383 ∧ valueAt p 0x0072 0 = 2176 ∧
      valueAt (pPower 1 [fld 0x71 2 2000]) 0x0071 0 < 2176 ∧ valueAt (pPower 0 []) 0x8070 0 = 0) := by
  refine ⟨⟨accepted _ _ _ _ _ rfl ⟨rfl, rfl⟩ (by decide), by decide +kernel⟩, ⟨accepted _ _ _ _ _ rfl ⟨rfl, rfl⟩ (by decide), by decide +kernel⟩,
    ⟨accepted _ _ _ _ _ rfl ⟨rfl, rfl⟩ (by decide), by decide +kernel⟩, ⟨accepted _ _ _ _ _ rfl ⟨rfl, rfl⟩ (by decide), by decide +kernel⟩, by decide +kernel,
    ⟨accepted _ _ _ _ _ rfl ⟨rfl, rfl⟩ (by decide), by decide +kernel⟩,
    ⟨accepted _ _ _ _ _ rfl ⟨rfl, rfl⟩ (by decide), accepted _ _ _ _ _ rfl ⟨rfl, rfl⟩ (by decide), by decide +kernel⟩, by decide +kernel,
    ⟨accepted _ _ _ _ _ rfl ⟨rfl, rfl⟩ (by decide), by decide +kernel⟩⟩

/-! ### Witnesses: units in service, errors, starts and power -/

def uOf (kind : BitVec 4) (n : BitVec 8) : SvcUnit := { stk := 0, kind := kind, unit := n }
def sBed (f : Service → Service) : State := { State.reset with svc := f serviceReset }
/-- Context 0 maps the first address onto the last 8 GiB of device memory. -/
def sTop : State :=
  { kPlain with mem := cellsWriteLE kPlain.mem tableAddr (68719476736 - 8589934592 + 15) 8 }
def uBed (u : SvcUnit) (a : BitVec 4) (f : Service → Service) : State := sBed (fun x => f { x with req := some (u, a) })
/-- The cluster of the fixture's team has drained for 10 ms; its wave is v. -/
def sDrain (st : TeamStatus) (v : Wave) : State :=
  { bed tWave v { tTeam with status := st } with
    stks := [{ stackReset with mclk := 15000000 }, stackReset], clusters := { clusterReset with draining := true } :: List.replicate 31 clusterReset }
theorem witness_ServiceRequests :
    (overThreshold State.reset 0 = false ∧ Requests (sBed (fun x => { x with ras := [(0, 1)] })) (.testAndReturn (uOf 1 0)) (uOf 1 0) 1) ∧
    ((uBed (uOf 1 0) 1 id).svc.req ≠ none ∧ (sBed id).svc.req = none ∧ ¬ UnitOk (uOf 1 0) 3 ∧ UnitOk (uOf 1 0) 1 ∧ Retired (sBed (fun x => { x with retClusters := 1 })).svc 1 0 0) ∧
    (∀ m, m < unitsOf 1 → m ≠ 0 → Retired (sBed (fun x => { x with retClusters := 0xFFFE })).svc 1 0 m) ∧
    (¬ Retired (sBed id).svc 1 0 1 ∧ OnCluster (uOf 1 0) ∧ noPlacement State.reset (uOf 1 0) = false ∧
      noPlacement { State.reset with runs := [{ tRun with nodes := [{ tNode with lstore := 1000 }] }] } (uOf 1 0) = true) ∧
    (UnitOk (uOf 2 0) 2 ∧ topMapped State.reset = false ∧ topMapped sTop = true ∧ UnitOk (uOf 4 0) 2 ∧ ¬ OnCluster (uOf 4 0)) ∧
    ((uBed (uOf 1 0) 1 id).svc.req = some (uOf 1 0, 1) ∧ (uBed (uOf 1 0) 1 id).stks.length = 2 ∧ (uBed (uOf 1 0) 1 id).clusters.length = 32 ∧
      ClusterFree (uBed (uOf 1 0) 1 id) (clusterOf (uOf 1 0)) ∧ ¬ ClusterFree { uBed (uOf 1 0) 1 id with teams := [tTeam] } (clusterOf (uOf 1 0))) ∧
    ((uBed (uOf 2 0) 2 (fun x => { x with migration := some x.installed })).svc.migration = some Config.gddrFull ∧ (uBed (uOf 2 0) 2 id).svc.migration = none) ∧
    (Retired (uBed (uOf 3 5) 2 (fun x => { x with retSlices := 32 })).svc 3 0 5 ∧ ¬ Retired (uBed (uOf 3 5) 2 id).svc 3 0 5 ∧ UnitOk (uOf 3 5) 2) ∧
    (UnitOk (uOf 2 0) 3 ∧ UnitOk (uOf 6 0) 5 ∧ UnitOk (uOf 7 0) 5) ∧
    ((sDrain .done tNow).badAddr = none ∧ (getCluster (sDrain .done tNow) 0).draining = true ∧ 0 + 15000000 ≤ (getStack (sDrain .done tNow) 0).mclk ∧
      (getCluster tBed 0).draining = false ∧ Holds tTeam 0 ∧ tTeam.stk = 0 ∧ tRun.steals = [] ∧ tTeam.run = tRun.id ∧ (∀ g ∈ (sDrain .done tNow).tags, coreCluster g.core ≠ 0)) ∧
    (let s := sDrain .done tNow; let tm := { tTeam with status := .done };
      (findPlacement s (Need.mk [] tm.pair 0 0 0 (tm.rings.map (restoreRing s tRun tm))) tm.stk 0).isSome = true) := by
  refine ⟨⟨by decide +kernel, .inl (by decide +kernel)⟩, ⟨by decide +kernel, by decide +kernel, by decide +kernel, by decide +kernel, by show BitVec.getLsbD _ _ = true; decide +kernel⟩,
    fun m h1 h2 => ?_, ⟨by show ¬ BitVec.getLsbD _ _ = true; decide +kernel, by decide +kernel⟩, by decide +kernel, by decide +kernel, by decide +kernel,
    ⟨by show BitVec.getLsbD _ _ = true; decide +kernel, by show ¬ BitVec.getLsbD _ _ = true; decide +kernel, by decide⟩, by decide +kernel, by decide +kernel, by decide +kernel⟩
  exact (by decide +kernel : ∀ m < 16, m ≠ 0 → (0xFFFE : BitVec 32).getLsbD (16 * (0 : StackNum).toNat + m) = true) m h1 h2
theorem witness_ClusterDrains :
    (let s := { sDrain .running tNow with engines := { engineReset with entries := [tDone iMiter 1] } :: List.replicate 31 engineReset }; let s' := stopTeam s 6; teamQuiet s' tTeam = false ∧ s'.badAddr = none ∧ tTeam.stopping = false) ∧
    (let s := { sDrain .running tNow with waves := [], teams := [{ tTeam with winSize := 0, nwaves := 0 }] }; let s' := stopTeam s 6; let q := rotateOut s' 6; teamQuiet s' tTeam = true ∧ tTeam.task = none ∧ q.badAddr = none ∧
      (getCluster q 0).draining = true ∧ (∀ g ∈ q.tags, coreCluster g.core ≠ 0) ∧ (findTeam q 6).any (fun u =>
        (findRun q u.run).any (fun g => (findPlacement q (restoreNeed q g u) u.stk 0).isSome) && decide (u.stk = 0) && decide (u.task = none) &&
          decide (u.saved.map (fun v => v.entries) = some [])) = true) :=
  ⟨by decide +kernel, by decide +kernel⟩

def tLane (n : Nat) : State := sBed (fun x => { x with laneErrors := [(n, 1)] })
/-- A repair of vertical group 3 that began at clock 0, seen at a clock. -/
def tRepair (r : Repair) (n : Nat) : State :=
  { sBed (fun x => { x with repairs := [r], laneErrors := [] }) with stks := [{ stackReset with mclk := n }, stackReset] }
def tVert : Repair := { unit := uOf 7 3, start := 0, waiting := false }
theorem witness_ErrorsAndRepairs :
    (let v := tPending iLdL; let s := tEvent v; s.who.count = 0 ∧ findWave s 7 = some v ∧ findPend s.who.seq v.pend = some (tOp iLdL) ∧
      (tOp iLdL).performed = false ∧ (tOp iLdL).fault = none) ∧
    (let v := { tNow with parityRetry := true }; let s := tTrapBed (tHandler 1 []) tWave v; findWave s v.id = some v ∧ waveLive v = true ∧ s.badAddr = none ∧
      CanTrap s v tTeam 0 (tPlace 0)) ∧ findWave State.reset 7 = none ∧
    (let s := tLane 0; UnitOk (uOf 6 0) 5 ∧ badLane s (uOf 6 0) = some 0 ∧ badLane State.reset (uOf 6 0) = none ∧ (cellsRead s.svc.hingeSpares 0).toNat < 4) ∧
    (let s := tLane (laneKey (uOf 7 3)); UnitOk (uOf 7 3) 5 ∧ badLane s (uOf 7 3) = some (laneKey (uOf 7 3)) ∧ s.svc.repairs.find? (fun y => decide (y.unit = uOf 7 3)) = none) ∧
    ((tRepair tVert 300).svc.repairs.find? (fun y => decide (y.unit = uOf 7 3)) = some tVert ∧ 0 + 300 ≤ (getStack (tRepair tVert 300) 0).mclk ∧
      0 + 3000 ≤ (getStack (tRepair tVert 3000) 0).mclk ∧ (cellsRead (tRepair tVert 300).svc.vertSpares (uOf 7 3).unit.toNat).toNat < 2) ∧
    (let r := { tVert with waiting := true }; (tRepair r 1500000).svc.repairs.find? (fun y => decide (y.unit = uOf 7 3)) = some r ∧ 0 + 1500000 ≤ (getStack (tRepair r 1500000) 0).mclk) :=
  ⟨by decide +kernel, ⟨by decide +kernel, by decide, rfl, tTrap_can _ _ (by decide)⟩, by decide +kernel, by decide +kernel, by decide +kernel, by decide +kernel, by decide +kernel⟩
/-- A device that starts for the n-th time with an image in slot A, and with a record that a wrong key of stack 1 fails. -/
def bStart (f : Boot → Boot) : State := bBed (f { bootReset with mode := .starting })
def bPoor : State := bStart (fun b => { b with puf1 := 3 })
theorem witness_Starts :
    (recordOk State.reset.boot = true ∧ State.reset.boot.recoveryNext = false ∧ fwSlot State.reset.boot State.reset.boot.next ≠ none) ∧
    (fwSlot (bStart (fun b => { b with next := true })).boot true = none ∧ (2 : BitVec 4) ≠ 1) ∧ recordOk bPoor.boot = false ∧
    ((bBed { bootReset with mode := .off }).boot.mode = .off ∧ State.reset.boot.mode ≠ .off ∧ bPoor.boot.mode ≠ .off) ∧
    (State.reset.queues.length = 32 ∧ State.reset.clusters.length = 32) ∧
    (let s := { bStart id with stks := [{ stackReset with mclk := 15000000000 }, stackReset] };
      s.boot.mode = .starting ∧ s.boot.startedAt + 15000000000 ≤ (getStack s 0).mclk ∧ s.boot.recoveryNext = false ∧ recordOk s.boot = true ∧
      BitVec.ofNat 4 s.who.count ≠ 1 ∧ BitVec.ofNat 4 { agentReset with count := 1 }.count = 1 ∧ (getStack (bStart id) 0).mclk < 15000000000) := by decide +kernel
def pwBed (x : Stack) (f : Cluster → Cluster) : State := { State.reset with stks := [x, stackReset], clusters := f clusterReset :: List.replicate 31 clusterReset }
def qBed (x : Ctx) : State := { State.reset with ctxs := x :: List.replicate 63 ctxReset }
def qDue (n : BitVec 16) : Ctx :=
  { ctxReset with state := .live, iqmode := true, flcount := n, s0 := { ctxStackReset with issueQ := 1, usedIssue := 65536 } }
def tReadings (v : BitVec 16) : List (BitVec 16) := v :: List.replicate 35 0
theorem witness_ClockEvents :
    (let x := { stackReset with ringP := 100, insertedAt := some 0 }; x.ringP < x.pop.toNat ∧ (getStack (pwBed x id) 0).insertedAt = some 0 ∧
      ({ x with insertedAt := none } : Stack).insertedAt ≠ some 0 ∧ 16383 < ({ stackReset with ringP := 20000 } : Stack).ringP ∧
      (pwBed x id).stks.length = 2 ∧ (pwBed x id).clusters.length = 32 ∧ stackReset.ringP = stackReset.pop.toNat ∧ stackReset.flag = false ∧ serviceReset.retClusters = 0) ∧
    (let s := pwBed { stackReset with mclk := 16 * Config.clocksPerUs } (fun c => { c with pending := some 1 });
      (getCluster s 0).latched < (getStack s 0).mclk / Config.clocksPerUs ∧ (getStack State.reset 0).mclk / Config.clocksPerUs ≤ (getCluster State.reset 0).latched ∧
      (getCluster State.reset 0).pending = none ∧ (getCluster s 0).pending = some 1 ∧ (getStack s 0).mclk % 16 = 0 ∧ voltOf s 1 + offsetOf s 0 ≤ (getStack s 0).supply ∧
      (getStack (pwBed { stackReset with supply := 0 } id) 0).supply < voltOf State.reset 1 + offsetOf State.reset 0) ∧
    (offsetOf State.reset 0 ≠ 50 ∧ stackReset.canarySteps = 0 ∧ (getStack (pwBed { stackReset with canarySteps := 1 } id) 0).mclk < 0 + Config.clocksPerUs ∧
      offsetOf (pwBed { stackReset with canary := 50 } id) 0 = 50 ∧ slotsOn 1 ≤ 1 ∧ 1 < slotsOn clusterReset.pattern) ∧
    ((getStack (pwBed { stackReset with flag := true } id) 0).flag = true ∧ State.reset.svc.retClusters.getLsbD 0 = false ∧ ¬ stackReset.target < stackReset.ringP) ∧
    (let x := { stackReset with mclk := 1500000000, canary := 5 }; x.lastWarn + 1500000000 ≤ x.mclk ∧ x.canary ≠ 0 ∧ x.interval < x.mclk / 15000000 ∧ stackReset.canary = 0 ∧
      stackReset.mclk / 15000000 ≤ stackReset.interval) :=
  ⟨by decide +kernel, by decide +kernel, by decide +kernel, by decide +kernel, by decide +kernel⟩
theorem witness_Readings :
    ((tReadings 8000).length = 36 ∧ reach (tReadings 8000) stackReset.advise ∧ ¬ reach (tReadings 0) stackReset.advise ∧ cool (tReadings 0) stackReset.advise ∧
      ({ stackReset with advised := true } : Stack).advised = true ∧ stackReset.throttled = false) := by
  have h : (tReadings 0).all (fun r => decide (r.toInt + 40 ≤ stackReset.advise.toInt)) = true := by decide +kernel
  have c : cool (tReadings 0) stackReset.advise := fun r hr => of_decide_eq_true (List.all_eq_true.mp h r hr)
  have n : stackReset.advise.toInt ≤ (8000 : BitVec 16).toInt := by decide +kernel
  refine ⟨by decide +kernel, ⟨8000, List.mem_cons_self, n⟩, ?_, c, by decide +kernel, by decide +kernel⟩
  rintro ⟨r, m, g⟩
  have := c r m
  omega
theorem witness_Quotas :
    (let x := getCtx (qBed (qDue 0)) 0; let q := ctxStack x 0; x.iqmode = true ∧ q.issueQ ≠ 0 ∧ q.issueQ.toNat * 65536 ≤ q.usedIssue ∧ q.quotaFaulted = false ∧ x.flcount = 0 ∧
      (∀ tm ∈ (qBed (qDue 0)).teams, tm.ctx = 0 → tm.stk = 0 → tm.status = .done ∨ tm.status = .faulted)) ∧
    (let x := getCtx (qBed (qDue 4)) 0; x.flcount ≠ 0 ∧ (x.flhead.toNat + 1) % x.flcount.toNat ≠ x.fltail.toNat % x.flcount.toNat ∧
      x.flbase.toNat + 64 * x.flhead.toNat + 64 ≤ (qBed (qDue 4)).svc.installed ∧ ctxReset.iqmode = false) ∧
    (let s := { qBed (qDue 0) with teams := [tTeam], waves := [tNow] }; s.badAddr = none ∧ s.who.ctx.toNat < s.ctxs.length ∧ tTeam.ctx = 0 ∧ tTeam.stk = 0 ∧
      tTeam.status = .running ∧ ∀ w ∈ s.waves, w.team = tTeam.id → endFaults w = []) :=
  ⟨by decide +kernel, by decide +kernel, by decide +kernel⟩

/-! ### Witnesses: events of waves -/

def tWord (i : Instr) : DWord := match encode i with
  | some (.slot _ w) => w
  | _ => 0
/-- A bundle of one instruction, and a machine whose memory holds it at 0x1000. -/
def tBits (i : Instr) : BitVec 256 := wordBundle 64 (tWord i)
def tBundle (i : Instr) : Bundle := match decodeBundleBits (tBits i) with
  | .ok b => b
  | .error _ => { wait := 0, set0 := none, set1 := none, stall := 0, reuse := 0, yield := false, s0 := .empty, s1 := .empty, s2 := .empty }
def tCode (i : Instr) (w : Wave) : State :=
  { bed w w tTeam with
    mem := cellsWriteLE [] 0x1000 (tBits i).toNat 32, who := { agentReset with wave := 7 },
    clusters := { clusterReset with pool := 1024, clk := 5000 } :: List.replicate 31 clusterReset }
def tHeld : Wave := { tWave with slotA := .held (tPath 0x1000) }
def tIssues (v : Verdict) (b : Bundle) : Bool := match v with
  | .issues c => decide (c = b)
  | _ => false
theorem tIssues_eq (v : Verdict) (b : Bundle) (h : tIssues v b = true) : v = .issues b := by
  cases v <;> simp_all [tIssues]
theorem held_may (i : Instr) (h : findWave (tCode i tHeld) 7 = some tHeld ∧ waveLive tHeld = true ∧ waveStopped (tCode i tHeld) tHeld = false ∧
      tIssues (verdict (tCode i tHeld) tHeld .a) (tBundle i) = true ∧ tIssues (verdict (markTurn (tCode i tHeld) tHeld) tHeld .a) (tBundle i) = true ∧
      (tCode i tHeld).clockMark ≤ wavePlace tHeld ∧ (getCluster (tCode i tHeld) 0).issuedNow.getLsbD (partIndex 0 0) = false ∧
      grants (tCode i tHeld) 0 (poolFree (tCode i tHeld) 0)
        (mkBid (tCode i tHeld) tHeld .a (bundlePrice (stageOf (tCode i tHeld) tHeld .a []) (tBundle i)) (heldTokens tHeld .a)) = true ∧
      anyHeld (stageOf (tCode i tHeld) tHeld .a []) (tBundle i) = false ∧
      anyHeld (stageOf (markTurn (tCode i tHeld) tHeld) tHeld .a (bundleSets (tBundle i))) (tBundle i) = false ∧
      anyDrains (stageOf (markTurn (tCode i tHeld) tHeld) tHeld .a (bundleSets (tBundle i))) (tBundle i) = false) :
    MayComplete (tCode i tHeld) tHeld (tPath 0x1000) (tBundle i) :=
  ⟨⟨h.1, h.2.1, h.2.2.1, rfl⟩, rfl, ⟨tIssues_eq _ _ h.2.2.2.1, tIssues_eq _ _ h.2.2.2.2.1, rfl⟩, ⟨rfl, h.2.2.2.2.2.1, h.2.2.2.2.2.2.1⟩,
    ⟨fun x hx _ _ => by simpa [tCode, bed] using hx, fun _ e => nomatch e⟩, h.2.2.2.2.2.2.2.1, h.2.2.2.2.2.2.2.2⟩
theorem witness_HeldBundles : MayComplete (tCode .teamdone tHeld) tHeld (tPath 0x1000) (tBundle .teamdone) ∧
    bundleInstrs (tBundle .teamdone) = [(2, .teamdone)] ∧ tTeam.task = none ∧
    MayComplete (tCode (.rshrinkImm 4) tHeld) tHeld (tPath 0x1000) (tBundle (.rshrinkImm 4)) ∧ bundleInstrs (tBundle (.rshrinkImm 4)) = [(2, .rshrinkImm 4)] ∧
    (∀ x ∈ (tCode (.rshrinkImm 4) tHeld).waves, x.growA = 0 ∧ x.growB = 0) ∧ 8 * 4 < tHeld.allot.toNat :=
  ⟨held_may _ (by decide +kernel), by decide +kernel, rfl, held_may _ (by decide +kernel), by decide +kernel, by decide +kernel, by decide⟩
def tParked (x : WaitFor) : Wave := { tNow with slotA := .parked (tPath 0x1000) x }
def tStore (v : Wave) : State := { tEvent v with clusters := { clusterReset with clk := 5000 } :: List.replicate 31 clusterReset }
def oWait (l : Bool) : WaitAddr := { d := 4, a := 10, c := 12, scope := .core, size := .b4, isLocal := l, ofs := 0 }
def tWaitL : Wave := tParked (.addr (oWait true) 0 0 9000 true 0)
theorem witness_WaveEvents :
    (let v := { tNow with growA := 128 }; let s := { tEvent v with who := agentReset }; findWave s v.id = some v ∧ waveLive v = true ∧ v.core = s.who.core ∧ v.part = s.who.part ∧
      growOf v ≠ 0 ∧ s.badAddr = none ∧ (∀ x ∈ s.waves, x.id ≠ v.id → x.core = v.core → x.part = v.part → growOf x = 0) ∧ s.waves.Pairwise (fun x y => x.id ≠ y.id) ∧
      (growOf v).toNat / 8 - v.allot.toNat / 8 ≤ granulesFree s v.core v.part) ∧
    (let v := tParked (.counter .copy 0); Named (tStore v) v ∧ (counterOf v .copy).toNat ≤ 0 ∧ 0 < (counterOf { v with cntCopy := 1 } .copy).toNat) ∧
    (let v := tParked (.copyYield 0 0x2000); Named (tStore v) v ∧ v.cntCopy.toNat ≤ 0) ∧ (let v := tParked (.barrier 1 true); Named (tStore v) v) ∧
    (Named (tStore tWaitL) tWaitL ∧ (oWait true).isLocal = true ∧ watchedWord (tStore tWaitL) tWaitL (oWait true) (kAt 0) 0 = 0 ∧ 5000 < 9000) ∧
    (let v := tParked (.addr (oWait false) 0x3000 1 100 false 0); Named (tStore v) v ∧ wideScope (teamOf (tStore v) v).pair .core = false ∧
      translateAt (tStore v) 0 0 0x3000 .read = .ok (kAt 0x3000) ∧ watchPoisoned (tStore v) v (oWait false) (kAt 0x3000) = false ∧
      watchedWord (tStore v) v (oWait false) (kAt 0x3000) 0x3000 ≠ 1 ∧ 100 ≤ 5000) :=
  ⟨by decide +kernel, by decide +kernel, by decide +kernel, by decide +kernel, by decide +kernel, by decide +kernel⟩
theorem witness_Switches :
    (let s := tCode iFadd tWave; Named s tWave ∧ tWave.fair.toNat < 64 ∧ canIssue s tWave tWave.cur = true ∧
      (waveBid s tWave).any (fun b => grants s 0 (poolFree s 0) b) = true ∧ tWave.yieldUntil ≤ 5000) ∧
    (let v := { tWave with slotA := .empty, slotB := .ready (tPath 0x1000) }; let s := tCode iFadd v; Named s v ∧ canIssue s v v.cur = false ∧ canIssue s v (otherSlot v.cur) = true) ∧
    (let v := { tWave with fair := 64, slotB := .ready (tPath 0x1000) }; let s := tCode iFadd v; Named s v ∧ 64 ≤ v.fair.toNat ∧ otherReady v = true ∧ canIssue s v (otherSlot v.cur) = true) ∧
    (let s := { tCode iFadd tWave with clusters := List.replicate 32 clusterReset }; (waveBid s tWave).any (fun b => !grants s 0 (poolFree s 0) b) = true) ∧
    (let v := { tWave with yieldUntil := 6000 }; Named (tCode iFadd v) v ∧ 5000 < v.yieldUntil) ∧
    (let v := { tWave with candSince := some 3000 }; Named (tCode iFadd v) v ∧ v.candSince = some 3000 ∧ 3000 + 1024 ≤ 5000 ∧
      (∀ c, tWave.candSince = some c ∨ tWave.dearSince = some c → 5000 < c + 1024)) :=
  ⟨by decide +kernel, by decide +kernel, by decide +kernel, by decide +kernel, by decide +kernel, by decide +kernel, rfl, by decide, fun c h => by cases h <;> contradiction⟩
def tStarver : Wave := { tWave with starving := true }
def tServing (x : Option Served) : State := { tCode iFadd tStarver with clusters := { clusterReset with serving := x } :: List.replicate 31 clusterReset }
theorem witness_StarvationCaptures : (tServing none).stks.length = 2 ∧ (tServing none).clusters.length = 32 ∧ (getCluster (tServing none) 0).serving = none ∧
    tokenStarvers State.reset 0 = [] ∧ tokenStarvers (tServing none) 0 ≠ [] ∧ (getCluster (tServing (some .engine)) 0).serving = some .engine ∧
    (∀ b ∈ clusterBids (tServing (some .engine)) 0, b.who = .engine → b.starving = false ∨ b.price = 0) ∧
    ((clusterBids (tServing (some (.wave 7))) 0).find? (fun b => decide (b.who = .wave 7) && b.starving && decide (b.price ≠ 0))).isSome = true := by decide +kernel

/-! ### Witnesses: REGROUP and the scheduler -/

def rWave (n : Nat) (m : Mask) : Wave := { tNow with id := 7 + n, num := BitVec.ofNat 5 n, slotA := .parked { tPath 0x1000 with mask := m } .regroup }
def rBed : State := { bed (rWave 0 0xF) (rWave 0 0xF) { tTeam with nbars := 0, nwaves := 2 } with waves := [rWave 0 0xF, rWave 1 0xF0], who := { agentReset with team := 6 } }
theorem witness_RegroupPacksLanes : AtRegroup rBed { tTeam with nbars := 0, nwaves := 2 } [rWave 0 0xF, rWave 1 0xF0] 0x1000 0 ∧
    (parkedLanes [rWave 0 0xF, rWave 1 0xF0]).length ≤ 32 * 1 ∧ 32 * 0 < (parkedLanes [rWave 0 0xF, rWave 1 0xF0]).length :=
  ⟨⟨by decide +kernel, ⟨rfl, by simp⟩, by decide +kernel, by
    intro w hw
    simp only [List.mem_cons, List.mem_nil_iff, or_false] at hw
    rcases hw with rfl | rfl
    · exact ⟨rfl, rfl, rfl, rfl, _, rfl, rfl, rfl, by decide⟩
    · exact ⟨rfl, rfl, rfl, rfl, _, rfl, rfl, rfl, by decide⟩, by decide +kernel⟩, by decide +kernel, by decide +kernel⟩

def cNode : Node := { tNode with outs := 0, emitmax := [], lstore := 0, bars := 0 }
def cRun : Run := { tRun with nodes := [cNode], edges := [] }
def cRec : Rec := { blankRec with run := 5, bytes := List.replicate 16 7 }
def cBed (n : Node) (k : StackNum) (clk : Nat) : State :=
  { State.reset with
    runs := [{ cRun with nodes := [n] }], recs := [{ cRec with stk := k }], nextId := 20, ctxs := { ctxReset with state := .live } :: List.replicate 63 ctxReset,
    stks := [{ stackReset with mclk := clk }, stackReset], who := { agentReset with run := 5, team := 6 } }
def tPlaced : Tried → Bool
  | .placed t => t.badAddr.isNone
  | _ => false
theorem tPlaced_some {x : Tried} (h : tPlaced x = true) : ∃ t, x = .placed t ∧ t.badAddr = none := by
  cases x <;> simp_all [tPlaced]
def cCand (why : Trigger) : Cand := { run := 5, node := 0, prio := 0, since := 0, kind := .batch 1 why }
theorem witness_Batches :
    (let s := cBed cNode 0 0; s.badAddr = none ∧ candsOf s 0 = [cCand .now] ∧ findRun s 5 = some cRun ∧ (∃ s', tryCand s 0 0 (cCand .now) = .placed s' ∧ s'.badAddr = none) ∧
      (∀ tm ∈ s.teams, tm.id ≠ s.nextId) ∧ restoringTeams s 0 = []) ∧
    (let n := { cNode with trec := 2, gtime := 3 }; candsOf (cBed n 0 100000) 0 = [cCand .timeout] ∧ candsOf (cBed n 0 0) 0 = [cCand .drain] ∧
      (∃ s', tryCand (cBed n 0 0) 0 0 (cCand .drain) = .placed s' ∧ s'.badAddr = none) ∧ ∃ s', tryCand (cBed n 0 100000) 0 0 (cCand .timeout) = .placed s' ∧ s'.badAddr = none) ∧
    (candsOf State.reset 0 = [] ∧ restoringTeams State.reset 0 = [] ∧ swappedTeams State.reset 0 = []) :=
  ⟨⟨rfl, by decide +kernel, rfl, tPlaced_some (by decide +kernel), by decide +kernel, by decide +kernel⟩,
    ⟨by decide +kernel, by decide +kernel, tPlaced_some (by decide +kernel), tPlaced_some (by decide +kernel)⟩, by decide +kernel⟩
def mNode : Node := { cNode with outs := 1, emitmax := [1] }
def mRun : Run := { cRun with nodes := [mNode, cNode], edges := [{ tEdge with dst := 1, ring := true, slotKb := 1 }] }
def mPay : Payload := { slot := 2, bytes := List.replicate 16 1, tag := 0, since := 0, team := none }
def mRing : Ring := { port := 0, base := 4096, slotBytes := 1024, room := none, pays := [mPay] }
def mTask : Team := { tTeam with winSize := 0, nbars := 0, rings := [mRing] }
def mCand : Cand := { run := 5, node := 1, prio := 0, since := 0, kind := .mesh 6 0 }
theorem witness_MeshTeams : let s := { cBed cNode 0 0 with runs := [mRun], recs := [], teams := [mTask] }
    s.badAddr = none ∧ candsOf s 0 = [mCand] ∧ findRun s 5 = some mRun ∧ findTeam s 6 = some mTask ∧ ringOf mTask 0 = some mRing ∧ nextPayload mRing = some mPay ∧
      (∃ s', tryCand s 0 0 mCand = .placed s' ∧ s'.badAddr = none) ∧ ∀ x ∈ s.teams, x.id ≠ s.nextId :=
  ⟨rfl, by decide +kernel, rfl, rfl, rfl, rfl, tPlaced_some (by decide +kernel), by decide +kernel⟩
def vSteal (served : Bool) : Steal := { stk := 0, node := 0, team := 6, served := served }
def vBed (served : Bool) (tm : Team) (k : StackNum) : State := { cBed cNode k 0 with runs := [{ cRun with steals := [vSteal served] }], teams := [tm] }
theorem witness_Steals :
    (let s := cBed cNode 1 0; findRun s 5 = some cRun ∧ stealOpen s cRun 0 0 = true ∧
      ∃ s', makeTeam s cRun (freshTeam s cRun 0 0 [] 0 0 none) (stealBatch (runNode cRun 0)) (fun s => findPlacement s (nodeNeed cRun 0) 0 0) = .placed s' ∧ s'.badAddr = none) ∧
    (let s := vBed false { tTeam with status := .queued } 1; ∃ r, findSteal s = some (r, vSteal false) ∧ runOpen s r = true ∧ (∃ tm, findTeam s 6 = some tm) ∧
      queuePart s r.id 0 (~~~(0 : StackNum)) ≠ [] ∧ queuePart (vBed false tTeam 0) r.id 0 (~~~(0 : StackNum)) = []) ∧
    (let s := vBed true { tTeam with status := .queued, batch := [cRec] } 1; ∃ r, findSteal s = some (r, vSteal true) ∧ runOpen s r = true ∧
      findTeam s 6 = some { tTeam with status := .queued, batch := [cRec] } ∧ findRun s 5 = some r ∧ (runNode r 0).kind ≠ 2 ∧ (0 : StackNum).toNat < s.stks.length) :=
  ⟨⟨rfl, by decide +kernel, tPlaced_some (by decide +kernel)⟩, ⟨_, rfl, by decide +kernel, ⟨_, rfl⟩, by decide +kernel, by decide +kernel⟩,
    ⟨_, rfl, by decide +kernel, rfl, rfl, by decide, by decide +kernel⟩⟩
theorem witness_TeamsAndRunsEnd :
    (let s := { cBed cNode 0 0 with teams := [tTeam] }; findTeam s 6 = some tTeam ∧ teamFinished s tTeam = true ∧ tTeam.rings = [] ∧ tTeam.task = none ∧ (teamNode s tTeam).sig = 0 ∧
      teamFinished { s with waves := [tNow] } tTeam = false) ∧
    (let s := { cBed cNode 0 0 with recs := [] }; s.badAddr = none ∧ findRun s 5 = some cRun ∧ (∀ x ∈ s.runs, x.id = cRun.id → x = cRun) ∧ cRun.ctx.toNat < s.ctxs.length ∧
      runQuiet s cRun = true ∧ runOpen s cRun = true ∧ cRun.sig = 0 ∧ runQuiet (cBed cNode 0 0) cRun = false) ∧
    (let r := { cRun with sig := 0x7000 }; let s := { kPlain with runs := [r] }; WordAt s 0 0x7000 .write (kAt 0x7000) ∧ r.sig ≠ 0 ∧ r.cores = [] ∧ runQuiet s r = true ∧ runOpen s r = true ∧
      (kAt 0x7000).host = false) :=
  ⟨by decide +kernel, by decide +kernel, ⟨by decide +kernel, by decide +kernel, .inr (by decide)⟩, by decide +kernel⟩

/-! ### Witnesses: copies, jobs and RASTER nodes -/

/-- A copy of 32 bytes from 0x6000 to the window's first byte, with an arrival at barrier 0 or none, and a status word. -/
def yEntry (bv : Nat) : BitVec 256 := BitVec.ofNat 256 (0x6000 + bv * 2 ^ 94 + 2 ^ 95 + 0x100 * 2 ^ 128 + 32 * 2 ^ 160)
def yCopy (bv : Nat) : CopyOp :=
  { seq := 0, wave := 7, pc := 0x1000, entry := yEntry bv, units := 0, arrivals := 0, waitPhase := false, code := 0, stopped := false, errUnits := 0, errFkind := 0,
    errAddr := 0, finished := false, statusDone := false }
def yTeam (cs : List CopyOp) : Team := { tTeam with copies := cs, barExpect := [(0, 2)] }
def yBed (cs : List CopyOp) (n : Nat) : State := { bed tNow tNow (yTeam cs) with who := { agentReset with team := 6, wave := 7, count := n } }
theorem y_named (cs : List CopyOp) (n : Nat) (c : CopyOp) (h : findCopy (yTeam cs) 7 0 = some c) (he : entryIllegal c.entry (ceTwod c.entry) 2 = false) :
    NamedCopy (yBed cs n) (yTeam cs) c where
  team := ⟨rfl, rfl, by simp [teamStopped, yTeam, tTeam, blankTeam]; rfl, rfl⟩
  copy := h
  entry := he
  powered := rfl
theorem y_placed (bv : Nat) (hb : bv < 2) : UnitsPlaced (yBed [yCopy bv] 0) (yTeam [yCopy bv]) (yCopy bv) (fun j => kAt (0x6000 + 16 * j)) := by
  intro j _ hj
  have hc : waveCore (yBed [yCopy bv] 0) (yCopy bv).wave (yTeam [yCopy bv]) = 0 := by rcases (by omega : bv = 0 ∨ bv = 1) with rfl | rfl <;> decide +kernel
  have hs : stepEnd (yBed [yCopy bv] 0) (yCopy bv) = 2 := by rcases (by omega : bv = 0 ∨ bv = 1) with rfl | rfl <;> decide +kernel
  rw [hs] at hj
  have hd : ceDir (yCopy bv).entry = 0 := by rcases (by omega : bv = 0 ∨ bv = 1) with rfl | rfl <;> decide +kernel
  have hu : (unitGlobal (yCopy bv).entry j).toNat = 0x6000 + 16 * j := by
    rcases (by omega : bv = 0 ∨ bv = 1) with rfl | rfl <;> rcases (by omega : j = 0 ∨ j = 1) with rfl | rfl <;> decide +kernel
  refine ⟨rfl, by simp only [kAt]; omega, ?_, fun _ => .inl ?_⟩
  · rw [hd, hc]
    have := tlb_placed (yBed [yCopy bv] 0) rfl rfl (unitGlobal (yCopy bv).entry j) .read
      (UnitByte (yBed [yCopy bv] 0) (yCopy bv) (fun j => kAt (0x6000 + 16 * j))) (by omega)
    rw [hu] at this
    exact this
  · rcases (by omega : j = 0 ∨ j = 1) with rfl | rfl <;> rfl
theorem witness_CopiesMoveAndRetire :
    NamedCopy (yBed [yCopy 0] 0) (yTeam [yCopy 0]) (yCopy 0) ∧ UnitsPlaced (yBed [yCopy 0] 0) (yTeam [yCopy 0]) (yCopy 0) (fun j => kAt (0x6000 + 16 * j)) ∧
    stepEnd (yBed [yCopy 0] 1) (yCopy 0) < chunkEnd (yCopy 0) ∧ chunkEnd (yCopy 0) ≤ stepEnd (yBed [yCopy 0] 0) (yCopy 0) ∧ ceBv (yCopy 0).entry = false ∧
    NamedCopy (yBed [yCopy 1] 0) (yTeam [yCopy 1]) (yCopy 1) ∧ UnitsPlaced (yBed [yCopy 1] 0) (yTeam [yCopy 1]) (yCopy 1) (fun j => kAt (0x6000 + 16 * j)) ∧
    ceBv (yCopy 1).entry = true ∧ (yTeam [yCopy 1]).pair = false ∧ countOf (yTeam [yCopy 1]) 0 + 1 < expectedOf (yTeam [yCopy 1]) 0 ∧
    expectedOf { yTeam [yCopy 1] with barExpect := [] } 0 = 0 ∧
    translateAt { yBed [yCopy 0] 0 with tlbs := [] } 0 0 (unitGlobal (yCopy 0).entry 0) .read = .error 0 ∧ (yCopy 0).units < stepEnd (yBed [yCopy 0] 0) (yCopy 0) ∧
    (let c := { yCopy 0 with finished := true }; NamedCopy (yBed [c] 0) (yTeam [c]) c ∧ (∀ x ∈ (yTeam [c]).copies, x.wave = c.wave → c.seq ≤ x.seq) ∧
      findWave (yBed [c] 0) c.wave = some tNow) ∧
    (let c := { yCopy 0 with finished := true, code := 1 }; (getCtx (yBed [c] 0) (yTeam [c]).ctx).flcount = 0 ∧ (yTeam [c]).ctx.toNat < (yBed [c] 0).ctxs.length) ∧
    (let c := { yCopy 0 with finished := true, seq := 1 }; ∃ x ∈ (yTeam [yCopy 0, c]).copies, x.wave = c.wave ∧ x.seq < c.seq) :=
  ⟨y_named _ _ _ (by decide +kernel) (by decide +kernel), y_placed 0 (by decide), by decide +kernel, by decide +kernel, by decide +kernel,
    y_named _ _ _ (by decide +kernel) (by decide +kernel), y_placed 1 (by decide), by decide +kernel, rfl, by decide +kernel, by decide +kernel, by decide +kernel,
    by decide +kernel, ⟨y_named _ _ _ (by decide +kernel) (by decide +kernel), by decide +kernel⟩, by decide +kernel, by decide +kernel⟩

def jRec : Rec :=
  { blankRec with
    run := 5, bytes := (List.range 64).map (fun k => BitVec.ofNat 8
      ((0x4000 + 0x4100 * 2 ^ 64 + 0x4200 * 2 ^ 192 + 85 * 2 ^ 290 + 16 * 2 ^ 352 + 16 * 2 ^ 384 + 16 * 2 ^ 416) / 256 ^ k)) }
def jTeam (j : Option JobState) (r : Rec) : Team := { tTeam with batch := [r], job := j, nbars := 0 }
def jBed (es : List Entry) (tm : Team) : State :=
  { bed tNow tNow tm with
    runs := [{ tRun with nodes := [{ tNode with kind := 6, outs := 0 }], edges := [] }], who := { agentReset with team := 6 },
    mem := [(0x4000, 3), (0x4100, 5)], engines := { engineReset with entries := es } :: List.replicate 31 engineReset }
def jEntry : Entry := { plainEntry (.job 6) 0 0 0 with state := .running, tokens := 64 }
def jJob : JobState := { left := [0], pass := 0, acc := [], old := [] }
theorem j_team (es : List Entry) (j : Option JobState) (r : Rec) : JobTeam (jBed es (jTeam j r)) (jTeam j r) r where
  team := ⟨rfl, rfl, rfl⟩
  node := ⟨rfl, rfl⟩
  batch := rfl
  live := ⟨tNow, by simp [jBed, bed], rfl, rfl⟩
  calm := fun w hw _ => by
    have : w = tNow := by simpa [jBed, bed] using hw
    subst this; rfl
theorem j_rows (acc : Access) (base stride n rows : Nat) (W : Loc → Prop) (es : List Entry) (tm : Team) (h : tm.core = 0 ∧ tm.ctx = 0)
    (hb : base + rows * stride + n < 68719476736) :
    RowsPlaced (jBed es tm) tm acc base stride n rows W (fun i k => kAt (base + i * stride + k)) := by
  intro i k hi hk
  have hm : i * stride ≤ rows * stride := Nat.mul_le_mul_right _ (by omega)
  have e : (BitVec.ofNat 64 (base + i * stride + k)).toNat = base + i * stride + k := by
    rw [BitVec.toNat_ofNat, Nat.mod_eq_of_lt (by omega)]
  refine ⟨rfl, by simp only [kAt]; omega, ?_, .inr (by simp [jBed, bed, State.reset]), fun _ _ => rfl⟩
  rw [h.1, h.2]
  have := tlb_placed (jBed es tm) rfl rfl (BitVec.ofNat 64 (base + i * stride + k)) acc W (by omega)
  rwa [e] at this
theorem j_bytes (base n rows : Nat) (es : List Entry) (tm : Team) :
    RowsHold (jBed es tm) tm rows n (fun i k => kAt (base + i * 16 + k)) (fun i k => cellsRead (jBed es tm).mem (base + i * 16 + k)) := by
  intro i k _ _ x hx
  have z : ∀ l, ccByte (jBed es tm) tm.core l = 0 := fun l => by simp [ccByte, jBed, bed, State.reset, cellsRead]
  simp only [Sees, seenByte, z, homeByte, kAt] at hx
  simpa [cbValid, cbDirty] using hx
theorem witness_MatrixJobsCompute :
    (let s := jBed [] (jTeam none jRec); let tm := jTeam none jRec; JobTeam s tm jRec ∧ tm.stopping = false ∧ tm.job = none ∧ jobEntry s tm = none ∧
      jobClass jRec = some .i8 ∧ jobBad jRec .i8 = false ∧ (coreCluster tm.core).toNat < s.engines.length ∧ freeEntry (getEngine s (coreCluster tm.core)) = some 0) ∧
    (let tm := jTeam (some jJob) jRec; let s := jBed [jEntry] tm; JobReady s tm jRec jEntry (fun i k => cellsRead s.mem (0x4000 + i * 16 + k)) (fun i k => cellsRead s.mem (0x4100 + i * 16 + k))
      (fun i k => kAt (0x4000 + i * 16 + k)) (fun i k => kAt (0x4100 + i * 16 + k)) (fun i k => kAt (0x4200 + i * 16 + k))) ∧
    (let r := { jRec with bytes := jRec.bytes.set 15 1 }; JobTeam (jBed [] (jTeam none r)) (jTeam none r) r ∧ jobClass r = some .i8 ∧ jobBad r .i8 = true ∧
      (getCtx (jBed [] (jTeam none r)) 0).flcount = 0) := by
  have m : jobM jRec = 1 := by decide +kernel
  have n : jobN jRec = 1 := by decide +kernel
  have k : jobK jRec = 1 := by decide +kernel
  have a : jobBits jRec 51 0 = 0x4000 := by decide +kernel
  have b : jobBits jRec 115 64 = 0x4100 := by decide +kernel
  have d : jobBits jRec 243 192 = 0x4200 := by decide +kernel
  have sa : jobBits jRec 383 352 = 16 := by decide +kernel
  have sb : jobBits jRec 415 384 = 16 := by decide +kernel
  have sd : jobBits jRec 447 416 = 16 := by decide +kernel
  refine ⟨⟨j_team _ _ _, by decide +kernel⟩, ⟨j_team _ _ _, by decide +kernel, by decide +kernel, rfl, ?_, ?_, ?_, ⟨?_, ?_⟩, ?_⟩, j_team _ _ _, by decide +kernel⟩
  · rw [a, sa, k, m]; exact j_rows _ _ _ _ _ _ _ _ ⟨rfl, rfl⟩ (by decide)
  · rw [b, sb, n, k]; exact j_rows _ _ _ _ _ _ _ _ ⟨rfl, rfl⟩ (by decide)
  · rw [d, sd, n, m]; exact j_rows _ _ _ _ _ _ _ _ ⟨rfl, rfl⟩ (by decide)
  · exact j_bytes 0x4000 _ _ _ _
  · exact j_bytes 0x4100 _ _ _ _
  · intro i j x y hi hj hx hy e
    simp only [m, n] at hi hj hx hy
    simp [kAt] at e
    omega

def zRaster (f : Option Flush) : Raster :=
  { node := 0, block := BitVec.ofNat 512 (0x40000 * 2 ^ 96 + 4 * 2 ^ 160), flushSeq := 0, emitted := 0, flush := f, stopped := false, finalDone := false, called := none }
def zRun (f : Option Flush) : Run :=
  { tRun with nodes := [{ tNode with kind := 4 }, { tNode with kind := 0, outs := 0 }], edges := [{ tEdge with dst := 1 }], rasters := [zRaster f] }
/-- Parameter memory at 0x40000: the bump pointer, and tile 0 with one primitive at unit 2, listed in the chunk at unit 3, or none. -/
def zMem (bump n : Nat) : Cells 8 :=
  let m := cellsWriteLE (cellsWriteLE (cellsWriteLE kPlain.mem 0x40000 bump 4) 0x40040 (3 * n + 3 * n * 2 ^ 32 + n * 2 ^ 64 + n * 2 ^ 96) 16) (0x40000 + 64 * 3) (2 * n) 4
  cellsWriteLE m (0x40000 + 64 * 2 + 8) (0x40000000 * n) 4
def zPrim (x1 y2 : Nat) : Rec := { cRec with bytes := (List.range 32).map (fun k => BitVec.ofNat 8 ((x1 * 2 ^ 64 + y2 * 2 ^ 160) / 256 ^ k)) }
def zBed (f : Option Flush) (bump n : Nat) (rs : List Rec) : State :=
  updCtx { kPlain with mem := zMem bump n, runs := [zRun f], recs := rs, who := { agentReset with run := 5 } } 0 (fun x => { x with recq := 10000, spillq := 10000 })
theorem z_named (f : Option Flush) (bump n : Nat) (rs : List Rec) : NamedRaster (zBed f bump n rs) (zRun f) (zRaster f) :=
  ⟨rfl, rfl, rfl, rfl⟩
theorem walk_down (s : State) (va : Nat) (acc : Access) (n table next : Nat) (h : pageEntry s va acc (n + 1) (entryPlace va (n + 1) table) = .ok (.table next)) :
    walk s va acc (n + 1) table = walk s va acc n next := by
  conv_lhs => rw [walk]
  rw [h]
theorem walk_end (s : State) (va : Nat) (acc : Access) (table : Nat) (hi : va < 1073741824) (hp : ∀ a, poisoned s a = false) (he : readPte s table = 15) :
    walk s va acc 2 table = .ok { base := 0, size := 1073741824, host := false, addr := 0, w := true, x := true } := by
  have i2 : entryPlace va 2 table = table := by
    have : va / 1073741824 % 512 = 0 := by omega
    simp [entryPlace, this]
  have i3 : va / 1073741824 = 0 := by omega
  have h : pageEntry s va acc 2 table = .ok (.leaf { base := 0, size := 1073741824, host := false, addr := 0, w := true, x := true }) := by
    simp [pageEntry, he, hp, pageSize, i3]
  rw [walk, i2, h]
theorem root_entry (s : State) (va : Nat) (acc : Access) (hp : ∀ a, poisoned s a = false) (he : readPte s 0x10000 = 0x20001) (hs : s.svc = serviceReset) :
    pageEntry s va acc 3 0x10000 = .ok (.table 0x20000) := by
  have g : (68719476736 : Nat) ≤ (BitVec.extractLsb' 12 40 (0x20001 : DWord)).toNat * 4096 ↔ False := by decide
  unfold pageEntry
  simp only [he, hp, hs, serviceReset, Config.gddrFull, g]
  rfl
/-- The walk of kPlain's tables, in any memory that holds them: the first GiB stands in its own place. -/
theorem walk_own (s : State) (m : Cells 8) (va : Nat) (acc : Access) (hs : s.svc = serviceReset ∧ s.poison = [] ∧ (getCtx s 0).ptroot = 0x10000)
    (h : ∀ a, (0x10000 ≤ a ∧ a < 0x10008) ∨ (0x20000 ≤ a ∧ a < 0x20008) → cellsRead m a = cellsRead kPlain.mem a) (hv : va < 1073741824) :
    translate { s with mem := m } 0 (BitVec.ofNat 64 va) acc = .ok (kAt va) := by
  have read : ∀ a, a = 0x10000 ∨ a = 0x20000 → readPte { s with mem := m } a = readPte kPlain a := by
    intro a ha
    simp only [readPte, cellsReadLE]
    rw [h a (by omega), h (a + 1) (by omega), h (a + 1 + 1) (by omega), h (a + 1 + 1 + 1) (by omega), h (a + 1 + 1 + 1 + 1) (by omega),
      h (a + 1 + 1 + 1 + 1 + 1) (by omega), h (a + 1 + 1 + 1 + 1 + 1 + 1) (by omega), h (a + 1 + 1 + 1 + 1 + 1 + 1 + 1) (by omega)]
  have r1 : readPte { s with mem := m } 0x10000 = 0x20001 := (read _ (.inl rfl)).trans (by decide +kernel)
  have r2 : readPte { s with mem := m } 0x20000 = 15 := (read _ (.inr rfl)).trans (by decide +kernel)
  have hn : (BitVec.ofNat 64 va).toNat = va := by rw [BitVec.toNat_ofNat, Nat.mod_eq_of_lt (by omega)]
  have hz : (BitVec.ofNat 64 va).extractLsb' 52 12 = 0#12 := by
    apply BitVec.eq_of_toNat_eq
    rw [BitVec.extractLsb'_toNat, hn, Nat.shiftRight_eq_div_pow]
    simp only [BitVec.toNat_ofNat]
    omega
  have p : ∀ a, poisoned { s with mem := m } a = false := fun a => by simp [poisoned, hs.2.1]
  have i1 : va / 549755813888 % 8192 = 0 := by omega
  have c : getCtx { s with mem := m } 0 = getCtx s 0 := rfl
  have w2 := walk_end { s with mem := m } va acc 0x20000 hv p r2
  have i3 : entryPlace va 3 0x10000 = 0x10000 := by simp [entryPlace, i1]
  have w3 := walk_down { s with mem := m } va acc 2 0x10000 0x20000 (by rw [i3]; exact root_entry _ va acc p r1 hs.1)
  have l : tableLeaf { s with mem := m } 0 (BitVec.ofNat 64 va) acc = .ok { base := 0, size := 1073741824, host := false, addr := 0, w := true, x := true } := by
    unfold tableLeaf
    rw [hz, hn, c, hs.2.2]
    exact (if_neg (by decide)).trans (w3.trans w2)
  unfold Sys2Proof.Machine.translate
  rw [l]
  have hm : va % 1073741824 = va := Nat.mod_eq_of_lt hv
  have hq : va % 4503599627370496 = va := Nat.mod_eq_of_lt (by omega)
  simp [placeIn, leafPlace, hs.1, serviceReset, Config.gddrFull, hn, kAt, hm, hq]
  omega
theorem z_placed (f : Option Flush) (bump n : Nat) (rs : List Rec) 
    (ht : ∀ k < 8, cellsRead (zMem bump n) (0x10000 + k) = cellsRead kPlain.mem (0x10000 + k) ∧ cellsRead (zMem bump n) (0x20000 + k) = cellsRead kPlain.mem (0x20000 + k)) :
    PmPlaced (zBed f bump n rs) (zRun f) (zRaster f) (fun o => kAt (0x40000 + o)) := by
  have u : rbUnits (zRaster f) = 16 := by show 4 * bitsOf (zRaster none).num 191 160 = 16; decide +kernel
  have b : rbBase (zRaster f) = 0x40000 := by show bitsOf (zRaster none).num 147 96 = _; decide +kernel
  refine ⟨⟨by rw [u]; decide, by rw [u]; show heapStart (zRaster none).num + 2 ≤ 16; decide +kernel⟩, ?_, ?_, ?_, ?_, ?_⟩
  · intro x k _ _; simp [kAt, Loc.plus, Nat.add_assoc]
  · intro x _; simp only [kAt]; omega
  · intro o p _ _ e; simpa [kAt] using e
  · intro o _; right; simp [zBed, updCtx, setCtx, kPlain, kBed, withQueue, withCode, updQueue, State.reset]
  · intro m hm o acc ho _
    rw [u] at ho
    rw [b]
    refine walk_own _ m _ _ ⟨rfl, rfl, rfl⟩ (fun a ha => ?_) (by omega)
    rw [hm a (fun o ho e => by rw [u] at ho; simp [kAt] at e; omega)]
    show cellsRead (zMem bump n) a = _
    rcases ha with h | h
    · have := (ht (a - 0x10000) (by omega)).1
      rwa [show 0x10000 + (a - 0x10000) = a by omega] at this
    · have := (ht (a - 0x20000) (by omega)).2
      rwa [show 0x20000 + (a - 0x20000) = a by omega] at this
def zFlush : Flush := { final := true, tile := 0, prims := [2, 3] }
def zNext (s : State) (f : Option Flush) (o : Option (Nat × List Nat)) : Bool := match nextTile s 0 (zRaster f) 1 0 with
  | .ok p => decide (p = o)
  | .error _ => false
theorem zNext_eq {s : State} {f : Option Flush} {o : Option (Nat × List Nat)} (h : zNext s f o = true) : nextTile s 0 (zRaster f) 1 0 = .ok o := by
  unfold zNext at h
  split at h <;> simp_all
theorem witness_RasterNodesRun :
    (NamedRaster (zBed none 2 0 []) (zRun none) (zRaster none) ∧ (zRun none).ctx.toNat < (zBed none 2 0 []).ctxs.length ∧ (zRaster none).stopped = false ∧
      ({ zRaster none with stopped := true } : Raster).stopped = true ∧ queuePart (zBed none 2 0 []) 5 0 (rasterHome (zRaster none)) = []) ∧
    PmPlaced (zBed none 2 0 []) (zRun none) (zRaster none) (fun o => kAt (0x40000 + o)) ∧ PmPlaced (zBed none 16 1 []) (zRun none) (zRaster none) (fun o => kAt (0x40000 + o)) ∧
    (let s := zBed none 2 0 [zPrim 0x40000000 0x40000000]; binChoice (zRaster none) s.who.count (queuePart s 5 0 (rasterHome (zRaster none))) = some (zPrim 0x40000000 0x40000000) ∧
      (∀ g ∈ s.tags, g.place ≠ .record (zPrim 0x40000000 0x40000000).tag) ∧ snapAll (zPrim 0x40000000 0x40000000).bytes = some [0, 0, 512, 0, 0, 512] ∧
      snapAll (zPrim 0x7FC00000 0).bytes = none ∧ snapAll (zPrim 0 0).bytes = some [0, 0, 0, 0, 0, 0] ∧ culled (zRaster none) (signedArea [0, 0, 0, 0, 0, 0]) = true ∧
      culled (zRaster none) (signedArea [0, 0, 512, 0, 0, 512]) = false) ∧
    (let v := [0, 0, 512, 0, 0, 512]; let place := fun o => kAt (0x40000 + o); let x := zRaster none;
      bumpWord (zBed none 2 0 []) place = 2 ∧ unitsNeeded (zBed none 2 0 []) x place v = 2 ∧ heapStart x.num = 2 ∧ rbUnits x = 16 ∧ HeadsSane (zBed none 2 0 []) x place v ∧
      bumpWord (zBed none 16 1 []) place = 16 ∧ unitsNeeded (zBed none 16 1 []) x place v = 1) ∧
    (rasterTiles (zRaster none).num = 1 ∧ nextTile (zBed none 16 1 []) 0 (zRaster none) 1 0 = .ok (some (0, [2])) ∧ nextTile (zBed none 2 0 []) 0 (zRaster none) 1 0 = .ok none ∧
      inputsDone (zBed none 16 1 []) (zRun none) (zRaster none) = true ∧ (zRaster none).finalDone = false) ∧
    (let f := some zFlush; let s := zBed f 4 1 []; PmPlaced s (zRun f) (zRaster f) (fun o => kAt (0x40000 + o)) ∧ portEdge (zRun f) 0 0 = some 0 ∧
      2 < rbUnits (zRaster f) ∧ 0 < rasterTiles (zRaster f).num ∧ quadRoom s (zRun f) (zRaster f) 1 = true ∧ quadRoom { s with ctxs := kPlain.ctxs } (zRun f) (zRaster f) 1 = false) :=
  ⟨⟨z_named _ _ _ _, by decide +kernel⟩, z_placed _ _ _ _ (by decide +kernel), z_placed _ _ _ _ (by decide +kernel), by decide +kernel,
    by unfold HeadsSane; decide +kernel, ⟨by decide +kernel, zNext_eq (by decide +kernel), zNext_eq (by decide +kernel), by decide +kernel⟩,
    z_placed _ _ _ _ (by decide +kernel), by decide +kernel⟩

def wSpin : Wave := { tNow with spin := 65535, backMark := true }
def wTeam : Team := { tTeam with placedAt := 0 }
/-- A spinning team, placed long ago, beside a SWAPPED one. -/
def wBed (es : List Entry) : State :=
  { bed wSpin wSpin wTeam with
    teams := [wTeam, { tTeam with id := 9, status := .swapped, winSize := 0, nwaves := 0, saved := some { entries := [], place := 0, size := 0 } }],
    stks := [{ stackReset with mclk := 70000 }, stackReset], engines := { engineReset with entries := es } :: List.replicate 31 engineReset }
def wStopped (es : List Entry) : State := updStack (stopTeam (wBed es) 6) 0 (fun z => { z with rotatedAt := some (masterClock (wBed es) 0) })
theorem witness_Rotation :
    (let s := wBed []; s.badAddr = none ∧ (leavingTeam s 0 0).isNone = true ∧ rotationDue s 0 0 = true ∧ rotationVictim s 0 0 = some wTeam ∧
      rotationDue State.reset 0 0 = false) ∧
    (let s := wStopped []; (leavingTeam s 0 0).any (fun y => decide (y.id = 6) && teamQuiet s y) = true ∧ s.badAddr = none ∧ (getCtx s 0).saving = false) ∧
    (let s := wStopped [tDone iMiter 1]; (leavingTeam s 0 0).any (fun y => decide (y.id = 6) && !teamQuiet s y) = true ∧ s.badAddr = none) := by decide +kernel

/-! ### Witnesses: steps, encodings and memory -/

def eAct (i : Instr) : State := { State.reset with agenda := [.act agentReset i] }
def eIssue : State := State.reset.withFetchWord 64 (tWord iFadd).toNat
def eAfter : State := { eIssue with agenda := [] }
def eBid : Bid := (selected eAfter 0 0).getD (mkBid eAfter blankWave .a 0 0)
def eWave : Wave := (findWave eAfter 2).getD blankWave
def eStage : State := stageOf (markTurn eAfter eWave) eWave .a (bundleSets (tBundle iFadd))
def eCommand : State := State.reset.withFetchWord 72 0x6184000000000000
theorem witness_StepRunsDecoded :
    ((eAct .placeTeam).agenda = [.act agentReset .placeTeam] ∧ isProgram .placeTeam = false ∧ isProgram .nop = true ∧ State.reset.agenda = []) ∧
    (eIssue.agenda = [.issue 0 0] ∧ selected eAfter 0 0 = some eBid ∧ eBid.who = .wave 2 ∧ eBid.slot = .a ∧ findWave eAfter 2 = some eWave ∧ eAfter.clockMark ≤ wavePlace eWave ∧
      eWave.bfaults = [] ∧ slotPath (getSlot eWave .a) = some (tPath 0x1000) ∧ translateAt (markTurn eAfter eWave) 0 0 0x1000 .fetch = .ok (kAt 0x1000) ∧
      codeHeld (markTurn eAfter eWave) 0 (kAt 0x1000) = none ∧ rangePoisoned (markTurn eAfter eWave) (kAt 0x1000) 32 = false) ∧
    (decodeBundleBits (BitVec.ofNat 256 (littleEndian (fun k => homeByte (markTurn eAfter eWave) (Loc.plus (kAt 0x1000) k)) 32)) = .ok (tBundle iFadd) ∧
      faultedOp eWave (tBundle iFadd) = none ∧ bundleWaits (markTurn eAfter eWave) eWave (tBundle iFadd) = false ∧ bundleTrap eStage (tBundle iFadd) = none ∧
      anyHeld eStage (tBundle iFadd) = false ∧ anyDrains eStage (tBundle iFadd) = false ∧ bundleInstrs (tBundle iFadd) = [(0, iFadd)] ∧
      (bundleInstrs (tBundle iFadd)).any (fun e => usesStack e.2 || raisesTrap e.2) = false) ∧
    (eCommand.agenda = [.command] ∧ (let c := { eCommand with agenda := [] }; allQueues.foldl settleLane c = c ∧ readyLanes c = [(0, .launch 6 1)] ∧
      fetchWord c (getQueue c 0) = some 0x6184000000000000)) :=
  ⟨by decide +kernel, by decide +kernel, by decide +kernel, by decide +kernel⟩
theorem witness_EncodingsRoundTrip : wellFormed iFadd = true ∧ encode iFadd = some (.slot 0 (tWord iFadd)) ∧ decodeSlot 2 0xD300000000000000 = .ok .trapret ∧
    decodeHalf 1 0xC0080600 = .ok (.pairedIadd { d := ⟨false, 4⟩, b := .vec ⟨false, 6⟩, pr := .always, nb := false }) ∧
    decodeKeyway 0x05C0000000000000 = .ok (.qli 7 0) := by decide +kernel
def tNexts : Host.Outcome State Fault Refusal → Bool
  | .next _ => true
  | _ => false
theorem witness_MemoryStaysCanonical : Memory.wf State.reset = true ∧ tNexts (step State.reset) = true ∧ Memory.wf eIssue = true ∧ tNexts (step eIssue) = true := by decide +kernel

/-! ### Terms that no encoding may hold (07 R208): one for each check -/

def refused (l : List Instr) : Bool := l.all (fun i => !wellFormed i)
def zPlain : Mod := ⟨false, false⟩
theorem test_refuses_conditions_and_types : refused [
    .fcmp ⟨.always, 0, ⟨false, 1⟩, .vec ⟨false, 2⟩, 14, zPlain, zPlain⟩, .icmp ⟨.always, 0, ⟨false, 1⟩, .vec ⟨false, 2⟩, 10⟩,
    .cvt ⟨.always, ⟨false, 1⟩, ⟨false, 2⟩, .none, false, ⟨true, false⟩, .fp32, .int32⟩, .scvt ⟨2, 4, .none, false, ⟨false, true⟩, .fp32, .int32⟩,
    .scvt ⟨3, 4, .none, false, zPlain, .int64, .fp32⟩, .scvt ⟨2, 5, .none, false, zPlain, .fp32, .int64⟩,
    .pack ⟨.always, ⟨false, 1⟩, ⟨false, 2⟩, none, .none, false, .fp16, .int32⟩, .pack ⟨.always, ⟨false, 1⟩, ⟨false, 2⟩, some (.scl 4), .none, false, .int8, .int32⟩,
    .unpack ⟨.always, ⟨false, 1⟩, ⟨false, 2⟩, none, .rz, false, .int32, .int8⟩, .dot8F4 ⟨.always, ⟨false, 1⟩, ⟨false, 2⟩, .scl 3, ⟨false, 4⟩, true, false, .none, zPlain⟩,
    .setfmtImm 6, .setfmtImm 0x200, .rcp ⟨.always, ⟨false, 1⟩, ⟨false, 2⟩, .rz, zPlain⟩, .pairedMov ⟨⟨false, 1⟩, .vec ⟨false, 2⟩, .always, true⟩] = true := by decide
theorem test_refuses_registers : refused [
    .sadd ⟨3, 4, 6⟩ true, .ssub ⟨2, 5, 6⟩ true, .brx ⟨.on false 1, 3, 4⟩, .yieldCopy 3 0, .acopy 4, .acopy2d 12, .mma ⟨.always, 0, 2, ⟨false, 4⟩, 0, 0, ⟨false, 8⟩⟩,
    .mload ⟨.always, 0, 3, .f16⟩, .mspload .always 3 0, .texG ⟨.always, ⟨false, 4⟩, ⟨false, 8⟩, ⟨false, 9⟩, 4⟩, .clock true 3, .savew 3, .restw 5, .rdsr 65 2] = true := by decide
theorem test_refuses_sizes_and_scopes : refused [
    .bra ⟨.always, 8, 16⟩, .rgrowImm 0, .rgrowImm 33, .rshrinkImm 0, .ldG { memOps 10 .release .dev with ord := .release }, .ldG (memOps 10 .plain .dev),
    .ldG (memOps 10 .sc .team), .ldG { memOps 10 .acquire .dev with size := .b16 }, .ldG { memOps 10 .plain .wave with sx := true, size := .b4 },
    .ldG { memOps 10 .plain .wave with a := .scl 3 }, .stG { memOps 10 .plain .wave with sx := true }, .stG (memOps 10 .acquire .dev), .ldL (memOps 10 .sc .dev),
    .ldP (memOps 10 .relaxed .wave), .ldw (memOps 10 .relaxed .wave), .atomG { oAtomL with ord := .plain, scope := .wave }, .atomL { oAtomL with size := .b2 },
    .atomL { oAtomL with hint := .evictLast }, .sc { oSc with scope := .team }, .sc { oSc with ord := .acquire }, .fence .sc .dev,
    .sldC ⟨4, 10, .relaxed, .wave, .b4, .none, 0⟩, .sldG ⟨5, 10, .plain, .wave, .b8, .none, 0⟩, .waitaddr { oWait false with a := 3 },
    .miter ⟨.always, 6, 3, 1, 8, .poly 0⟩, .mpoly .always 1 1 4, .mpoly .always 1 2 0, .wait .always false 0 1 2 0] = true := by decide

/-! ### Words written out from the encoding tables of 07 R208 R211, 08 to 11 and 16 R388 -/

def readsAll {n : Nat} (dec : BitVec n → Except DecErr Instr) (l : List (BitVec n × Instr)) : Bool :=
  l.all (fun x => match dec x.1 with
    | .ok i => decide (i = x.2)
    | .error _ => false)
theorem test_decode_floating_point : readsAll (decodeSlot 0) [
    (0x01902A0805004640, .fadd ⟨.on false 2, ⟨false, 10⟩, ⟨true, 4⟩, .scl 5, .rn, ⟨true, false⟩, ⟨false, true⟩⟩),
    (0x02902A0805005640, .fsub ⟨.on false 2, ⟨false, 10⟩, ⟨true, 4⟩, .scl 5, .rz, ⟨true, false⟩, ⟨false, true⟩⟩),
    (0x03902A0805006640, .fmul ⟨.on false 2, ⟨false, 10⟩, ⟨true, 4⟩, .scl 5, .ru, ⟨true, false⟩, ⟨false, true⟩⟩),
    (0x09902A0805007640, .hadd2 ⟨.on false 2, ⟨false, 10⟩, ⟨true, 4⟩, .scl 5, .rd, ⟨true, false⟩, ⟨false, true⟩⟩),
    (0x0A902A0805000640, .hmul2 ⟨.on false 2, ⟨false, 10⟩, ⟨true, 4⟩, .scl 5, .none, ⟨true, false⟩, ⟨false, true⟩⟩),
    (0x04D0280805FFC090, .ffma ⟨.on true 2, ⟨false, 10⟩, ⟨false, 4⟩, .vec ⟨false, 5⟩, ⟨true, 255⟩, .rn, ⟨false, false⟩, ⟨true, false⟩, ⟨false, true⟩⟩),
    (0x0BD0280805FFC090, .hfma2 ⟨.on true 2, ⟨false, 10⟩, ⟨false, 4⟩, .vec ⟨false, 5⟩, ⟨true, 255⟩, .rn, ⟨false, false⟩, ⟨true, false⟩, ⟨false, true⟩⟩),
    (0x0503200905000180, .fmin ⟨.always, ⟨false, 200⟩, ⟨false, 4⟩, .vec ⟨true, 5⟩, ⟨false, true⟩, ⟨true, false⟩⟩),
    (0x0603200905000180, .fmax ⟨.always, ⟨false, 200⟩, ⟨false, 4⟩, .vec ⟨true, 5⟩, ⟨false, true⟩, ⟨true, false⟩⟩),
    (0x0C03200905000180, .hmin2 ⟨.always, ⟨false, 200⟩, ⟨false, 4⟩, .vec ⟨true, 5⟩, ⟨false, true⟩, ⟨true, false⟩⟩),
    (0x0D03200905000180, .hmax2 ⟨.always, ⟨false, 200⟩, ⟨false, 4⟩, .vec ⟨true, 5⟩, ⟨false, true⟩, ⟨true, false⟩⟩),
    (0x07D01C083F00060D, .fcmp ⟨.on true 2, 7, ⟨false, 4⟩, .scl 63, 13, ⟨true, false⟩, ⟨false, false⟩⟩),
    (0x0800040400006300, .frnd ⟨.always, ⟨false, 1⟩, ⟨false, 2⟩, .ru, ⟨true, true⟩⟩)] = true := by decide +kernel

theorem test_decode_conversions_and_dots : readsAll (decodeSlot 0) [
    (0x0E000C1200000048, .cvt ⟨.always, ⟨false, 3⟩, ⟨false, 9⟩, .none, false, ⟨false, false⟩, .e2m1, .fp32⟩),
    (0x0E900C1200007A91, .cvt ⟨.on false 2, ⟨false, 3⟩, ⟨false, 9⟩, .rd, true, ⟨true, false⟩, .int32, .bf16⟩),
    (0x0F00501005000648, .pack ⟨.always, ⟨false, 20⟩, ⟨false, 8⟩, some (.scl 5), .none, false, .e2m1, .fp32⟩),
    (0x100078280000008D, .unpack ⟨.always, ⟨false, 30⟩, ⟨false, 20⟩, none, .none, false, .fp32, .e8m0⟩),
    (0x1100040403020802, .dot4I8 ⟨.always, ⟨false, 1⟩, ⟨false, 2⟩, .vec ⟨false, 3⟩, ⟨false, 4⟩, false, true, true⟩),
    (0x1200040403020802, .dot8I4 ⟨.always, ⟨false, 1⟩, ⟨false, 2⟩, .vec ⟨false, 3⟩, ⟨false, 4⟩, false, true, true⟩),
    (0x1300040403025421, .dot4F8 ⟨.always, ⟨false, 1⟩, ⟨false, 2⟩, .scl 3, ⟨false, 4⟩, true, false, .rz, ⟨true, false⟩⟩),
    (0x1400040403025420, .dot8F4 ⟨.always, ⟨false, 1⟩, ⟨false, 2⟩, .scl 3, ⟨false, 4⟩, false, false, .rz, ⟨true, false⟩⟩),
    (0x1500040403025422, .dot2H ⟨.always, ⟨false, 1⟩, ⟨false, 2⟩, .scl 3, ⟨false, 4⟩, false, true, .rz, ⟨true, false⟩⟩)] = true := by decide +kernel

theorem test_decode_paired_halves_slot_0 : readsAll (decodeHalf 0) [
    (0x041203D6, .pairedFadd ⟨⟨false, 9⟩, .scl 3, .on true 2, true⟩),
    (0x081203D6, .pairedFsub ⟨⟨false, 9⟩, .scl 3, .on true 2, true⟩),
    (0x0C1203D6, .pairedFmul ⟨⟨false, 9⟩, .scl 3, .on true 2, true⟩),
    (0x141203D6, .pairedFmin ⟨⟨false, 9⟩, .scl 3, .on true 2, true⟩),
    (0x181203D6, .pairedFmax ⟨⟨false, 9⟩, .scl 3, .on true 2, true⟩),
    (0x241203D6, .pairedHadd2 ⟨⟨false, 9⟩, .scl 3, .on true 2, true⟩),
    (0x281203D6, .pairedHmul2 ⟨⟨false, 9⟩, .scl 3, .on true 2, true⟩)] = true := by decide +kernel

theorem test_decode_paired_halves_slot_1 : readsAll (decodeHalf 1) [
    (0x46080600, .pairedMov ⟨⟨true, 4⟩, .vec ⟨false, 6⟩, .always, false⟩),
    (0xC2080600, .pairedIadd ⟨⟨true, 4⟩, .vec ⟨false, 6⟩, .always, false⟩),
    (0xCA080600, .pairedIsub ⟨⟨true, 4⟩, .vec ⟨false, 6⟩, .always, false⟩),
    (0xDA080600, .pairedIand ⟨⟨true, 4⟩, .vec ⟨false, 6⟩, .always, false⟩),
    (0xDE080600, .pairedIor ⟨⟨true, 4⟩, .vec ⟨false, 6⟩, .always, false⟩),
    (0xE2080600, .pairedIxor ⟨⟨true, 4⟩, .vec ⟨false, 6⟩, .always, false⟩),
    (0xE6080600, .pairedIshl ⟨⟨true, 4⟩, .vec ⟨false, 6⟩, .always, false⟩),
    (0xEA080600, .pairedIshr ⟨⟨true, 4⟩, .vec ⟨false, 6⟩, .always, false⟩),
    (0xEE080600, .pairedIsar ⟨⟨true, 4⟩, .vec ⟨false, 6⟩, .always, false⟩),
    (0xF2080600, .pairedImin ⟨⟨true, 4⟩, .vec ⟨false, 6⟩, .always, false⟩),
    (0xF6080600, .pairedImax ⟨⟨true, 4⟩, .vec ⟨false, 6⟩, .always, false⟩),
    (0xE0120304, .pairedIxor ⟨⟨false, 9⟩, .scl 3, .always, false⟩)] = true := by decide +kernel

theorem test_decode_scalar_integer : readsAll (decodeSlot 1) [
    (0x200008083E000001, .sadd ⟨2, 4, 62⟩ true),
    (0x210008083E000001, .ssub ⟨2, 4, 62⟩ true),
    (0x22000C0A3F000000, .smul ⟨3, 5, 63⟩),
    (0x24000C0A3F000000, .sand ⟨3, 5, 63⟩),
    (0x25000C0A3F000000, .sor ⟨3, 5, 63⟩),
    (0x26000C0A3F000000, .sxor ⟨3, 5, 63⟩),
    (0x27000C0A3F000000, .sshl ⟨3, 5, 63⟩),
    (0x28000C0A3F000000, .sshr ⟨3, 5, 63⟩),
    (0x29000C0A3F000000, .ssar ⟨3, 5, 63⟩),
    (0x23000C0A3F000001, .smulhi ⟨3, 5, 63⟩ true),
    (0x2A000C0A3F000001, .smin ⟨3, 5, 63⟩ true),
    (0x2B000C0A3F000001, .smax ⟨3, 5, 63⟩ true),
    (0x2C000C0A06000009, .scmp ⟨3, 5, 6⟩ 9),
    (0x2D000C0A06038000, .ssel ⟨3, 5, 6⟩ 7),
    (0x2E000C0A00000000, .smov 3 5),
    (0x2F000C00DEADBEEF, .smovi 3 0xDEADBEEF),
    (0x5600080A000041B8, .scvt ⟨2, 5, .rn, false, ⟨false, true⟩, .int64, .fp32⟩)] = true := by decide +kernel

theorem test_decode_vector_integer : readsAll (decodeSlot 1) [
    (0x3000301803000400, .iadd ⟨.always, ⟨false, 12⟩, ⟨false, 12⟩, .scl 3⟩ .wrap),
    (0x3090040403000800, .iadd ⟨.on false 2, ⟨false, 1⟩, ⟨false, 2⟩, .vec ⟨false, 3⟩⟩ .signed),
    (0x3200040403000801, .isub ⟨.always, ⟨false, 1⟩, ⟨false, 2⟩, .vec ⟨false, 3⟩⟩ .unsigned),
    (0x3100100806030005, .iaddc ⟨.always, ⟨false, 4⟩, ⟨false, 4⟩, .vec ⟨false, 6⟩⟩ 6 5),
    (0x3300040403000400, .imul ⟨.always, ⟨false, 1⟩, ⟨false, 2⟩, .scl 3⟩),
    (0x3600040403000400, .iand ⟨.always, ⟨false, 1⟩, ⟨false, 2⟩, .scl 3⟩),
    (0x3700040403000400, .ior ⟨.always, ⟨false, 1⟩, ⟨false, 2⟩, .scl 3⟩),
    (0x3800040403000400, .ixor ⟨.always, ⟨false, 1⟩, ⟨false, 2⟩, .scl 3⟩),
    (0x3900040403000400, .ishl ⟨.always, ⟨false, 1⟩, ⟨false, 2⟩, .scl 3⟩),
    (0x3A00040403000400, .ishr ⟨.always, ⟨false, 1⟩, ⟨false, 2⟩, .scl 3⟩),
    (0x3B00040403000400, .isar ⟨.always, ⟨false, 1⟩, ⟨false, 2⟩, .scl 3⟩),
    (0x3400040403000001, .imulhi ⟨.always, ⟨false, 1⟩, ⟨false, 2⟩, .vec ⟨false, 3⟩⟩ true),
    (0x3C00040403000001, .imin ⟨.always, ⟨false, 1⟩, ⟨false, 2⟩, .vec ⟨false, 3⟩⟩ true),
    (0x3D00040403000001, .imax ⟨.always, ⟨false, 1⟩, ⟨false, 2⟩, .vec ⟨false, 3⟩⟩ true),
    (0x4000040403000001, .bfx ⟨.always, ⟨false, 1⟩, ⟨false, 2⟩, .vec ⟨false, 3⟩⟩ true),
    (0x3500040403020000, .imad ⟨.always, ⟨false, 1⟩, ⟨false, 2⟩, .vec ⟨false, 3⟩, ⟨false, 4⟩⟩),
    (0x4100040403020000, .bfd ⟨.always, ⟨false, 1⟩, ⟨false, 2⟩, .vec ⟨false, 3⟩, ⟨false, 4⟩⟩),
    (0x4500040403020000, .bytsel ⟨.always, ⟨false, 1⟩, ⟨false, 2⟩, .vec ⟨false, 3⟩, ⟨false, 4⟩⟩),
    (0x3E00180403000008, .icmp ⟨.always, 6, ⟨false, 2⟩, .vec ⟨false, 3⟩, 8⟩),
    (0x3F00040403028000, .isel ⟨.always, ⟨false, 1⟩, ⟨false, 2⟩, .vec ⟨false, 3⟩⟩ 5),
    (0x4200040400000000, .popc ⟨.always, ⟨false, 1⟩, ⟨false, 2⟩⟩),
    (0x4300040400000000, .clz ⟨.always, ⟨false, 1⟩, ⟨false, 2⟩⟩),
    (0x4400040400000000, .brev ⟨.always, ⟨false, 1⟩, ⟨false, 2⟩⟩)] = true := by decide +kernel

theorem test_decode_cross_lane_and_predicates : readsAll (decodeSlot 1) [
    (0x4600040403000003, .shfl ⟨.always, ⟨false, 1⟩, ⟨false, 2⟩, .vec ⟨false, 3⟩⟩ .xor),
    (0x4790040C00018006, .vote (.on false 2) 1 6 true (.any 3)),
    (0x4800040400000004, .redux .always (.total 1) ⟨false, 2⟩ .maxu),
    (0x4800040400000008, .redux .always (.scan ⟨false, 1⟩) ⟨false, 2⟩ .add),
    (0x4900040403000000, .bcast .always ⟨false, 1⟩ ⟨false, 2⟩ (some 3)),
    (0x4900040400000001, .bcast .always ⟨false, 1⟩ ⟨false, 2⟩ none),
    (0x4A00040400000001, .matchLanes ⟨.always, ⟨false, 1⟩, ⟨false, 2⟩⟩ true),
    (0x4B00040403000000, .rdlane 1 ⟨false, 2⟩ 3),
    (0x4C00040403000000, .wrlane ⟨false, 1⟩ 2 3),
    (0x4D00040403024600, .plop ⟨.always, 1, 2, 3, 4, 8, 0xC⟩),
    (0x4E00040000000001, .pset .always 1 .one),
    (0x4E00040009000003, .pset .always 1 (.nonzero 9)),
    (0x4F00040E00000000, .pget 1 7),
    (0x5000040E00000000, .pcnt 1 7),
    (0x5100040007000000, .mov .always ⟨false, 1⟩ (.vec ⟨false, 7⟩)),
    (0x52D4040080000001, .movi (.on true 2) ⟨true, 1⟩ 0x80000001),
    (0x5300000A00000000, .ixset 5),
    (0x5400000A00000000, .ixadd 5),
    (0x5500140000000000, .ixget 5)] = true := by decide +kernel

theorem test_decode_control : readsAll (decodeSlot 2) [
    (0x6000000000000000, .nop),
    (0x6190000040000080, .bra ⟨.on false 2, 8, 16⟩),
    (0x6290000C00FFFFFF, .brx ⟨.on false 2, 6, 0xFFFFFF⟩),
    (0x6300000000000000, .join),
    (0x6407FFFFF0A00000, .call 0xFFFFFE ⟨false, 40⟩),
    (0x6500005000000000, .ret ⟨false, 40⟩),
    (0x6600000000000000, .exit),
    (0x6700000000000000, .regroup),
    (0x6800000000000ABC, .trap 0xABC),
    (0x6900000000000001, .bpt 1),
    (0x6A00000000000000, .slotsw),
    (0x6B00000000004020, .rgrowImm 32),
    (0x6B00000600000000, .rgrowReg 3),
    (0x6C00000000004001, .rshrinkImm 1),
    (0x6C00000600000000, .rshrinkReg 3),
    (0x6D00000000004155, .setfmtImm 0x155),
    (0x6D00000600000000, .setfmtReg 3),
    (0x6E000C0000000000, .getfmt 3),
    (0x7000040400000200, .rcp ⟨.always, ⟨false, 1⟩, ⟨false, 2⟩, .none, ⟨true, false⟩⟩),
    (0x7100040400000200, .rsq ⟨.always, ⟨false, 1⟩, ⟨false, 2⟩, .none, ⟨true, false⟩⟩),
    (0x7300040400000200, .ex2 ⟨.always, ⟨false, 1⟩, ⟨false, 2⟩, .none, ⟨true, false⟩⟩),
    (0x7400040400000200, .lg2 ⟨.always, ⟨false, 1⟩, ⟨false, 2⟩, .none, ⟨true, false⟩⟩),
    (0x7500040400000200, .sin ⟨.always, ⟨false, 1⟩, ⟨false, 2⟩, .none, ⟨true, false⟩⟩),
    (0x7600040400000200, .cos ⟨.always, ⟨false, 1⟩, ⟨false, 2⟩, .none, ⟨true, false⟩⟩),
    (0x7700040400000200, .tanh ⟨.always, ⟨false, 1⟩, ⟨false, 2⟩, .none, ⟨true, false⟩⟩),
    (0x7200040400007000, .sqrt ⟨.always, ⟨false, 1⟩, ⟨false, 2⟩, .rd, ⟨false, false⟩⟩)] = true := by decide +kernel

theorem test_decode_memory : readsAll (decodeSlot 2) [
    (0x8088503C00010040, .ldG ⟨.on false 1, ⟨false, 20⟩, .vec ⟨false, 30⟩, false, .plain, .wave, .b4, .none, 0x40⟩),
    (0x8000040800B1DFFF, .ldG ⟨.always, ⟨false, 1⟩, .scl 4, false, .sc, .sys, .b8, .evictLast, 0xFFF⟩),
    (0x8100040A01448000, .ldL ⟨.always, ⟨false, 1⟩, .vec ⟨false, 5⟩, true, .acquire, .team, .b2, .none, 0⟩),
    (0x8200100A00022000, .ldP ⟨.always, ⟨false, 4⟩, .vec ⟨false, 5⟩, false, .plain, .wave, .b16, .evictFirst, 0⟩),
    (0x83000408006D0000, .stG ⟨.always, ⟨false, 1⟩, .vec ⟨false, 4⟩, false, .release, .dev, .b4, .none, 0⟩),
    (0x8400040800281000, .stL ⟨.always, ⟨false, 1⟩, .scl 4, false, .relaxed, .core, .b1, .none, 0⟩),
    (0x8500040800008800, .stP ⟨.always, ⟨false, 1⟩, .vec ⟨false, 4⟩, false, .plain, .wave, .b2, .none, 0x800⟩),
    (0x8600200800021000, .sldC ⟨8, 4, .plain, .wave, .b16, .none, 0⟩),
    (0x87000808002D9000, .sldG ⟨2, 4, .relaxed, .dev, .b8, .none, 0⟩),
    (0x8800040401000000, .ldw ⟨.always, ⟨false, 1⟩, .vec ⟨false, 2⟩, true, .plain, .wave, .b1, .none, 0⟩),
    (0x89001808076D1010, .atomG ⟨.add, .always, ⟨false, 6⟩, .scl 4, ⟨false, 7⟩, .release, .dev, .b4, .none, 0x10⟩),
    (0x8A00AC542C250000, .atomL ⟨.add, .always, ⟨false, 43⟩, .vec ⟨false, 42⟩, ⟨false, 44⟩, .relaxed, .team, .b4, .none, 0⟩),
    (0x8A00080C088589FC, .atomL ⟨.cas, .always, ⟨false, 2⟩, .vec ⟨false, 6⟩, ⟨false, 8⟩, .acqRel, .team, .b8, .none, 0xFC⟩),
    (0x8B00080C082D0204, .fatom ⟨.addBf16x2, .always, ⟨false, 2⟩, .vec ⟨false, 6⟩, ⟨false, 8⟩, .relaxed, .dev, .none, 4⟩),
    (0x8C00080C00518000, .lr ⟨.always, ⟨false, 2⟩, .vec ⟨false, 6⟩, .acquire, .sys, .b8, 0⟩),
    (0x8D00080C086D0000, .sc ⟨.always, ⟨false, 2⟩, .vec ⟨false, 6⟩, ⟨false, 8⟩, .release, .dev, .b4, 0⟩),
    (0x8E000000008C0000, .fence .acqRel .dev),
    (0x8F00000000700000, .cclean .sys),
    (0x9000000000480000, .cinv .core),
    (0x9100000C00004001, .prefetch ⟨.always, .vec ⟨false, 6⟩, .evictLast, 1⟩),
    (0x92000808064D17FF, .waitaddr ⟨2, 4, 6, .dev, .b4, false, 0x7FF⟩),
    (0x9200080A06459801, .waitaddr ⟨2, 5, 6, .team, .b8, true, 1⟩)] = true := by decide +kernel

theorem test_decode_synchronisation_and_records : readsAll (decodeSlot 2) [
    (0xA800081000000000, .qappend ⟨.always, 2, ⟨false, 8⟩, 0⟩),
    (0xA888141000000000, .qappend ⟨.on false 1, 5, ⟨false, 8⟩, 0⟩),
    (0xA900000000004108, .recld ⟨.always, ⟨false, 0⟩, .self, none, .b16, 16⟩),
    (0xA900040A03002047, .recld ⟨.always, ⟨false, 1⟩, .by (.scl 3), some (.scl 5), .b4, 4⟩),
    (0xAA00040000000006, .recinfo ⟨.always, ⟨false, 1⟩, .self, .len⟩),
    (0xAA00040009000401, .recinfo ⟨.always, ⟨false, 1⟩, .by (.scl 9), .hi⟩),
    (0xAB00000604000005, .taskemit 5 3 4),
    (0xAC00000000000000, .teamdone),
    (0xAD00000000000000, .nodeexit),
    (0x9C007C0600000000, .barInit 31 3),
    (0xA0007C0600000000, .barExpect 31 3),
    (0x9D007C0000000000, .barArrive 31),
    (0x9E007C0000000000, .barSync 31),
    (0x9F007C0000000000, .barWait 31),
    (0x9800001000000000, .acopy 8),
    (0x9900002000000000, .acopy2d 16),
    (0x9A00000000005FE0, .waitc .net 255),
    (0x9B00000800000020, .yieldCopy 4 1)] = true := by decide +kernel

theorem test_decode_matrix_and_graphics : readsAll (decodeSlot 2) [
    (0xB000101010021000, .mma ⟨.always, 4, 8, ⟨false, 16⟩, 4, 1, ⟨false, 0⟩⟩),
    (0xB1007C09050F7848, .mmaSp ⟨.always, 31, 4, ⟨true, 5⟩, 30, 7, ⟨true, 9⟩⟩),
    (0xB200045400002000, .mload ⟨.always, 1, 42, .f16⟩),
    (0xB3000C0800006000, .mstore ⟨.always, 3, 4, .i32⟩),
    (0xB400240000000000, .mzero .always 9),
    (0xB500000800003000, .mspload .always 4 3),
    (0xB600A04C24000024, .miter ⟨.always, 40, 1, 0, 36, .affine 38 1⟩),
    (0xB60004000402DC18, .miter ⟨.always, 1, 6, 5, 4, .poly 7⟩),
    (0xB60004000402A000, .miter ⟨.always, 1, 0, 5, 4, .ns⟩),
    (0xB7000C0000027800, .mpoly .always 3 4 15),
    (0xB800840000020000, .mnorm .always 33 4),
    (0xB90080000C001C30, .neval ⟨.always, ⟨false, 32⟩, ⟨false, 0⟩, .vec ⟨false, 12⟩, 7, 3⟩),
    (0xC090000000000000, .latchB (.on false 2)),
    (0xC100000000000000, .latchE .always),
    (0xC200A00014002000, .trvBox ⟨.always, ⟨false, 40⟩, 2, ⟨false, 0⟩, ⟨false, 20⟩⟩),
    (0xC300101002007000, .trvTri ⟨.always, ⟨false, 4⟩, 7, ⟨false, 8⟩, ⟨false, 2⟩⟩),
    (0xC498022800000000, .trvPush (.on false 3) ⟨true, 20⟩),
    (0xC500200000007000, .trvPop .always ⟨false, 8⟩ 7),
    (0xC600040400004000, .ddx ⟨.always, ⟨false, 1⟩, ⟨false, 2⟩, .rn⟩),
    (0xC700040400000000, .ddy ⟨.always, ⟨false, 1⟩, ⟨false, 2⟩, .none⟩),
    (0xC80010100C080000, .texG ⟨.always, ⟨false, 4⟩, ⟨false, 8⟩, ⟨false, 12⟩, 16⟩),
    (0xC90010100C1C0000, .texL ⟨.always, ⟨false, 4⟩, ⟨false, 8⟩, ⟨false, 12⟩, 56⟩)] = true := by decide +kernel

theorem test_decode_system : readsAll (decodeSlot 2) [
    (0xD0000C0004000000, .rdsr 3 4),
    (0xD10000061F000000, .wrsr 0x1F 3),
    (0xD200001C00000000, .rplay 14),
    (0xD300000000000000, .trapret),
    (0xD400080000000001, .clock true 2),
    (0xD500000400000000, .savew 2),
    (0xD600000400000000, .restw 2),
    (0xD700000000000000, .haltw),
    (0xDFFFFFFFFFFFFFFF, .hint 7 0xFFFFFFFFFFFFFF)] = true := by decide +kernel

theorem test_decode_keyway : readsAll (decodeKeyway) [
    (0x05C0000000000000, .qli 7 0),
    (0x0640000000000001, .qli 9 1),
    (0x08400000FFFFFFFF, .qlih 1 0xFFFFFFFF),
    (0x0C48C00000000000, .qadd 1 2 3),
    (0x1448C00000000000, .qsub 1 2 3),
    (0x1848C00000000000, .qand 1 2 3),
    (0x1C48C00000000000, .qor 1 2 3),
    (0x1048000080000000, .qaddi 1 2 0x80000000),
    (0x204800000000003F, .qshl 1 2 63),
    (0x2448000000000001, .qshr 1 2 1),
    (0x2848000000000008, .qld 1 2 8),
    (0x2C08C00000000008, .qst 2 3 8),
    (0x4019C80000000005, .br .ne 6 7 5),
    (0x45000000FFFFFFFE, .loop 4 0xFFFFFFFE),
    (0x4800000000000009, .keywayCall 9),
    (0x4C00000000000000, .keywayRet),
    (0x6184000000000000, .launch 6 1),
    (0x6412400600000000, .signal .set true true 4 9),
    (0x6412400100000000, .signal .add false false 4 9),
    (0x6A0A500000000000, .wait .hs false 8 2 9 0),
    (0x6848D802000003E8, .wait .ge true 1 2 3 1000),
    (0x6C0C000000000000, .copy 3),
    (0xFC00000000000000, .endq false),
    (0xFC00000400000000, .endq true)] = true := by decide +kernel

/-! ### Single steps: v1 holds 2.0 in lane 0 and v2 holds 1.0; s3 is 5 and s10 is 0x2000 -/

/-- A number of wave 7 after an instruction of the bundle at 0x1000. -/
def after (i : Instr) (f : Wave → Nat) : Option Nat := match exec i tBed with
  | .next t => (findWave t 7).map f
  | _ => none
def vOf (n l : Nat) (w : Wave) : Nat := (readV w n l).toNat
def sOf (n : Nat) (w : Wave) : Nat := (readS w n).toNat
def oI2 (b : VB) : I2 := ⟨.always, ⟨false, 10⟩, ⟨false, 1⟩, b⟩
def oF2 (b : VB) (mb : Mod) : F2 := ⟨.always, ⟨false, 10⟩, ⟨false, 1⟩, b, .none, zPlain, mb⟩
-- 08 R230: 2.0 + 1.0, 2.0 - 1.0 through NB, 2.0 x 2.0.
theorem test_fadd : after (.fadd (oF2 (.vec ⟨false, 2⟩) zPlain)) (vOf 10 0) = some 0x40400000 := by decide +kernel
theorem test_fadd_negated : after (.fadd (oF2 (.vec ⟨false, 2⟩) ⟨true, false⟩)) (vOf 10 0) = some 0x3F800000 := by decide +kernel
theorem test_fmul : after (.fmul (oF2 (.vec ⟨false, 1⟩) zPlain)) (vOf 10 0) = some 0x40800000 := by decide +kernel
-- 08 R227 R229: sums modulo 2^32, and a scalar source in every lane.
theorem test_iadd_vector : after (.iadd (oI2 (.vec ⟨false, 1⟩)) .wrap) (vOf 10 0) = some 0x80000000 := by decide +kernel
theorem test_iadd_scalar : after (.iadd (oI2 (.scl 3)) .wrap) (vOf 10 31) = some 5 := by decide +kernel
theorem test_isub_wraps : after (.ssub ⟨4, 5, 3⟩ false) (sOf 4) = some 0xFFFFFFFB := by decide +kernel
-- 04 R135, 08 R235: 2.0 to INT32.
theorem test_cvt : after (.cvt ⟨.always, ⟨false, 10⟩, ⟨false, 1⟩, .none, false, zPlain, .int32, .fp32⟩) (vOf 10 0) = some 2 := by decide +kernel
-- 16 R389: QADDI with a negative immediate; IMM is a signed word.
theorem test_qaddi : (match exec (.qaddi 0 2 0xFFFFFFFE) kPlain with
    | .next t => some (laneReg t 0).toNat
    | _ => none) = some 1 := by decide +kernel
-- 16 R397, 15 R355: CTXBIND of a FREE slot leaves the context IDLE, with STATUS 0 in the response.
theorem test_ctxbind : (match exec (.ctxbind (pkt [])) State.reset with
    | .next t => decide ((getCtx t 0).state = .idle) && decide (respNat t 6 2 = 0) && decide (respNat t 4 2 = 9)
    | _ => false) = true := by decide +kernel
-- FIPS 180-4: the digest of "abc" (18 R421 R423).
theorem test_sha256 : beNat (sha256 [0x61, 0x62, 0x63]) = 0xBA7816BF8F01CFEA414140DE5DAE2223B00361A396177A9CB410FF61F20015AD := by decide +kernel

end Sys2Proof.Tests
end

/-! Calls, returns and the slot switch (10 R285 R286 R288). First the rules that these instructions share: operands that pass
their checks, two changes of one wave in a row, the lanes of a mask and the issuing path; then one equation for each
instruction on a path. -/

section

namespace Sys2Proof.Proofs
open Sys2Proof Sys2Proof.Machine Sys2Proof.Claims

/-! ### The issuing wave -/

theorem srcWave_of_issuing {s : State} {w v : Wave} (h : Issuing s w v) : srcWave s = w := by
  simp [srcWave, h.1]

/-- With operands that pass the checks of 07 R213, the only trap left is the instruction's own condition. -/
theorem firstFault_of_operandsOk {i : Instr} {s : State} {w v : Wave} (hi : Issuing s w v) (ho : OperandsOk i w)
    (e : Option OpFault) : firstFault i s e = e := by
  obtain ⟨hwf, hu⟩ := ho
  have hs := srcWave_of_issuing hi
  refine firstFault_operands hwf ?_ ?_ <;> rw [hs, List.any_eq_false] <;> intro u hmem <;> have hv := hu u hmem
  · simp only [useMisaligned, Bool.and_eq_true, decide_eq_true_eq, not_and, not_not]
    exact fun hf => (hv hf).1
  · simp only [useOutside, Bool.and_eq_true, decide_eq_true_eq, not_and, not_lt]
    exact fun hf => (hv hf).2

theorem setWaveIn_setWaveIn (ws : List Wave) {a b : Wave} (h : b.id = a.id) :
    setWaveIn (setWaveIn ws a) b = setWaveIn ws b := by
  induction ws with
  | nil => rfl
  | cons x r ih => by_cases hx : x.id = a.id <;> simp [setWaveIn, hx, h, ih]

theorem setWave_setWave (s : State) {a b : Wave} (h : b.id = a.id) : setWave (setWave s a) b = setWave s b := by
  simp [setWave, setWaveIn_setWaveIn s.waves h]

/-- The wave of the bundle, once changed, is found again. -/
theorem findWave_setWave_issuing {s : State} {v u : Wave} (h : findWave s s.iss.wave = some v) (hu : u.id = v.id) :
    findWave (setWave s u) s.iss.wave = some u := by
  have hid : u.id = s.iss.wave := hu.trans (findWave_id h)
  rw [← hid] at h ⊢
  exact findWave_setWave_self h

/-! ### The issuing path -/

theorem setPc_of_getSlot {s : State} {v : Wave} {p : Path} (pc : Pc) (h : findWave s s.iss.wave = some v)
    (hp : getSlot v s.iss.pcSlot = .ready p) :
    setPc s pc = setWave s (setSlot v s.iss.pcSlot (.ready { p with pc := pc })) := by
  rw [setPc, updPath, updCur_eq _ h, hp, mapPath]

theorem setPc_of_onPath {s : State} {w v : Wave} (h : OnPath s w v) (pc : Pc) : setPc s pc = setWave s (movedTo s v pc) := by
  obtain ⟨⟨-, hv⟩, hslot, -⟩ := h
  rw [setPc_of_getSlot pc hv hslot, movedTo]

/-- Setting the PC after a change of the wave that left its path alone. -/
theorem setPc_setWave_of_onPath {s : State} {w v u : Wave} (h : OnPath s w v) (hu : u.id = v.id)
    (hp : getSlot u s.iss.pcSlot = getSlot v s.iss.pcSlot) (pc : Pc) :
    setPc (setWave s u) pc = setWave s (movedTo s u pc) := by
  obtain ⟨⟨-, hv⟩, hslot, -⟩ := h
  have hset := setPc_of_getSlot (s := setWave s u) pc (findWave_setWave_issuing hv hu) (hp.trans hslot)
  rw [hset, setWave_setWave s (setSlot_id ..)]
  rfl

/-- The sum of 10 R282 modulo 2^52 is the sum of the two signed numbers. -/
theorem bundleOfs_eq_bundlesOn (pc : Pc) (o : BitVec 24) : bundleOfs pc o = bundlesOn pc o := by
  rw [bundleOfs, bundlesOn, BitVec.ofInt_add, BitVec.ofInt_mul, BitVec.ofInt_toInt, BitVec.mul_comm]
  rfl

/-! ### Lanes of a mask -/

theorem mem_lanesOf {m : Mask} {l : Nat} : l ∈ lanesOf m ↔ l < 32 ∧ inMask m l = true := by
  simp [lanesOf, allLanes]

theorem lanesOf_ne_nil {m : Mask} (h : m ≠ 0) : lanesOf m ≠ [] := by
  intro hnil
  refine h (BitVec.eq_of_getLsbD_eq fun l hl => ?_)
  have hout : l ∉ lanesOf m := by simp [hnil]
  simpa [mem_lanesOf, hl, inMask] using hout

/-- The first lane of a mask that is not empty, the one whose value RET takes. -/
theorem headD_mem_lanesOf {m : Mask} (h : m ≠ 0) : (lanesOf m).headD 0 ∈ lanesOf m := by
  obtain ⟨l, r, hl⟩ := List.exists_cons_of_ne_nil (lanesOf_ne_nil h)
  simp [hl]

/-! ### Vector registers -/

theorem writeVec_eq_with_vr (n : Nat) (g : Nat → Word) (ls : List Nat) (w : Wave) :
    writeVec n g ls w = { w with vr := (writeVec n g ls w).vr } := by
  induction ls generalizing w with
  | nil => rfl
  | cons l r ih => rw [writeVec, ih]

@[simp] theorem getSlot_writeVec (n : Nat) (g : Nat → Word) (ls : List Nat) (w : Wave) (k : PcSlot) :
    getSlot (writeVec n g ls w) k = getSlot w k := by
  cases k
  · exact writeVec_slotA n g ls w
  · exact writeVec_slotB n g ls w

theorem setSlot_with_vr (w : Wave) (k : PcSlot) (x : SlotState) (c : Cells 32) :
    setSlot { w with vr := c } k x = { setSlot w k x with vr := c } := by
  cases k <;> rfl

/-- The lanes of a list hold a 64-bit value in a register pair, low word first (04 R131). -/
def writePair (n : Nat) (x : DWord) (ls : List Nat) (w : Wave) : Wave :=
  writeVec (n + 1) (fun _ => x.extractLsb' 32 32) ls (writeVec n (fun _ => x.extractLsb' 0 32) ls w)

@[simp] theorem writePair_id (n : Nat) (x : DWord) (ls : List Nat) (w : Wave) : (writePair n x ls w).id = w.id := by
  simp [writePair]

@[simp] theorem getSlot_writePair (n : Nat) (x : DWord) (ls : List Nat) (w : Wave) (k : PcSlot) :
    getSlot (writePair n x ls w) k = getSlot w k := by
  simp [writePair]

theorem writePair_eq_with_vr (n : Nat) (x : DWord) (ls : List Nat) (w : Wave) :
    writePair n x ls w = { w with vr := (writePair n x ls w).vr } := by
  unfold writePair
  rw [writeVec_eq_with_vr (n + 1), writeVec_eq_with_vr n]

theorem readV_writePair (n : Nat) (x : DWord) (m : Mask) (w : Wave) (k l : Nat) (hl : l < 32) :
    readV (writePair n x (lanesOf m) w) k l =
      if inMask m l = true ∧ k = n then x.extractLsb' 0 32
      else if inMask m l = true ∧ k = n + 1 then x.extractLsb' 32 32
      else readV w k l := by
  have hlanes : ∀ j ∈ lanesOf m, j < 32 := fun j hj => (mem_lanesOf.mp hj).1
  rw [writePair, readV_writeVec _ _ _ _ _ _ hl hlanes, readV_writeVec _ _ _ _ _ _ hl hlanes]
  by_cases hlow : k = n
  · subst hlow
    simp [mem_lanesOf, hl]
  · simp [mem_lanesOf, hl, hlow, and_comm]

/-! ### CALL (10 R285) -/

theorem exec_call (tofs : BitVec 24) (d : VReg) (s : State) : exec (.call tofs d) s = execCall tofs d s := rfl

/-- CALL on a path: the return address in the lanes of the path, and the path at its target. -/
theorem changesWave_call {s : State} {w v : Wave} {tofs : BitVec 24} {d : VReg} (h : OnPath s w v)
    (ho : OperandsOk (.call tofs d) w) :
    ChangesWave (.call tofs d) s (movedTo s
      (writePair (vnum w.ix.toNat d) ((s.iss.pc + 32).setWidth 64) (lanesOf (issPath s).mask) v)
      (bundlesOn s.iss.pc tofs)) := by
  have hi : Issuing s w v := h.1
  have heff : effCall tofs d s = setPc (setWave s (writePair (vnum w.ix.toNat d) ((s.iss.pc + 32).setWidth 64)
      (lanesOf (issPath s).mask) v)) (bundlesOn s.iss.pc tofs) := by
    simp [effCall, writePair, updCur_eq _ hi.2, srcWave_of_issuing hi, bundleOfs_eq_bundlesOn]
  rw [ChangesWave, exec_call, execCall, run_effect (firstFault_of_operandsOk hi ho none), heff,
    setPc_setWave_of_onPath h (writePair_id ..) (getSlot_writePair ..)]

/-! ### RET (10 R286) -/

theorem exec_ret (a : VReg) (s : State) : exec (.ret a) s = execRet a s := rfl

/-- The model's test for a bundle address is the one of 10 R283. -/
theorem badTarget_eq_true_iff {x : DWord} : badTarget x = true ↔ ¬ goodTarget x := by
  have hlow : x.extractLsb' 0 5 = 0 ↔ x.toNat % 32 = 0 := by
    rw [← BitVec.toNat_inj]; simp
  have hhigh : x.extractLsb' 52 12 = 0 ↔ x.toNat < 2 ^ 52 := by
    rw [← BitVec.toNat_inj]
    have := x.isLt
    simp [Nat.shiftRight_eq_div_pow]
    omega
  rw [badTarget, goodTarget, Bool.or_eq_true, decide_eq_true_eq, decide_eq_true_eq, ne_eq, ne_eq, hlow, hhigh, not_and_or]

/-- RET is misaligned where a lane of its path holds no bundle address. -/
theorem retMisaligned_iff {s : State} {w v : Wave} (h : Issuing s w v) (a : VReg) :
    retMisaligned a s = true ↔
      ∃ l, l < 32 ∧ inMask (issPath s).mask l = true ∧ ¬ goodTarget (readVP w (vnum w.ix.toNat a) l) := by
  simp [retMisaligned, srcWave_of_issuing h, mem_lanesOf, badTarget_eq_true_iff, and_assoc]

theorem retValue_of_lanesAgree {s : State} {w v : Wave} {a : VReg} {x : DWord} (h : Issuing s w v)
    (hx : lanesAgree s w a x) : retValue a s = x := by
  obtain ⟨hmask, hall⟩ := hx
  obtain ⟨hl, hin⟩ := mem_lanesOf.mp (headD_mem_lanesOf hmask)
  rw [retValue, srcWave_of_issuing h]
  exact hall _ hl hin

/-- The lanes of RET agree where some address is the one that each of them holds. -/
theorem retAgrees_iff {s : State} {w v : Wave} {a : VReg} (h : Issuing s w v) (hmask : (issPath s).mask ≠ 0) :
    retAgrees a s = true ↔ ∃ x, lanesAgree s w a x := by
  have hagree : retAgrees a s = true ↔ lanesAgree s w a (retValue a s) := by
    refine Iff.trans ?_ (and_iff_right hmask).symm
    simp [retAgrees, srcWave_of_issuing h, mem_lanesOf]
  refine ⟨fun hr => ⟨_, hagree.mp hr⟩, fun ⟨x, hx⟩ => hagree.mpr ?_⟩
  rwa [retValue_of_lanesAgree h hx]

/-- A lane without a bundle address traps, whether or not the lanes agree (07 R213). -/
theorem ret_traps_misTarget {s : State} {w v : Wave} {a : VReg} (h : Issuing s w v) (ho : OperandsOk (.ret a) w)
    (hm : retMisaligned a s = true) : exec (.ret a) s = finish (takeTrap s (plainFault .misTarget)) := by
  have hf : faultRet a s = some (plainFault .misTarget) := by simp [faultRet, hm]
  rw [exec_ret, execRet, run_trap ((firstFault_of_operandsOk h ho _).trans hf)]

theorem ret_traps_illConvergence {s : State} {w v : Wave} {a : VReg} (h : Issuing s w v) (ho : OperandsOk (.ret a) w)
    (hm : retMisaligned a s = false) (hr : retAgrees a s = false) :
    exec (.ret a) s = finish (takeTrap s (plainFault .illConvergence)) := by
  have hf : faultRet a s = some (plainFault .illConvergence) := by simp [faultRet, hm, hr]
  rw [exec_ret, execRet, run_trap ((firstFault_of_operandsOk h ho _).trans hf)]

theorem changesWave_ret {s : State} {w v : Wave} {a : VReg} (h : OnPath s w v) (ho : OperandsOk (.ret a) w)
    (hm : retMisaligned a s = false) (hr : retAgrees a s = true) :
    ChangesWave (.ret a) s (movedTo s v ((retValue a s).setWidth 52)) := by
  have hf : faultRet a s = none := by simp [faultRet, hm, hr]
  rw [ChangesWave, exec_ret, execRet, run_effect ((firstFault_of_operandsOk h.1 ho _).trans hf),
    BitVec.setWidth_eq_extractLsb' (by decide), setPc_of_onPath h]

/-- Where the lanes agree, RET is misaligned as the one address that they hold is. -/
theorem retMisaligned_iff_of_lanesAgree {s : State} {w v : Wave} {a : VReg} {x : DWord} (h : Issuing s w v)
    (hx : lanesAgree s w a x) : retMisaligned a s = true ↔ ¬ goodTarget x := by
  obtain ⟨hmask, hall⟩ := hx
  rw [retMisaligned_iff h]
  constructor
  · rintro ⟨l, hl, hin, hbad⟩
    rwa [hall l hl hin] at hbad
  · intro hbad
    obtain ⟨hl, hin⟩ := mem_lanesOf.mp (headD_mem_lanesOf hmask)
    exact ⟨_, hl, hin, by rwa [hall _ hl hin]⟩

/-- Settles O8: CALL writes its return address before its path moves; RET checks each lane's address, then their agreement. -/
theorem callAndReturn : Obligations.CallAndReturn := by
  intro s w v h
  refine ⟨fun tofs d ho => ?_, fun a x ho hx => ?_, fun a ho hno hmask => ?_⟩
  · refine ⟨_, changesWave_call h ho, ?_, fun n l hl => ?_⟩
    · rw [writePair_eq_with_vr, movedTo, setSlot_with_vr]
      rfl
    · rw [← readV_writePair _ _ _ _ _ _ hl]
      simp [readV, movedTo]
  · have hmis := retMisaligned_iff_of_lanesAgree h.1 hx
    constructor
    · intro hgood
      have hret := changesWave_ret h ho (by simpa [hgood] using hmis) ((retAgrees_iff h.1 hx.1).mpr ⟨x, hx⟩)
      rwa [retValue_of_lanesAgree h.1 hx] at hret
    · exact fun hbad => ret_traps_misTarget h.1 ho (hmis.mpr hbad)
  · have hmis := retMisaligned_iff h.1 a
    constructor
    · exact fun hbad => ret_traps_misTarget h.1 ho (hmis.mpr hbad)
    · intro hgood
      refine ret_traps_illConvergence h.1 ho ?_ ?_
      · rw [← Bool.not_eq_true, hmis]
        exact fun ⟨l, hl, hin, hbad⟩ => hbad (hgood l hl hin)
      · rwa [← Bool.not_eq_true, retAgrees_iff h.1 hmask]

/-! ### SLOTSW (10 R288) -/

theorem exec_slotsw (s : State) : exec .slotsw s = execSlotsw s := rfl

/-- SLOTSW runs its effect on the wave of its path, whatever the other slot holds. -/
theorem exec_slotsw_eq_effSlotsw {s : State} {w v : Wave} (h : Issuing s w v) (ho : OperandsOk .slotsw w) :
    exec .slotsw s = .next (effSlotsw s) := by
  rw [exec_slotsw, execSlotsw, run_effect (firstFault_of_operandsOk h ho none)]

theorem effSlotsw_of_presentable {s : State} {v : Wave} {q : Path} (hv : findWave s s.iss.wave = some v)
    (hy : getSlot v (otherSlot s.iss.pcSlot) = .ready q ∨ getSlot v (otherSlot s.iss.pcSlot) = .held q) :
    effSlotsw s = setWave s { v with cur := otherSlot s.iss.pcSlot, fair := 0 } := by
  rw [effSlotsw, updCur_eq _ hv]
  rcases hy with hy | hy <;> rw [hy]

theorem effSlotsw_of_not_presentable {s : State} {v : Wave} (hv : findWave s s.iss.wave = some v)
    (hy : getSlot v (otherSlot s.iss.pcSlot) = .empty ∨ ∃ q x, getSlot v (otherSlot s.iss.pcSlot) = .parked q x) :
    effSlotsw s = setWave s v := by
  rw [effSlotsw, updCur_eq _ hv]
  rcases hy with hy | ⟨q, x, hy⟩ <;> rw [hy]

theorem getSlot_with_cur_fair (v : Wave) (k c : PcSlot) (n : BitVec 7) :
    getSlot { v with cur := c, fair := n } k = getSlot v k := by
  cases k <;> rfl

/-- Settles O11: by what the other slot holds; neither slot's content nor a reservation is touched. -/
theorem slotswPresentsOther : Obligations.SlotswPresentsOther := by
  intro s w v h ho
  obtain ⟨hi, hslot, -⟩ := h
  refine ⟨fun ⟨q, hy⟩ => ⟨_, ?_, rfl, rfl, ?_⟩, fun hy => ?_⟩
  · rw [ChangesWave, exec_slotsw_eq_effSlotsw hi ho, effSlotsw_of_presentable hi.2 hy]
  · rw [getSlot_with_cur_fair, hslot]
  · rw [ChangesWave, exec_slotsw_eq_effSlotsw hi ho, effSlotsw_of_not_presentable hi.2 hy]

end Sys2Proof.Proofs
end
